-- ==== Sys2Proof/Word.lean ====
section
/-! DEFINITION. The word types of the machine (R6, R7) and their plainest arithmetic. -/

namespace Sys2Proof

/-- A byte (R6). -/
abbrev Byte := BitVec 8

/-- A word: 8 bytes (R7). -/
abbrev Word := BitVec 64

/-- Two's complement reading of the low `n` bits of a word, as a word (R91, `sext`). -/
def Word.sextFrom (n : Nat) (w : Word) : Word := (w.setWidth n).signExtend 64

/-- Unsigned reading of the low `n` bits of a word, as a word (R91, `zext`). -/
def Word.zextFrom (n : Nat) (w : Word) : Word := (w.setWidth n).setWidth 64

/-- Bits `[lo + n - 1 : lo]` of a word as a number (R91, `e[hi:lo]`). -/
def Word.field (w : Word) (lo n : Nat) : Nat := (w.toNat >>> lo) % 2 ^ n

end Sys2Proof
end

