-- ==== Sys2Proof/Syntax.lean ====
section
/-! DEFINITION. The syntax: operand fields of the eight syllable formats (R60 to R73), the data that hardware, firmware
and host steps carry, and the one inductive `Instr` with a constructor per row of the opcode table.
A syllable constructor holds the fields of its format as the encoding has them; `WellFormed` says which values the
encoding admits. A step that has no encoding (R342 onward) holds the identities and data it acts on. -/

namespace Sys2Proof

/-- The guard fields GP and GS of a syllable (R60, R61). -/
structure Guard where
  gp : BitVec 5
  gs : Bool
  deriving DecidableEq, Repr

/-- Format A: three registers and a modifier (R64). -/
structure FmtA where
  g : Guard
  d : BitVec 6
  sa : BitVec 6
  sb : BitVec 6
  mod : BitVec 16
  deriving DecidableEq, Repr

/-- Format I: a register pair and an immediate (R65). -/
structure FmtI where
  g : Guard
  d : BitVec 6
  sa : BitVec 6
  imm : BitVec 32
  deriving DecidableEq, Repr

/-- Format B: control transfer (R66). -/
structure FmtB where
  g : Guard
  sa : BitVec 6
  aux : BitVec 9
  off : BitVec 32
  deriving DecidableEq, Repr

/-- Format M: memory (R67). -/
structure FmtM where
  g : Guard
  d : BitVec 6
  base : BitVec 6
  index : BitVec 6
  scale : BitVec 3
  ix : Bool
  flags : BitVec 4
  disp : BitVec 20
  deriving DecidableEq, Repr

/-- Format V: vector (R68). -/
structure FmtV where
  g : Guard
  vd : BitVec 6
  va : BitVec 6
  vb : BitVec 6
  vc : BitVec 6
  mask : BitVec 3
  xt : BitVec 4
  fmt : BitVec 4
  rmode : BitVec 3
  cfile : BitVec 2
  aux : BitVec 3
  deriving DecidableEq, Repr

/-- Format E: engine instructions (R70). -/
structure FmtE where
  g : Guard
  push : BitVec 3
  pop : BitVec 4
  opa : BitVec 6
  opb : BitVec 6
  opc : BitVec 6
  fsel : BitVec 3
  isAt : Bool
  ats : Bool
  atreg : BitVec 6
  mod : BitVec 8
  deriving DecidableEq, Repr

/-- Format L: long immediate; the literal stands in the next position (R73). -/
structure FmtL where
  g : Guard
  d : BitVec 6
  lit : Word
  deriving DecidableEq, Repr

/-- A global task identifier: SERIAL in [63:24], INDEX in [23:0] (R20). -/
abbrev Gtid := Word


/-- The engines of a share that carry dependence tokens (R71, R305). -/
inductive Engine where
  | v | mx | qr | cp | xe
  deriving DecidableEq, Repr

/-- A message of the fabric (R526): its header, its payload, and the authentication tag of an encrypted one. -/
structure Msg where
  src : BitVec 12
  dst : BitVec 12
  typ : BitVec 8
  vc : BitVec 3
  path : BitVec 3 := 0
  enc : Bool := false
  kph : Bool := false
  seq : BitVec 32 := 0
  w2 : Word := 0
  w3 : Word := 0
  payload : List Byte := []
  tag : List Byte := []
  deriving DecidableEq, Repr

/-- An error the memory controllers find (R384 to R386): where, its syndrome, and the task whose access found it. -/
structure ErrSite where
  die : Nat
  array : Nat
  sub : Nat
  loc : Nat
  syndrome : Word
  gtid : Gtid
  pa : Nat := 0          -- the word concerned, for memory and slices
  deriving DecidableEq, Repr

/-- Who gave a command, and its tag (R503, R504, R537). -/
inductive Caller where
  | sideband (tag : BitVec 32)
  | lcp (qp : Nat) (tag : BitVec 32)
  deriving DecidableEq, Repr

/-- What the power limiter measures over a window, and the demand it foresees (R507 to R509), in milliwatts: the demand of
row issue, of binning-core issue and of the engines, each by class in the order urgent, normal, background, filler; the
filler demand of each row; and the module's demand besides. -/
structure PowerIn where
  p : Nat
  base : Nat
  row : List Nat
  bc : List Nat
  eng : List Nat
  filler : List Nat
  deriving DecidableEq, Repr


/-- The instructions and steps of the machine: one constructor per row of the opcode table: the scalar
syllables, the steps that carry data, the other syllables, and the steps that carry none. (Lean's run-time data format has tags for the first 245 constructors with
fields only, so a definition that builds a later one has no compiled code; its meaning in the kernel is unaffected.) -/
inductive Instr where
  /-- R124. -/
  | yield (f : FmtA)
  /-- R124. -/
  | exit (f : FmtA)
  /-- R112. -/
  | add (f : FmtA)
  /-- R112. -/
  | sub (f : FmtA)
  /-- R112. -/
  | mul (f : FmtA)
  /-- R112. -/
  | mulh (f : FmtA)
  /-- R112. -/
  | mulhu (f : FmtA)
  /-- R113. -/
  | div (f : FmtA)
  /-- R113. -/
  | divu (f : FmtA)
  /-- R113. -/
  | rem (f : FmtA)
  /-- R113. -/
  | remu (f : FmtA)
  /-- R112. -/
  | and (f : FmtA)
  /-- R112. -/
  | or (f : FmtA)
  /-- R112. -/
  | xor (f : FmtA)
  /-- R112. -/
  | andn (f : FmtA)
  /-- R112. -/
  | shl (f : FmtA)
  /-- R112. -/
  | shr (f : FmtA)
  /-- R112. -/
  | sra (f : FmtA)
  /-- R112. -/
  | rot (f : FmtA)
  /-- R112. -/
  | min (f : FmtA)
  /-- R112. -/
  | max (f : FmtA)
  /-- R112. -/
  | minu (f : FmtA)
  /-- R112. -/
  | maxu (f : FmtA)
  /-- R112. -/
  | clz (f : FmtA)
  /-- R112. -/
  | popc (f : FmtA)
  /-- R112. -/
  | sel (f : FmtA)
  /-- R112. -/
  | mov (f : FmtA)
  /-- R112. -/
  | sext (f : FmtA)
  /-- R112. -/
  | zext (f : FmtA)
  /-- R114. -/
  | addImm (f : FmtI)
  /-- R114. -/
  | mulImm (f : FmtI)
  /-- R114. -/
  | andImm (f : FmtI)
  /-- R114. -/
  | orImm (f : FmtI)
  /-- R114. -/
  | xorImm (f : FmtI)
  /-- R114. -/
  | shlImm (f : FmtI)
  /-- R114. -/
  | shrImm (f : FmtI)
  /-- R114. -/
  | sraImm (f : FmtI)
  /-- R114. -/
  | rotImm (f : FmtI)
  /-- R114. -/
  | minImm (f : FmtI)
  /-- R114. -/
  | maxImm (f : FmtI)
  /-- R114. -/
  | minuImm (f : FmtI)
  /-- R114. -/
  | maxuImm (f : FmtI)
  /-- R114. -/
  | movImm (f : FmtI)
  /-- R114. -/
  | movh (f : FmtI)
  /-- R115. -/
  | movl (f : FmtL)
  /-- R117. -/
  | cmpEq (f : FmtA)
  /-- R117. -/
  | cmpNe (f : FmtA)
  /-- R117. -/
  | cmpLt (f : FmtA)
  /-- R117. -/
  | cmpGe (f : FmtA)
  /-- R117. -/
  | cmpLtu (f : FmtA)
  /-- R117. -/
  | cmpGeu (f : FmtA)
  /-- R117. -/
  | cmpiEq (f : FmtI)
  /-- R117. -/
  | cmpiNe (f : FmtI)
  /-- R117. -/
  | cmpiLt (f : FmtI)
  /-- R117. -/
  | cmpiGe (f : FmtI)
  /-- R117. -/
  | cmpiLtu (f : FmtI)
  /-- R117. -/
  | cmpiGeu (f : FmtI)
  /-- R118. -/
  | pand (f : FmtA)
  /-- R118. -/
  | por (f : FmtA)
  /-- R118. -/
  | pxor (f : FmtA)
  /-- R118. -/
  | pandn (f : FmtA)
  /-- R118. -/
  | pnot (f : FmtA)
  /-- R118. -/
  | pmov (f : FmtA)
  /-- R118. -/
  | pget (f : FmtA)
  /-- R120. -/
  | fadd (f : FmtA)
  /-- R120. -/
  | fsub (f : FmtA)
  /-- R120. -/
  | fmul (f : FmtA)
  /-- R120. -/
  | fdiv (f : FmtA)
  /-- R120. -/
  | fsqrt (f : FmtA)
  /-- R120. -/
  | fma (f : FmtA)
  /-- R120. -/
  | fmin (f : FmtA)
  /-- R120. -/
  | fmax (f : FmtA)
  /-- R121. -/
  | fcmp (f : FmtA)
  /-- R122. -/
  | fcvt (f : FmtA)
  /-- R122. -/
  | fcvti (f : FmtA)
  /-- R122. -/
  | fcvtf (f : FmtA)
  /-- R125. -/
  | br (f : FmtB)
  /-- R125. -/
  | brp (f : FmtB)
  /-- R125. -/
  | call (f : FmtB)
  /-- R125. -/
  | ret (f : FmtB)
  /-- R125. -/
  | jmpr (f : FmtB)
  /-- R126. -/
  | loop (f : FmtB)
  /-- R128. -/
  | nexttile (f : FmtB)
  /-- R130. -/
  | ld8 (f : FmtM)
  /-- R130. -/
  | ld8sx (f : FmtM)
  /-- R130. -/
  | ld16 (f : FmtM)
  /-- R130. -/
  | ld16sx (f : FmtM)
  /-- R130. -/
  | ld32 (f : FmtM)
  /-- R130. -/
  | ld32sx (f : FmtM)
  /-- R130. -/
  | ld64 (f : FmtM)
  /-- R130. -/
  | st8 (f : FmtM)
  /-- R130. -/
  | st16 (f : FmtM)
  /-- R130. -/
  | st32 (f : FmtM)
  /-- R130. -/
  | st64 (f : FmtM)
  /-- R136. -/
  | lda (f : FmtM)
  /-- R136. -/
  | stl (f : FmtM)
  /-- R131. -/
  | lea (f : FmtM)
  /-- R138. -/
  | amoFadd (f : FmtM)
  /-- R138. -/
  | amoSwap (f : FmtM)
  /-- R138. -/
  | amoCas (f : FmtM)
  /-- R138. -/
  | amoMin (f : FmtM)
  /-- R138. -/
  | amoMax (f : FmtM)
  /-- R138. -/
  | amoMinu (f : FmtM)
  /-- R138. -/
  | amoMaxu (f : FmtM)
  /-- R138. -/
  | amoAnd (f : FmtM)
  /-- R138. -/
  | amoOr (f : FmtM)
  /-- R138. -/
  | amoXor (f : FmtM)
  /-- R136. -/
  | fence (f : FmtA)
  /-- R136. -/
  | fenceAcq (f : FmtA)
  /-- R136. -/
  | fenceRel (f : FmtA)
  /-- R143. -/
  | pin (f : FmtA)
  /-- R144. -/
  | unpin (f : FmtA)
  /-- R145. -/
  | ldfe (f : FmtM)
  /-- R145. -/
  | ldff (f : FmtM)
  /-- R145. -/
  | stef (f : FmtM)
  /-- R145. -/
  | stff (f : FmtM)
  /-- R145. -/
  | sete (f : FmtM)
  /-- R145. -/
  | setf (f : FmtM)
  /-- R149. -/
  | csrr (f : FmtA)
  /-- R149. -/
  | csrw (f : FmtA)
  /-- R149. -/
  | csrs (f : FmtA)
  /-- R149. -/
  | csrc (f : FmtA)
  /-- R149. -/
  | time (f : FmtA)
  /-- R152. -/
  | trap (f : FmtI)
  /-- R152. -/
  | sysc (f : FmtI)
  /-- R152. -/
  | dbg (f : FmtI)
  /-- R429. -/
  | route (f : FmtA)
  /-- R429. -/
  | routeCancel (f : FmtA)
  /-- R440. -/
  | rstat (f : FmtA)
  /-- R339. -/
  | spawn (f : FmtA)
  /-- R340. -/
  | binapp (f : FmtA)
  /-- R341. -/
  | binclr (f : FmtA)
  /-- R571. -/
  | xresv (f : FmtA)
  /-- R571. -/
  | xresvCfg (f : FmtA)
  /-- R559. -/
  | xresvEnd (f : FmtA)
  /-- R572. -/
  | xdisp (f : FmtA)
  /-- R573. -/
  | xcomb (f : FmtA)
  /-- R215. -/
  | ldvBc (f : FmtM)
  /-- R215. -/
  | stvBc (f : FmtM)
  /-- R215. -/
  | ldvtBc (f : FmtM)
  /-- R78. -/
  | bundleFetch (g : Gtid)
  /-- R344. -/
  | spineIssue (g : Gtid)
  /-- R343. -/
  | coreExecute (g : Gtid) (c : Nat)
  /-- R318. -/
  | bcIssue (g : Gtid)
  /-- R326. -/
  | bcReply (g : Gtid)
  /-- R331. -/
  | migrationSend (g : Gtid)
  /-- R331. -/
  | migrationArrive (g : Gtid)
  /-- R42. -/
  | waitSatisfied (g : Gtid)
  /-- R448. -/
  | submitDoorbell (q : Nat) (v : Word)
  /-- R456. -/
  | gangBind (serial gang : Nat)
  /-- R456. -/
  | gangStart (serial gang : Nat)
  /-- R47. -/
  | spawnBind (die : Nat)
  /-- R457. -/
  | launchAgeing (serial : Nat)
  /-- R45. -/
  | taskRetire (g : Gtid)
  /-- R453. -/
  | completionRecordPost (ring : Nat)
  /-- R461. -/
  | preempt (serial gang : Nat)
  /-- R462. -/
  | restore (serial gang : Nat)
  /-- R463. -/
  | watchdogExpiry (g : Gtid)
  /-- R54. -/
  | faultRecordPost (die : Nat)
  /-- R418. -/
  | faultService (die : Nat)
  /-- R447. -/
  | eventRecordPost (die : Nat)
  /-- R58. -/
  | resumeTask (g : Gtid) (n : Nat)
  /-- R336. -/
  | bwake (g : Gtid)
  /-- R459. -/
  | syscReply (g : Gtid)
  /-- R359. -/
  | fillerSwitch (die row : Nat)
  /-- R361. -/
  | fillerReturn (die row : Nat)
  /-- R236. -/
  | mxStart (g : Gtid) (c : Nat)
  /-- R233. -/
  | mxRetire (g : Gtid) (c : Nat)
  /-- R244. -/
  | mringBeat (g : Gtid) (c : Nat)
  /-- R264. -/
  | qrStart (g : Gtid) (c : Nat)
  /-- R264. -/
  | qrRetire (g : Gtid) (c : Nat)
  /-- R306. -/
  | tokenPush (g : Gtid) (c : Nat) (e : Engine)
  /-- R292. -/
  | copyDue (g : Gtid) (c : Nat)
  /-- R291. -/
  | copyBeat (g : Gtid) (c : Nat)
  /-- R293. -/
  | copyComplete (g : Gtid) (c : Nat)
  /-- R372. -/
  | homeAccess (key : Nat)
  /-- R391. -/
  | registration (row pa : Nat)
  /-- R392. -/
  | l1dEvict (row pa : Nat)
  /-- R374. -/
  | sliceMaintDone (die : Nat)
  /-- R388. -/
  | sliceCounterClear (die : Nat)
  /-- R11. -/
  | readClearRegister (pa : Nat)
  /-- R421. -/
  | tlbInvalidateDone (die : Nat)
  /-- R430. -/
  | collatorRowAccept (g : Gtid) (c : Nat)
  /-- R437. -/
  | collatorRecordWrite (die : Nat)
  /-- R438. -/
  | routeEnd (die : Nat)
  /-- R439. -/
  | routeResume (die : Nat)
  /-- R443. -/
  | residencyCommit (die : Nat)
  /-- R446. -/
  | hintPost (die : Nat) (g : Gtid) (w : Word)
  /-- R479. -/
  | spare (w : Caller) (die kind unit row : Nat)
  /-- R480. -/
  | unspare (w : Caller) (die kind unit row : Nat)
  /-- R481. -/
  | pprRepair (die : Nat)
  /-- R505. -/
  | fwupdate (w : Caller) (img : List Byte)
  /-- R485. -/
  | svn (w : Caller) (kind svn : Nat)
  /-- R489. -/
  | owner (w : Caller) (hash : BitVec 384)
  /-- R490. -/
  | enrol (w : Caller) (body : List Byte)
  /-- R490. -/
  | revoke (w : Caller) (body : List Byte)
  /-- R424. -/
  | badadd (w : Caller) (entry : Word)
  /-- R424. -/
  | badclr (w : Caller) (entry : Word)
  /-- R488. -/
  | attest (w : Caller) (nonce : List Byte)
  /-- R505. -/
  | regread (w : Caller) (pa : Nat)
  /-- R505. -/
  | regwrite (w : Caller) (pa : Nat) (v : Word)
  /-- R11. -/
  | registerWrite (host : Bool) (pa : Nat) (v : Word)
  /-- R494. -/
  | chunk (body : List Byte)
  /-- R495. -/
  | shardHashed (i : Nat)
  /-- R495. -/
  | shardDeadline (i : Nat)
  /-- R513. -/
  | breakpointHalt (g : Gtid)
  /-- R515. -/
  | pcSample (g : Gtid)
  /-- R516. -/
  | pressFrameClose (die : Nat)
  /-- R528. -/
  | messageReceive (port : Nat) (m : Msg)
  /-- R529. -/
  | ackSend (dev : Nat)
  /-- R529. -/
  | ackReceive (port : Nat) (m : Msg)
  /-- R529. -/
  | e2eRetransmit (dev : Nat) (seq : BitVec 32)
  /-- R530. -/
  | pairClear (v : Word)
  /-- R533. -/
  | releaseWritePerform (m : Msg)
  /-- R464. -/
  | kill (w : Caller) (g : Gtid)
  /-- R541. -/
  | xeStart (g : Gtid) (c : Nat)
  /-- R548. -/
  | putComplete (die : Nat)
  /-- R544. -/
  | receiveCounterCredit (ref n : Nat)
  /-- R558. -/
  | permitRequestReceive (port : Nat) (m : Msg)
  /-- R558. -/
  | permitWindowExpiry (die expert : Nat)
  /-- R559. -/
  | dispatchReceive (port : Nat) (m : Msg)
  /-- R377. -/
  | faddCombine (die stage switch : Nat)
  /-- R374. -/
  | sliceWritebackInvalidate (pa : Nat)
  /-- R374. -/
  | sliceWriteback (pa : Nat)
  /-- R385. -/
  | sliceDropHeld (pa : Nat)
  /-- R386. -/
  | correctableError (e : ErrSite)
  /-- R385. -/
  | uncorrectableError (e : ErrSite)
  /-- R383. -/
  | scrubRead (die : Nat)
  /-- R387. -/
  | errorInject (die : Nat) (v : Word)
  /-- R410. -/
  | pageWalk (tlb asid root : Nat) (va : Word)
  /-- R421. -/
  | tlbInvalidateAll (die : Nat)
  /-- R421. -/
  | tlbInvalidateAsid (die : Nat)
  /-- R421. -/
  | tlbInvalidateRange (die : Nat)
  /-- R507. -/
  | powerWindow (m : PowerIn)
  /-- R510. -/
  | thermalThrottle (hot : Bool)
  /-- R511. -/
  | telemetryRecord (temps : Word)
  /-- R519. -/
  | gridStore (i : Nat)
  /-- R525. -/
  | flitReceive (port : Nat) (flit : List Byte)
  /-- R525. -/
  | linkReplay (port : Nat)
  /-- R525. -/
  | linkDown (port : Nat)
  /-- R536. -/
  | rdmaWrite (qp : Nat) (rkey : BitVec 32) (psn pa : Nat) (data : List Byte)
  /-- R536. -/
  | rdmaRead (qp : Nat) (rkey : BitVec 32) (psn pa n : Nat)
  /-- R537. -/
  | lcpRequest (qp psn : Nat) (tag : BitVec 32) (op : Nat) (arg : Word) (body : List Byte)
  /-- R538. -/
  | ptpMessage (port : Nat) (off : Word) (ppm : Int)
  /-- R525. -/
  | linkUp (port : Nat)
  /-- R124. -/
  | nop
  /-- R110. -/
  | mAdd (f : FmtA)
  /-- R110. -/
  | mSub (f : FmtA)
  /-- R110. -/
  | mMul (f : FmtA)
  /-- R110. -/
  | mMulh (f : FmtA)
  /-- R110. -/
  | mMulhu (f : FmtA)
  /-- R110. -/
  | mDiv (f : FmtA)
  /-- R110. -/
  | mDivu (f : FmtA)
  /-- R110. -/
  | mRem (f : FmtA)
  /-- R110. -/
  | mRemu (f : FmtA)
  /-- R110. -/
  | mAnd (f : FmtA)
  /-- R110. -/
  | mOr (f : FmtA)
  /-- R110. -/
  | mXor (f : FmtA)
  /-- R110. -/
  | mAndn (f : FmtA)
  /-- R110. -/
  | mShl (f : FmtA)
  /-- R110. -/
  | mShr (f : FmtA)
  /-- R110. -/
  | mSra (f : FmtA)
  /-- R110. -/
  | mRot (f : FmtA)
  /-- R110. -/
  | mMin (f : FmtA)
  /-- R110. -/
  | mMax (f : FmtA)
  /-- R110. -/
  | mMinu (f : FmtA)
  /-- R110. -/
  | mMaxu (f : FmtA)
  /-- R110. -/
  | mClz (f : FmtA)
  /-- R110. -/
  | mPopc (f : FmtA)
  /-- R110. -/
  | mSel (f : FmtA)
  /-- R110. -/
  | mMov (f : FmtA)
  /-- R110. -/
  | mSext (f : FmtA)
  /-- R110. -/
  | mZext (f : FmtA)
  /-- R110. -/
  | mAddImm (f : FmtI)
  /-- R110. -/
  | mMulImm (f : FmtI)
  /-- R110. -/
  | mAndImm (f : FmtI)
  /-- R110. -/
  | mOrImm (f : FmtI)
  /-- R110. -/
  | mXorImm (f : FmtI)
  /-- R110. -/
  | mShlImm (f : FmtI)
  /-- R110. -/
  | mShrImm (f : FmtI)
  /-- R110. -/
  | mSraImm (f : FmtI)
  /-- R110. -/
  | mRotImm (f : FmtI)
  /-- R110. -/
  | mMinImm (f : FmtI)
  /-- R110. -/
  | mMaxImm (f : FmtI)
  /-- R110. -/
  | mMinuImm (f : FmtI)
  /-- R110. -/
  | mMaxuImm (f : FmtI)
  /-- R110. -/
  | mMovImm (f : FmtI)
  /-- R110. -/
  | mMovh (f : FmtI)
  /-- R110. -/
  | mcmpEq (f : FmtA)
  /-- R110. -/
  | mcmpNe (f : FmtA)
  /-- R110. -/
  | mcmpLt (f : FmtA)
  /-- R110. -/
  | mcmpGe (f : FmtA)
  /-- R110. -/
  | mcmpLtu (f : FmtA)
  /-- R110. -/
  | mcmpGeu (f : FmtA)
  /-- R110. -/
  | mcmpiEq (f : FmtI)
  /-- R110. -/
  | mcmpiNe (f : FmtI)
  /-- R110. -/
  | mcmpiLt (f : FmtI)
  /-- R110. -/
  | mcmpiGe (f : FmtI)
  /-- R110. -/
  | mcmpiLtu (f : FmtI)
  /-- R110. -/
  | mcmpiGeu (f : FmtI)
  /-- R110. -/
  | mPand (f : FmtA)
  /-- R110. -/
  | mPor (f : FmtA)
  /-- R110. -/
  | mPxor (f : FmtA)
  /-- R110. -/
  | mPandn (f : FmtA)
  /-- R110. -/
  | mPnot (f : FmtA)
  /-- R110. -/
  | mPmov (f : FmtA)
  /-- R110. -/
  | mPget (f : FmtA)
  /-- R110. -/
  | mMovl (f : FmtL)
  /-- R110. -/
  | mLea (f : FmtM)
  /-- R282. -/
  | colid (f : FmtA)
  /-- R282. -/
  | rowid (f : FmtA)
  /-- R281. -/
  | lds (f : FmtM)
  /-- R281. -/
  | sts (f : FmtM)
  /-- R215. -/
  | ldv (f : FmtM)
  /-- R215. -/
  | stv (f : FmtM)
  /-- R215. -/
  | ldvt (f : FmtM)
  /-- R283. -/
  | rput (f : FmtA)
  /-- R283. -/
  | rget (f : FmtA)
  /-- R192. -/
  | vadd (f : FmtV)
  /-- R192. -/
  | vsub (f : FmtV)
  /-- R192. -/
  | vmul (f : FmtV)
  /-- R192. -/
  | vdiv (f : FmtV)
  /-- R192. -/
  | vfma (f : FmtV)
  /-- R192. -/
  | vfms (f : FmtV)
  /-- R192. -/
  | vmin (f : FmtV)
  /-- R192. -/
  | vmax (f : FmtV)
  /-- R192. -/
  | vabs (f : FmtV)
  /-- R192. -/
  | vneg (f : FmtV)
  /-- R193. -/
  | vrcp (f : FmtV)
  /-- R193. -/
  | vrsq (f : FmtV)
  /-- R193. -/
  | vsqrt (f : FmtV)
  /-- R193. -/
  | vexp2 (f : FmtV)
  /-- R193. -/
  | vlog2 (f : FmtV)
  /-- R193. -/
  | vsig (f : FmtV)
  /-- R193. -/
  | vtanh (f : FmtV)
  /-- R195. -/
  | vaddInt (f : FmtV)
  /-- R195. -/
  | vsubInt (f : FmtV)
  /-- R195. -/
  | vmulInt (f : FmtV)
  /-- R195. -/
  | vminInt (f : FmtV)
  /-- R195. -/
  | vmaxInt (f : FmtV)
  /-- R195. -/
  | vand (f : FmtV)
  /-- R195. -/
  | vor (f : FmtV)
  /-- R195. -/
  | vxor (f : FmtV)
  /-- R195. -/
  | vnot (f : FmtV)
  /-- R195. -/
  | vshl (f : FmtV)
  /-- R195. -/
  | vshr (f : FmtV)
  /-- R195. -/
  | vsra (f : FmtV)
  /-- R195. -/
  | vpopc (f : FmtV)
  /-- R195. -/
  | vclz (f : FmtV)
  /-- R196. -/
  | vcmp (f : FmtV)
  /-- R197. -/
  | vmand (f : FmtV)
  /-- R197. -/
  | vmor (f : FmtV)
  /-- R197. -/
  | vmxor (f : FmtV)
  /-- R197. -/
  | vmnot (f : FmtV)
  /-- R197. -/
  | vmcnt (f : FmtV)
  /-- R197. -/
  | vmfirst (f : FmtV)
  /-- R198. -/
  | vsel (f : FmtV)
  /-- R199. -/
  | vcvt (f : FmtV)
  /-- R200. -/
  | vqnt (f : FmtV)
  /-- R201. -/
  | vdeq (f : FmtV)
  /-- R202. -/
  | vred (f : FmtV)
  /-- R203. -/
  | vscan (f : FmtV)
  /-- R204. -/
  | vmov (f : FmtV)
  /-- R205. -/
  | vbcast (f : FmtV)
  /-- R206. -/
  | vtran (f : FmtV)
  /-- R207. -/
  | vshuf (f : FmtV)
  /-- R208. -/
  | vext (f : FmtV)
  /-- R208. -/
  | vins (f : FmtV)
  /-- R209. -/
  | viota (f : FmtV)
  /-- R210. -/
  | nzscan (f : FmtV)
  /-- R211. -/
  | vtopk (f : FmtV)
  /-- R213. -/
  | vsort (f : FmtV)
  /-- R212. -/
  | vshape (f : FmtV)
  /-- R83. -/
  | vtok (f : FmtE)
  /-- R242. -/
  | mldb (f : FmtE)
  /-- R244. -/
  | mring (f : FmtE)
  /-- R243. -/
  | mswap (f : FmtE)
  /-- R245. -/
  | mma (f : FmtE)
  /-- R245. -/
  | mmas (f : FmtE)
  /-- R247. -/
  | gmma (f : FmtE)
  /-- R248. -/
  | mzero (f : FmtE)
  /-- R249. -/
  | mdrain (f : FmtE)
  /-- R250. -/
  | mstream (f : FmtE)
  /-- R267. -/
  | qcfg (f : FmtE)
  /-- R268. -/
  | qtri (f : FmtE)
  /-- R270. -/
  | qapply (f : FmtE)
  /-- R271. -/
  | qang (f : FmtE)
  /-- R270. -/
  | qrot (f : FmtE)
  /-- R272. -/
  | qsolve (f : FmtE)
  /-- R273. -/
  | qgain (f : FmtE)
  /-- R274. -/
  | qldt (f : FmtE)
  /-- R274. -/
  | qstt (f : FmtE)
  /-- R296. -/
  | cp (f : FmtE)
  /-- R297. -/
  | cpg (f : FmtE)
  /-- R297. -/
  | cps (f : FmtE)
  /-- R298. -/
  | cpd (f : FmtE)
  /-- R299. -/
  | cpf (f : FmtE)
  /-- R294. -/
  | cpw (f : FmtE)
  /-- R295. -/
  | cpq (f : FmtE)
  /-- R301. -/
  | arrv (f : FmtE)
  /-- R302. -/
  | waitb (f : FmtE)
  /-- R563. -/
  | xput (f : FmtE)
  /-- R563. -/
  | xget (f : FmtE)
  /-- R564. -/
  | xamo (f : FmtE)
  /-- R565. -/
  | xsend (f : FmtE)
  /-- R565. -/
  | xtrig (f : FmtE)
  /-- R566. -/
  | xcntRead (f : FmtE)
  /-- R566. -/
  | xcntSet (f : FmtE)
  /-- R566. -/
  | xcntAdd (f : FmtE)
  /-- R566. -/
  | xcntErr (f : FmtE)
  /-- R567. -/
  | xtile (f : FmtE)
  /-- R567. -/
  | xtileFire (f : FmtE)
  /-- R567. -/
  | xrt (f : FmtE)
  /-- R568. -/
  | xflush (f : FmtE)
  /-- R569. -/
  | xwait (f : FmtE)
  /-- R569. -/
  | xwaitDrain (f : FmtE)
  /-- R449. -/
  | launchAccept
  /-- R505. -/
  | moduleReset
  /-- R493. -/
  | load
  /-- R496. -/
  | retry
  /-- R497. -/
  | commit
  /-- R497. -/
  | abort
  /-- R510. -/
  | thermalTrip
  /-- R514. -/
  | halt
  /-- R514. -/
  | resume
  /-- R514. -/
  | step
  /-- R514. -/
  | read
  /-- R514. -/
  | write
  deriving DecidableEq, Repr

end Sys2Proof
end

