-- ==== Sys2Proof/Config.lean ====
section
/-! DEFINITION. What an implementation fixes and the spec leaves open: opaque constants, so that nothing can be proved
of their values. A fresh free value is such a constant applied to the counter `State.free`. -/

namespace Sys2Proof.Config

/-- A fresh value the spec leaves open, by the number of free values drawn so far. -/
opaque freeWord : Nat → Word

/-- AES-256-GCM (R534) by key, initial vector, authenticated data and plaintext: ciphertext and tag. The spec names the
function and does not define it. -/
opaque gcmSeal : List Word → BitVec 96 → List Word → List Byte → List Byte × List Byte

/-- AES-256-GCM opened: the plaintext, or none where the tag fails. -/
opaque gcmOpen : List Word → BitVec 96 → List Word → List Byte → List Byte → Option (List Byte)

/-- SHA-384 (R484 to R497): named by the spec, not defined there. -/
opaque sha384 : List Byte → BitVec 384

/-- ECDSA P-384 (R484, R490, R491): does a signature of 96 bytes verify for a digest under a key of 96 bytes? -/
opaque ecdsaOk : List Byte → BitVec 384 → List Byte → Bool

/-- Is a key of 96 bytes a point of P-384 (R490)? -/
opaque onCurve : List Byte → Bool

/-- The firmware key whose hash is fused (R485). -/
opaque firmwareKey : List Byte

/-- A signature with the device identity key over a digest (R488). -/
opaque identitySign : BitVec 384 → BitVec 768

/-- The device serial (R487). -/
opaque serial : Word

/-- Has the bank of a row (die, row) a repair resource left, by the repairs made so far (R481)? -/
opaque repairLeft : List (Nat × Nat) → Nat → Nat → Bool

end Sys2Proof.Config
end

