-- ==== Sys2Proof/WellFormed.lean ====
section
/-! DEFINITION. Which operand fields the encoding admits (R60 to R73, R84, R85, R87): one signature per syllable says what
each field names, and `Instr.wellFormed` checks the fields against it, with the checks an instruction's own entry adds.
A violation is the fate ILLOP (R85). -/

namespace Sys2Proof

/-- The unit that executes a syllable: the Spine, a matrix core, or a binning thread with its number of vector
registers (R62, R312). -/
inductive UnitKind where
  | spine
  | core
  | bc (vregs : Nat)
  deriving DecidableEq, Repr

/-- What a register field names (R62). -/
inductive Role where
  | none                 -- unused: zero
  | int                  -- a register of the unit's integer file
  | pred                 -- a predicate
  | vec                  -- a vector register
  | vec2                 -- a run of two vector registers
  | mask                 -- a mask
  | sel                  -- a field whose bits are no register; the entry checks them
  deriving DecidableEq, Repr

/-- How the third source and the file bits of a vector syllable are used (R186). -/
inductive CUse where
  | none                 -- VC zero, CFILE 0
  | b                    -- second source: vector VB, or scalar VC with VB zero
  | c                    -- third source: vector VC or scalar VC
  | scalar               -- a scalar VC is required
  | optional             -- a scalar VC, or none
  | count                -- VC names the integer register written, CFILE 1 (R210)
  deriving DecidableEq, Repr

/-- What an operand field of an engine syllable is (R72). -/
inductive EUse where
  | none                 -- unused: field and FSEL bit zero
  | reg                  -- an a or s register by FSEL
  | res                  -- an a register that is written: FSEL zero
  deriving DecidableEq, Repr

/-- How INDEX, IX and SCALE of a memory syllable are used (R67, R138, R214). -/
inductive IxUse where
  | normal
  | operand              -- INDEX names the operand, IX and SCALE zero
  | stride               -- FLAGS[0] makes INDEX the row stride
  deriving DecidableEq, Repr

/-- The signature of a syllable: the role of each field and the bits of its modifier that its entry defines (R84). -/
inductive Sig where
  | a (d sa sb : Role) (bits : BitVec 16) (sbs : Bool) (f : FmtA)
  | i (d sa : Role) (f : FmtI)
  | b (sa : Role) (aux : BitVec 9) (off : Bool) (f : FmtB)
  | m (d : Role) (flags : BitVec 4) (ix : IxUse) (f : FmtM)
  | v (vd va vb : Role) (cu : CUse) (mask fmt rounds : Bool) (aux : BitVec 3) (f : FmtV)
  | e (ea eb ec : EUse) (own : Nat) (push pop issueTime : Bool) (bits : BitVec 8) (f : FmtE)
  | l (f : FmtL)
  deriving DecidableEq, Repr

/-- The signature of each syllable, from its entry; `none` for NOP and for a step that is no syllable. SB of FCVT, FCVTI and FCVTF
must be zero (DEDUCED, log entry 32). -/
def Instr.sig : Instr → Option Sig
  | .nop => none
  | .yield f | .exit f | .fence f | .fenceAcq f | .fenceRel f => some (.a .none .none .none 0 false f)
  | .add f | .sub f | .mul f | .mulh f | .mulhu f | .div f | .divu f | .rem f | .remu f | .and f | .or f | .xor f
  | .andn f | .shl f | .shr f | .sra f | .rot f | .min f | .max f | .minu f | .maxu f =>
    some (.a .int .int .int 0 false f)
  | .clz f | .popc f | .mov f => some (.a .int .int .none 0 false f)
  | .sel f => some (.a .int .int .int 0x001F false f)
  | .sext f | .zext f => some (.a .int .int .none 0x0003 false f)
  | .cmpEq f | .cmpNe f | .cmpLt f | .cmpGe f | .cmpLtu f | .cmpGeu f => some (.a .pred .int .int 0 false f)
  | .mAdd f | .mSub f | .mMul f | .mMulh f | .mMulhu f | .mDiv f | .mDivu f | .mRem f | .mRemu f | .mAnd f | .mOr f
  | .mXor f | .mAndn f | .mShl f | .mShr f | .mSra f | .mRot f | .mMin f | .mMax f | .mMinu f | .mMaxu f =>
    some (.a .int .int .int 0x8000 true f)
  | .mClz f | .mPopc f | .mMov f => some (.a .int .int .none 0x8000 true f)
  | .mSel f => some (.a .int .int .int 0x801F true f)
  | .mSext f | .mZext f => some (.a .int .int .none 0x8003 true f)
  | .mcmpEq f | .mcmpNe f | .mcmpLt f | .mcmpGe f | .mcmpLtu f | .mcmpGeu f => some (.a .pred .int .int 0x8000 true f)
  | .pand f | .por f | .pxor f | .pandn f | .mPand f | .mPor f | .mPxor f | .mPandn f =>
    some (.a .pred .pred .pred 0 false f)
  | .pnot f | .pmov f | .mPnot f | .mPmov f => some (.a .pred .pred .none 0 false f)
  | .pget f | .mPget f | .colid f | .rowid f | .rstat f => some (.a .int .none .none 0 false f)
  | .fadd f | .fsub f | .fmul f | .fdiv f | .fma f | .fmin f | .fmax f => some (.a .int .int .int 0xFE00 false f)
  | .fsqrt f => some (.a .int .int .none 0xFE00 false f)
  | .fcmp f => some (.a .pred .int .int 0xFE07 false f)
  | .fcvt f => some (.a .int .int .none 0xFFE0 false f)
  | .fcvti f | .fcvtf f => some (.a .int .int .none 0xFE18 false f)
  | .pin f | .unpin f => some (.a .int .int .int 0 false f)
  | .csrr f => some (.a .int .none .none 0x7FFF false f)
  | .csrw f | .csrs f | .csrc f => some (.a .none .int .none 0xFFFF false f)
  | .time f => some (.a .int .none .none 0 false f)
  | .route f => some (.a .int .int .none 0 false f)
  | .routeCancel f => some (.a .int .none .none 0x0001 false f)
  | .spawn f => some (.a .int .int .int 0x001F false f)
  | .binapp f => some (.a .int .int .int 0 false f)
  | .binclr f => some (.a .int .int .int 0x0001 false f)
  | .xresv f | .xresvCfg f | .xresvEnd f => some (.a .int .int .int 0x0003 false f)
  | .xdisp f => some (.a .int .int .int 0 false f)
  | .xcomb f => some (.a .int .int .none 0 false f)
  | .rput f => some (.a .none .int .none 0x000F false f)
  | .rget f => some (.a .int .none .none 0x000F false f)
  | .addImm f | .mulImm f | .andImm f | .orImm f | .xorImm f | .shlImm f | .shrImm f | .sraImm f | .rotImm f
  | .minImm f | .maxImm f | .minuImm f | .maxuImm f | .mAddImm f | .mMulImm f | .mAndImm f | .mOrImm f | .mXorImm f
  | .mShlImm f | .mShrImm f | .mSraImm f | .mRotImm f | .mMinImm f | .mMaxImm f | .mMinuImm f | .mMaxuImm f =>
    some (.i .int .int f)
  | .movImm f | .movh f | .mMovImm f | .mMovh f => some (.i .int .none f)
  | .cmpiEq f | .cmpiNe f | .cmpiLt f | .cmpiGe f | .cmpiLtu f | .cmpiGeu f | .mcmpiEq f | .mcmpiNe f | .mcmpiLt f
  | .mcmpiGe f | .mcmpiLtu f | .mcmpiGeu f =>
    some (.i .pred .int f)
  | .trap f | .dbg f => some (.i .none .none f)
  | .sysc f => some (.i .int .int f)
  | .movl f | .mMovl f => some (.l f)
  | .br f => some (.b .none 0 true f)
  | .brp f => some (.b .pred 1 true f)
  | .call f | .jmpr f => some (.b .int 0 true f)
  | .ret f => some (.b .int 0 false f)
  | .loop f => some (.b .int 3 true f)
  | .nexttile f => some (.b .int 0x1FF true f)
  | .ld8 f | .ld8sx f | .ld16 f | .ld16sx f | .ld32 f | .ld32sx f | .ld64 f | .st8 f | .st16 f | .st32 f | .st64 f
  | .ldfe f | .ldff f | .stef f | .stff f | .lea f | .mLea f =>
    some (.m .int 0 .normal f)
  | .lda f | .stl f => some (.m .int 4 .normal f)
  | .amoFadd f | .amoSwap f | .amoCas f | .amoMin f | .amoMax f | .amoMinu f | .amoMaxu f | .amoAnd f | .amoOr f
  | .amoXor f =>
    some (.m .int 7 .operand f)
  | .sete f | .setf f => some (.m .none 0 .normal f)
  | .ldvBc f | .ldvtBc f => some (.m .vec 0xB .stride f)
  | .stvBc f => some (.m .vec 9 .stride f)
  | .lds f => some (.m .int 7 .normal f)
  | .sts f => some (.m .int 3 .normal f)
  | .ldv f | .stv f | .ldvt f => some (.m .vec 1 .stride f)
  | .vadd f | .vsub f | .vmul f | .vdiv f => some (.v .vec .vec .vec .b true true true 0 f)
  | .vfma f | .vfms f => some (.v .vec .vec .vec .c true true true 0 f)
  | .vmin f | .vmax f => some (.v .vec .vec .vec .b true true false 0 f)
  | .vabs f | .vneg f => some (.v .vec .vec .none .none true true false 0 f)
  | .vrcp f | .vrsq f | .vsqrt f | .vexp2 f | .vlog2 f | .vsig f | .vtanh f =>
    some (.v .vec .vec .none .none true true true 0 f)
  | .vaddInt f | .vsubInt f => some (.v .vec .vec .vec .b true true false 1 f)
  | .vmulInt f | .vand f | .vor f | .vxor f | .vshl f | .vshr f | .vsra f => some (.v .vec .vec .vec .b true true false 0 f)
  | .vminInt f | .vmaxInt f => some (.v .vec .vec .vec .b true true false 2 f)
  | .vnot f | .vpopc f | .vclz f => some (.v .vec .vec .none .none true true false 0 f)
  | .vcmp f => some (.v .mask .vec .vec .b true true false 7 f)
  | .vmand f | .vmor f | .vmxor f => some (.v .mask .mask .mask .none false false false 0 f)
  | .vmnot f => some (.v .mask .mask .none .none false false false 0 f)
  | .vmcnt f | .vmfirst f => some (.v .int .mask .none .none false false false 0 f)
  | .vsel f => some (.v .vec .vec .vec .b true true false 0 f)
  | .vcvt f => some (.v .vec .vec .sel .none true true true 0 f)
  | .vqnt f => some (.v .vec2 .vec .sel .optional false true true 3 f)
  | .vdeq f => some (.v .vec .vec2 .sel .optional false true true 3 f)
  | .vred f | .vscan f => some (.v .vec .vec .sel .none true true true 7 f)
  | .vmov f | .vtran f => some (.v .vec .vec .none .none true true false 0 f)
  | .vbcast f => some (.v .vec (if f.cfile = 0 then .vec else .none) .none .optional true true false 1 f)   -- R205
  | .vshuf f => some (.v .vec .vec .vec .none true true false 0 f)
  | .vext f => some (.v .int .vec .none .scalar false true false 0 f)
  | .vins f => some (.v .vec .int .none .scalar true true false 0 f)
  | .viota f => some (.v .vec .none .none .optional true true true 0 f)
  | .nzscan f => some (.v .vec .vec .none .count true true false 0 f)
  | .vtopk f => some (.v .vec2 .vec .none .none true true false 7 f)
  | .vsort f => some (.v .vec2 .vec .none .none false true false 3 f)
  | .vshape f => some (.v .none .none .none .optional false false false 1 f)
  | .mldb f => some (.e .reg .reg .reg 1 true true false 0x7F f)
  | .mswap f | .mring f => some (.e .none .none .none 1 true true false 0 f)
  | .mma f | .mmas f => some (.e .reg .reg .reg 1 true true false 0xFE f)
  | .gmma f => some (.e .reg .reg .reg 1 true true false 0x7F f)
  | .mzero f => some (.e .none .none .none 1 true true false 0xFF f)
  | .mdrain f => some (.e .reg .none .none 1 true true false 0xFC f)
  | .mstream f => some (.e .reg .reg .reg 1 true true false 0x7F f)
  | .qcfg f => some (.e .reg .none .none 2 true true false 0 f)
  | .qtri f => some (.e .reg .reg .reg 2 true true false 0x0F f)
  | .qapply f => some (.e .reg .reg .none 2 true true false 3 f)
  | .qang f => some (.e .res .reg .none 2 true true false 7 f)
  | .qrot f => some (.e .reg .reg .none 2 true true false 3 f)
  | .qsolve f => some (.e .reg .reg .none 2 true true false 3 f)
  | .qgain f => some (.e .reg .none .none 2 true true false 3 f)
  | .qldt f | .qstt f => some (.e .reg .reg .none 2 true true false 0x0F f)
  | .cp f | .cpg f | .cps f | .cpd f | .cpf f => some (.e .reg .reg .reg 3 true true true 0x7F f)
  | .cpw f => some (.e .reg .none .none 3 true true false 0x0F f)
  | .cpq f => some (.e .res .none .none 3 false false false 0x1F f)
  | .arrv f => some (.e .reg .none .none 3 false false false 0x3F f)
  | .waitb f => some (.e .none .none .none 3 true true false 0x7F f)
  | .xput f => some (.e .reg .reg .reg 4 false true false 1 f)
  | .xget f => some (.e .reg .reg .reg 4 false true false 1 f)
  | .xamo f => some (.e .reg .reg .res 4 false true false 0x1F f)
  | .xsend f => some (.e .reg .none .none 4 false true false 1 f)
  | .xtrig f => some (.e .reg .reg .reg 4 false true false 1 f)
  | .xcntRead f | .xcntErr f => some (.e .res .reg .none 4 false true false 3 f)
  | .xcntSet f | .xcntAdd f => some (.e .reg .reg .none 4 false true false 3 f)
  | .xtile f => some (.e .reg .reg .none 4 false true false 3 f)
  | .xtileFire f => some (.e .none .reg .none 4 false true false 2 f)
  | .xrt f => some (.e .reg .reg .none 4 false true false 1 f)
  | .xflush f => some (.e .reg .none .none 4 false true false 0 f)
  | .xwait f => some (.e .reg .reg .none 4 false true false 3 f)
  | .xwaitDrain f => some (.e .none .none .none 4 false true false 3 f)
  | .vtok f => some (.e .none .none .none 0 true true false 0 f)
  | .bundleFetch .. | .spineIssue .. | .coreExecute .. | .bcIssue .. | .bcReply .. | .migrationSend ..
  | .migrationArrive .. | .waitSatisfied .. | .launchAccept | .submitDoorbell .. | .gangBind .. | .gangStart ..
  | .spawnBind .. | .launchAgeing .. | .taskRetire .. | .completionRecordPost .. | .preempt .. | .restore ..
  | .watchdogExpiry .. | .faultRecordPost .. | .faultService .. | .eventRecordPost .. | .resumeTask .. | .bwake ..
  | .syscReply .. | .fillerSwitch .. | .fillerReturn .. | .mxStart .. | .mxRetire .. | .mringBeat .. | .qrStart ..
  | .qrRetire .. | .tokenPush .. | .copyDue .. | .copyBeat .. | .copyComplete .. | .homeAccess .. | .faddCombine ..
  | .registration .. | .l1dEvict .. | .sliceWritebackInvalidate .. | .sliceWriteback .. | .sliceDropHeld ..
  | .sliceMaintDone .. | .sliceCounterClear .. | .correctableError .. | .uncorrectableError .. | .scrubRead ..
  | .errorInject .. | .readClearRegister .. | .pageWalk .. | .tlbInvalidateAll .. | .tlbInvalidateAsid ..
  | .tlbInvalidateRange .. | .tlbInvalidateDone .. | .collatorRowAccept .. | .collatorRecordWrite .. | .routeEnd ..
  | .routeResume .. | .residencyCommit .. | .hintPost .. | .spare .. | .unspare .. | .pprRepair .. | .moduleReset
  | .fwupdate .. | .svn .. | .owner .. | .enrol .. | .revoke .. | .badadd .. | .badclr .. | .attest .. | .regread ..
  | .regwrite .. | .registerWrite .. | .load | .retry | .commit | .abort | .chunk .. | .shardHashed ..
  | .shardDeadline .. | .powerWindow .. | .thermalThrottle .. | .thermalTrip | .telemetryRecord ..
  | .breakpointHalt .. | .halt | .resume | .step | .read | .write | .pcSample .. | .pressFrameClose .. | .gridStore ..
  | .flitReceive .. | .linkReplay .. | .linkDown .. | .messageReceive .. | .ackSend .. | .ackReceive ..
  | .e2eRetransmit .. | .pairClear .. | .releaseWritePerform .. | .rdmaWrite .. | .rdmaRead .. | .lcpRequest ..
  | .kill .. | .ptpMessage .. | .xeStart .. | .putComplete .. | .receiveCounterCredit .. | .permitRequestReceive ..
  | .permitWindowExpiry .. | .dispatchReceive .. | .linkUp .. => none

/-- Is a 6-bit specifier in the integer file of the unit? s has 64 registers, a and x have 32 (R62). -/
def intOk (u : UnitKind) (r : BitVec 6) : Bool :=
  match u with
  | .spine => true
  | .core => r.toNat < 32
  | .bc _ => r.toNat < 32

/-- A field of format A, I, B or M against its role (R62). -/
def Role.ok (u : UnitKind) (k : Role) (r : BitVec 6) : Bool :=
  match k with
  | .none => r = 0
  | .int => intOk u r
  | .pred => r.toNat < 32
  | .mask => r.toNat < 8
  | .vec => true
  | .vec2 => true
  | .sel => true

/-- The number of a vector register from its field and its XT bit, against the file of the unit (R62, R68, R87). -/
def vecOk (u : UnitKind) (xt : Bool) (r : BitVec 6) (run : Nat) : Bool :=
  match u with
  | .spine => false
  | .core => !xt && r.toNat + run ≤ 64
  | .bc n => (if xt then 64 else 0) + r.toNat + run ≤ n

/-- A register field of format V against its role, with its XT bit (R62, R69, R186). -/
def Role.okV (u : UnitKind) (k : Role) (xt : Bool) (r : BitVec 6) : Bool :=
  match k with
  | .vec => vecOk u xt r 1
  | .vec2 => vecOk u xt r 2
  | k => !xt && k.ok u r

/-- A scalar operand of format V (R186): CFILE 1 names the integer file, CFILE 2 an s register on a matrix core. -/
def scalarOk (u : UnitKind) (f : FmtV) : Bool :=
  !f.xt.getLsbD 0 &&
    (if f.cfile = 1 then f.vc.toNat < 32
     else match u with
       | .core => f.cfile = 2
       | _ => false)

/-- VB, VC and CFILE of a vector syllable (R186, R210). -/
def FmtV.sourcesOk (u : UnitKind) (f : FmtV) (vb : Role) : CUse → Bool
  | .none => f.cfile = 0 && f.vc = 0 && !f.xt.getLsbD 0 && vb.okV u (f.xt.getLsbD 1) f.vb
  | .b =>
      if f.cfile = 0 then f.vc = 0 && !f.xt.getLsbD 0 && vb.okV u (f.xt.getLsbD 1) f.vb
      else scalarOk u f && f.vb = 0 && !f.xt.getLsbD 1
  | .c =>
      vb.okV u (f.xt.getLsbD 1) f.vb &&
        (if f.cfile = 0 then vecOk u (f.xt.getLsbD 0) f.vc 1 else scalarOk u f)
  | .scalar => f.cfile ≠ 0 && scalarOk u f && vb.okV u (f.xt.getLsbD 1) f.vb
  | .optional =>
      vb.okV u (f.xt.getLsbD 1) f.vb &&
        (if f.cfile = 0 then f.vc = 0 && !f.xt.getLsbD 0 else scalarOk u f)
  | .count => f.cfile = 1 && f.vc.toNat < 32 && !f.xt.getLsbD 0 && vb.okV u (f.xt.getLsbD 1) f.vb

/-- An operand field of an engine syllable: a registers have 32 names, s registers 64 (R62, R72). -/
def EUse.ok (k : EUse) (r : BitVec 6) (s : Bool) : Bool :=
  match k with
  | .none => r = 0 && !s
  | .reg => s || r.toNat < 32
  | .res => !s && r.toNat < 32

/-- The number of pop bits set (R71). -/
def popCount (p : BitVec 4) : Nat :=
  (p.getLsbD 0).toNat + (p.getLsbD 1).toNat + (p.getLsbD 2).toNat + (p.getLsbD 3).toNat

/-- PUSH and POP of an engine syllable whose own engine has number `own` in pop order V, MX, QR, CP, exchange (R71). -/
def FmtE.tokensOk (f : FmtE) (own : Nat) (push pop : Bool) : Bool :=
  (if push then f.push.toNat ≤ 5 && f.push.toNat ≠ own + 1 else f.push = 0) &&
    (if pop then popCount f.pop ≤ 3 && !f.pop.getLsbD own else f.pop = 0)

/-- The fields of a syllable against its signature (R62, R67 to R72, R84). -/
def Sig.ok (u : UnitKind) : Sig → Bool
  | .a d sa sb bits sbs f =>
      d.ok u f.d && sa.ok u f.sa && (if sbs && f.mod.getLsbD 15 then (sb ≠ .none || f.sb = 0) else sb.ok u f.sb) &&
        f.mod &&& ~~~bits = 0
  | .i d sa f => d.ok u f.d && sa.ok u f.sa
  | .b sa aux off f => sa.ok u f.sa && f.aux &&& ~~~aux = 0 && (off || f.off = 0)
  | .m d flags ix f =>
      (if d = .vec then vecOk u (f.flags.getLsbD 3) f.d 1 else d.ok u f.d) && intOk u f.base && f.flags &&& ~~~flags = 0 &&
        (match ix with
         | .operand => !f.ix && f.scale = 0 && intOk u f.index
         | .normal => if f.ix then intOk u f.index else f.index = 0 && f.scale = 0
         | .stride =>
             if f.flags.getLsbD 0 then !f.ix && f.scale = 0 && intOk u f.index
             else if f.ix then intOk u f.index else f.index = 0 && f.scale = 0)
  | .v vd va vb cu mask fmt rounds aux f =>
      vd.okV u (f.xt.getLsbD 3) f.vd && va.okV u (f.xt.getLsbD 2) f.va && f.sourcesOk u vb cu &&
        (mask || f.mask = 0) && (if fmt then f.fmt.toNat < 10 else f.fmt = 0) &&
        (if rounds then f.rmode.toNat < 5 || f.rmode = 7 else f.rmode = 7) && f.aux &&& ~~~aux = 0
  | .e ea eb ec own push pop issueTime bits f =>
      ea.ok f.opa (f.fsel.getLsbD 2) && eb.ok f.opb (f.fsel.getLsbD 1) && ec.ok f.opc (f.fsel.getLsbD 0) &&
        f.tokensOk own push pop && f.mod &&& ~~~bits = 0 &&
        (if f.isAt then issueTime && (f.ats || f.atreg.toNat < 32) else !f.ats && f.atreg = 0)
  | .l f => intOk u f.d

/-- A float format code of the scalar instructions (R84). -/
def fltCode (c : Nat) : Bool := 1 ≤ c && c ≤ 4

/-- MOD[15:12] and MOD[11:9] of FLT: format and rounding (R84, R120). -/
def FmtA.fltOk (f : FmtA) (rounds : Bool) : Bool :=
  fltCode (f.mod.extractLsb' 12 4).toNat &&
    (let r := (f.mod.extractLsb' 9 3).toNat
     if rounds then r < 5 || r = 7 else r = 7)

/-- The shift and rotate immediates use IMM[5:0] only (R114). -/
def FmtI.shiftOk (f : FmtI) : Bool := f.imm.toNat < 64

/-- FMT, SP and GEO of MLDB and GMMA (R242, R246). -/
def FmtE.planeOk (f : FmtE) : Bool :=
  let c := (f.mod.extractLsb' 0 4).toNat
  let geo := (f.mod.extractLsb' 5 2).toNat
  1 ≤ c && c ≤ 8 && (!f.mod.getLsbD 4 || (3 ≤ c && c ≤ 7)) && geo ≠ 3 && (geo = 0 || (5 ≤ c && c ≤ 7))

/-- The CSR numbers a unit holds (R150, R314, R356). -/
def csrHeld (u : UnitKind) (c : Nat) : Bool :=
  match u with
  | .spine =>
      c = 0 || c = 1 || c = 2 || c = 4 || c = 5 || (0x20 ≤ c && c ≤ 0x31) ||
        c = 0x101 || c = 0x102 || c = 0x103 || (0x140 ≤ c && c ≤ 0x1FF)
  | .bc _ => c = 0 || c = 1 || c = 2 || c = 3 || c = 5
  | .core => false

/-- CSR number, CORE and ALL of SYS (R149 to R151). -/
def FmtA.csrOk (u : UnitKind) (f : FmtA) : Bool :=
  let c := (f.mod.extractLsb' 0 12).toNat
  csrHeld u c && (0x100 ≤ c || f.mod.extractLsb' 12 4 = 0) && (!f.mod.getLsbD 15 || f.mod.extractLsb' 12 3 = 0)

/-- The checks an instruction's own entry adds to its signature (R85: reserved or bad field). -/
def Instr.entryOk (u : UnitKind) : Instr → Bool
  | .sext f | .zext f | .mSext f | .mZext f => (f.mod.extractLsb' 0 2).toNat ≠ 3                           -- R112
  | .shlImm f | .shrImm f | .sraImm f | .rotImm f | .mShlImm f | .mShrImm f | .mSraImm f | .mRotImm f => f.shiftOk
  | .fadd f | .fsub f | .fmul f | .fdiv f | .fsqrt f | .fma f => f.fltOk true
  | .fmin f | .fmax f => f.fltOk false
  | .fcmp f => f.fltOk false && (f.mod.extractLsb' 0 3).toNat ≤ 3                                          -- R121
  | .fcvt f => f.fltOk true && fltCode (f.mod.extractLsb' 5 4).toNat                                       -- R122
  | .fcvti f | .fcvtf f => f.fltOk true
  | .nexttile f => 1 ≤ f.aux.toNat && f.aux.toNat ≤ 16 && f.sa.toNat + f.aux.toNat ≤ 64                    -- R128
  | .csrr f | .csrw f | .csrs f | .csrc f => f.csrOk u
  | .spawn f =>                                                                                            -- R339
      let n := (f.mod.extractLsb' 0 5).toNat
      n ≤ 16 && (n = 0 || f.sb.toNat + n ≤ 32)
  | .binapp f => f.sb.toNat + 2 ≤ 32                                                                       -- R340
  | .vcmp f => f.aux.toNat ≠ 7                                                                             -- R196
  | .vcvt f => (f.vb.extractLsb' 4 2) = 0
  | .vqnt f | .vdeq f =>                                                                                   -- R200, R201
      (f.vb.extractLsb' 4 2) = 0 && f.aux.toNat ≠ 0 && (if f.aux = 3 then f.cfile ≠ 0 else f.cfile = 0)
  | .vred f | .vscan f =>                                                                                  -- R202
      f.vb.toNat < 3 && (f.rmode = 7 || (f.aux = 0 && f.fmt.toNat < 8))
  | .vbcast f => f.cfile = 0 || f.aux = 0                                                                   -- R205
  | .viota f => f.rmode = 7 || f.fmt.toNat < 8                                                             -- R209
  | .vshape f => if f.aux.getLsbD 0 then f.cfile = 0 else f.cfile ≠ 0                                      -- R212
  | .mldb f =>                                                                                             -- R242
      f.planeOk && ((f.mod.extractLsb' 4 3) ≠ 0 || (f.opc = 0 && !f.fsel.getLsbD 0))
  | .gmma f => f.planeOk                                                                                   -- R246
  | .mma f | .mmas f =>                                                                                    -- R245
      let ageo := (f.mod.extractLsb' 1 2).toNat
      let dst := (f.mod.extractLsb' 3 2).toNat
      ageo ≠ 3 && dst ≠ 3 && (dst ≠ 2 || (f.mod.extractLsb' 5 3) = 0) &&
        (ageo ≠ 0 || (f.opc = 0 && !f.fsel.getLsbD 0))
  | .mdrain f => (f.mod.extractLsb' 3 2).toNat ≠ 3                                                         -- R249
  | .mstream f =>                                                                                          -- R250
      let ofmt := (f.mod.extractLsb' 0 4).toNat
      let kind := (f.mod.extractLsb' 4 2).toNat
      1 ≤ ofmt && ofmt ≤ 9 && kind ≠ 3 && !(f.mod.getLsbD 6 && kind = 2)
  | .qtri f => f.mod.getLsbD 3 || (f.opc = 0 && !f.fsel.getLsbD 0)                                         -- R268
  | .qldt f | .qstt f => (f.mod.extractLsb' 2 2).toNat ≠ 3                                                 -- R274
  | .cpq f => (f.mod.extractLsb' 3 2).toNat ≠ 3                                                            -- R295
  | .cpf f => !f.mod.getLsbD 6                                                                             -- R288
  | .cpd f => f.mod.getLsbD 5                                                                              -- R288
  | .xamo f => (f.mod.extractLsb' 0 4).toNat < 10                                                          -- R564
  | .routeCancel f => f.mod.getLsbD 0
  | .xresv f => (f.mod.extractLsb' 0 2) = 0
  | .xresvCfg f => (f.mod.extractLsb' 0 2) = 1
  | .xresvEnd f => (f.mod.extractLsb' 0 2) = 2
  | .xcntRead f => (f.mod.extractLsb' 0 2) = 0
  | .xcntSet f => (f.mod.extractLsb' 0 2) = 1
  | .xcntAdd f => (f.mod.extractLsb' 0 2) = 2
  | .xcntErr f => (f.mod.extractLsb' 0 2) = 3
  | .xtile f => !f.mod.getLsbD 1
  | .xtileFire f => f.mod.getLsbD 1
  | .xwait f => !f.mod.getLsbD 0
  | .xwaitDrain f => f.mod.getLsbD 0
  | _ => true

/-- A syllable whose fields the encoding admits on the unit (R85); NOP is well formed, and a step that is no syllable
is not. -/
def Instr.wellFormed (u : UnitKind) (i : Instr) : Bool :=
  match i with
  | .nop => true
  | i =>
    match i.sig with
    | none => false
    | some k => k.ok u && i.entryOk u

/-- R79, R84, R320: the instructions only the Spine implements, and those only a binning thread implements. -/
def Instr.implementedBy (u : UnitKind) : Instr → Bool
  | .loop _ | .nexttile _ => match u with
    | .bc _ => false
    | _ => true
  | .spawn _ | .binapp _ | .binclr _ | .ldvBc _ | .stvBc _ | .ldvtBc _ => match u with
    | .spine => false
    | _ => true
  | _ => true

/-- The register runs of an instruction in one file: first register and length (R87). -/
def Instr.runs : Instr → List (Nat × Nat)
  | .nexttile f => [(f.sa.toNat, f.aux.toNat)]
  | .spawn f => [(f.sb.toNat, (f.mod.extractLsb' 0 5).toNat)]
  | .binapp f => [(f.sb.toNat, 2)]
  | .vqnt f | .vtopk f | .vsort f => [(f.vd.toNat + (if f.xt.getLsbD 3 then 64 else 0), 2)]
  | .vdeq f => [(f.va.toNat + (if f.xt.getLsbD 2 then 64 else 0), 2)]
  | _ => []

/-- R87: two runs overlap partially when they share a register and differ in first register or length. -/
def runsClash (a b : Nat × Nat) : Bool := a ≠ b && a.1 < b.1 + b.2 && b.1 < a.1 + a.2

/-- R85: do two runs of the instruction overlap partially? No instruction of the table has two runs of one file, so
this never holds; the check stands because R86 makes it. -/
def Instr.partialOverlap (i : Instr) : Bool := i.runs.any fun a => i.runs.any fun b => runsClash a b

end Sys2Proof
end

