-- ==== Sys2Proof/Decode.lean ====
section
/-! DEFINITION. The decoder and the encoder of the 64-bit syllables, written from one description of the formats
(R60 to R73) and of the opcode map (R79 to R82).
`decode` is total: it answers an instruction, or the fate of R85 in the order of R86. `encode` is its inverse on the
well-formed syllables; a step that is no syllable has no encoding. -/

namespace Sys2Proof

/-- The positions of a syllable in its bundle (R74, R75). -/
inductive Pos where
  | x | m | v | e | s | bv
  deriving DecidableEq, Repr

/-- The encoding fates that are faults (R85). -/
inductive Fate where
  | illop | illslot | illovl
  deriving DecidableEq, Repr

/-- A syllable cut into the fields of its format: major, minor, the format's own reserved bits, and the operands. -/
inductive Enc where
  | a (maj : BitVec 7) (min : BitVec 8) (rsv : BitVec 9) (f : FmtA)
  | i (maj : BitVec 7) (min : BitVec 4) (rsv : BitVec 3) (f : FmtI)
  | b (maj : BitVec 7) (min : BitVec 4) (f : FmtB)
  | m (maj : BitVec 7) (min : BitVec 5) (f : FmtM)
  | v (maj : BitVec 7) (min : BitVec 8) (f : FmtV)
  | e (maj : BitVec 7) (min : BitVec 7) (f : FmtE)
  | l (maj : BitVec 7) (min : BitVec 4) (rsv : BitVec 41) (f : FmtL)
  deriving DecidableEq, Repr

/-- One bit as a bit vector. -/
def bit1 (b : Bool) : BitVec 1 := BitVec.ofBool b

/-- The 64 bits of a cut syllable, fields from high to low (R60, R64 to R73). The literal is a word of its own. -/
def Enc.word : Enc → Word
  | .a maj min rsv f => maj ++ f.g.gp ++ bit1 f.g.gs ++ f.d ++ f.sa ++ f.sb ++ min ++ f.mod ++ rsv
  | .i maj min rsv f => maj ++ f.g.gp ++ bit1 f.g.gs ++ f.d ++ f.sa ++ min ++ rsv ++ f.imm
  | .b maj min f => maj ++ f.g.gp ++ bit1 f.g.gs ++ min ++ f.sa ++ f.aux ++ f.off
  | .m maj min f => maj ++ f.g.gp ++ bit1 f.g.gs ++ f.d ++ f.base ++ f.index ++ f.scale ++ bit1 f.ix ++ min ++ f.flags ++ f.disp
  | .v maj min f =>
      maj ++ f.g.gp ++ bit1 f.g.gs ++ f.vd ++ f.va ++ f.vb ++ f.vc ++ f.mask ++ f.xt ++ min ++ f.fmt ++ f.rmode ++ f.cfile ++ f.aux
  | .e maj min f =>
      maj ++ f.g.gp ++ bit1 f.g.gs ++ f.push ++ f.pop ++ f.opa ++ f.opb ++ f.opc ++ f.fsel ++ min ++ bit1 f.isAt ++ bit1 f.ats ++
        f.atreg ++ f.mod
  | .l maj min rsv f => maj ++ f.g.gp ++ bit1 f.g.gs ++ f.d ++ min ++ rsv

/-- Bits `[lo + n - 1 : lo]` of a syllable. -/
def bits (w : Word) (lo n : Nat) : BitVec n := w.extractLsb' lo n

/-- The guard fields (R60). -/
def guardOf (w : Word) : Guard := { gp := bits w 52 5, gs := w.getLsbD 51 }

/-- The format letters of R64 to R73. -/
inductive FmtTag where
  | a | i | b | m | v | e | l
  deriving DecidableEq, Repr

/-- The format of a major, where the major is defined (R79 to R82). -/
def formatOf (maj : Nat) : Option FmtTag :=
  match maj with
  | 0x0 => some .a
  | 0x1 => some .a
  | 0x2 => some .i
  | 0x3 => some .l
  | 0x4 => some .a
  | 0x5 => some .i
  | 0x6 => some .a
  | 0x7 => some .a
  | 0x8 => some .b
  | 0x9 => some .m
  | 0xa => some .m
  | 0xb => some .a
  | 0xc => some .m
  | 0xd => some .a
  | 0xe => some .i
  | 0xf => some .a
  | 0x10 => some .a
  | 0x11 => some .m
  | 0x12 => some .m
  | 0x30 => some .a
  | 0x31 => some .i
  | 0x32 => some .a
  | 0x33 => some .i
  | 0x34 => some .a
  | 0x35 => some .l
  | 0x36 => some .a
  | 0x37 => some .m
  | 0x38 => some .a
  | 0x39 => some .m
  | 0x40 => some .v
  | 0x41 => some .v
  | 0x42 => some .v
  | 0x43 => some .v
  | 0x44 => some .v
  | 0x45 => some .v
  | 0x46 => some .v
  | 0x47 => some .v
  | 0x48 => some .v
  | 0x49 => some .v
  | 0x60 => some .e
  | 0x61 => some .e
  | 0x62 => some .e
  | 0x63 => some .e
  | 0x64 => some .e
  | _ => none

/-- A 64-bit pattern cut by the format of its major; `none` where the major is undefined. -/
def parse (w lit : Word) : Option Enc :=
  match formatOf (bits w 57 7).toNat with
  | none => none
  | some .a => some (.a (bits w 57 7) (bits w 25 8) (bits w 0 9)
      { g := guardOf w, d := bits w 45 6, sa := bits w 39 6, sb := bits w 33 6, mod := bits w 9 16 })
  | some .i => some (.i (bits w 57 7) (bits w 35 4) (bits w 32 3)
      { g := guardOf w, d := bits w 45 6, sa := bits w 39 6, imm := bits w 0 32 })
  | some .b => some (.b (bits w 57 7) (bits w 47 4)
      { g := guardOf w, sa := bits w 41 6, aux := bits w 32 9, off := bits w 0 32 })
  | some .m => some (.m (bits w 57 7) (bits w 24 5)
      { g := guardOf w, d := bits w 45 6, base := bits w 39 6, index := bits w 33 6, scale := bits w 30 3, ix := w.getLsbD 29,
        flags := bits w 20 4, disp := bits w 0 20 })
  | some .v => some (.v (bits w 57 7) (bits w 12 8)
      { g := guardOf w, vd := bits w 45 6, va := bits w 39 6, vb := bits w 33 6, vc := bits w 27 6, mask := bits w 24 3,
        xt := bits w 20 4, fmt := bits w 8 4, rmode := bits w 5 3, cfile := bits w 3 2, aux := bits w 0 3 })
  | some .e => some (.e (bits w 57 7) (bits w 16 7)
      { g := guardOf w, push := bits w 48 3, pop := bits w 44 4, opa := bits w 38 6, opb := bits w 32 6, opc := bits w 26 6,
        fsel := bits w 23 3, isAt := w.getLsbD 15, ats := w.getLsbD 14, atreg := bits w 8 6, mod := bits w 0 8 })
  | some .l => some (.l (bits w 57 7) (bits w 41 4) (bits w 0 41) { g := guardOf w, d := bits w 45 6, lit := lit })

/-- The minors of major 0x0 (R79 to R82). -/
noncomputable def minor00 (min : Nat) (f : FmtA) : Option Instr :=
  match min with
  | 0x1 => some (.yield f)
  | 0x2 => some (.exit f)
  | _ => none

/-- The minors of major 0x1 (R79 to R82). -/
noncomputable def minor01 (min : Nat) (f : FmtA) : Option Instr :=
  match min with
  | 0x0 => some (.add f)
  | 0x1 => some (.sub f)
  | 0x2 => some (.mul f)
  | 0x3 => some (.mulh f)
  | 0x4 => some (.mulhu f)
  | 0x5 => some (.div f)
  | 0x6 => some (.divu f)
  | 0x7 => some (.rem f)
  | 0x8 => some (.remu f)
  | 0x9 => some (.and f)
  | 0xa => some (.or f)
  | 0xb => some (.xor f)
  | 0xc => some (.andn f)
  | 0xd => some (.shl f)
  | 0xe => some (.shr f)
  | 0xf => some (.sra f)
  | 0x10 => some (.rot f)
  | 0x11 => some (.min f)
  | 0x12 => some (.max f)
  | 0x13 => some (.minu f)
  | 0x14 => some (.maxu f)
  | 0x15 => some (.clz f)
  | 0x16 => some (.popc f)
  | 0x17 => some (.sel f)
  | 0x18 => some (.mov f)
  | 0x19 => some (.sext f)
  | 0x1a => some (.zext f)
  | _ => none

/-- The minors of major 0x2 (R79 to R82). -/
noncomputable def minor02 (min : Nat) (f : FmtI) : Option Instr :=
  match min with
  | 0x0 => some (.addImm f)
  | 0x1 => some (.mulImm f)
  | 0x2 => some (.andImm f)
  | 0x3 => some (.orImm f)
  | 0x4 => some (.xorImm f)
  | 0x5 => some (.shlImm f)
  | 0x6 => some (.shrImm f)
  | 0x7 => some (.sraImm f)
  | 0x8 => some (.rotImm f)
  | 0x9 => some (.minImm f)
  | 0xa => some (.maxImm f)
  | 0xb => some (.minuImm f)
  | 0xc => some (.maxuImm f)
  | 0xd => some (.movImm f)
  | 0xe => some (.movh f)
  | _ => none

/-- The minors of major 0x3 (R79 to R82). -/
noncomputable def minor03 (min : Nat) (f : FmtL) : Option Instr :=
  match min with
  | 0x0 => some (.movl f)
  | _ => none

/-- The minors of major 0x4 (R79 to R82). -/
noncomputable def minor04 (min : Nat) (f : FmtA) : Option Instr :=
  match min with
  | 0x0 => some (.cmpEq f)
  | 0x1 => some (.cmpNe f)
  | 0x2 => some (.cmpLt f)
  | 0x3 => some (.cmpGe f)
  | 0x4 => some (.cmpLtu f)
  | 0x5 => some (.cmpGeu f)
  | _ => none

/-- The minors of major 0x5 (R79 to R82). -/
noncomputable def minor05 (min : Nat) (f : FmtI) : Option Instr :=
  match min with
  | 0x0 => some (.cmpiEq f)
  | 0x1 => some (.cmpiNe f)
  | 0x2 => some (.cmpiLt f)
  | 0x3 => some (.cmpiGe f)
  | 0x4 => some (.cmpiLtu f)
  | 0x5 => some (.cmpiGeu f)
  | _ => none

/-- The minors of major 0x6 (R79 to R82). -/
noncomputable def minor06 (min : Nat) (f : FmtA) : Option Instr :=
  match min with
  | 0x0 => some (.pand f)
  | 0x1 => some (.por f)
  | 0x2 => some (.pxor f)
  | 0x3 => some (.pandn f)
  | 0x4 => some (.pnot f)
  | 0x5 => some (.pmov f)
  | 0x6 => some (.pget f)
  | _ => none

/-- The minors of major 0x7 (R79 to R82). -/
noncomputable def minor07 (min : Nat) (f : FmtA) : Option Instr :=
  match min with
  | 0x0 => some (.fadd f)
  | 0x1 => some (.fsub f)
  | 0x2 => some (.fmul f)
  | 0x3 => some (.fdiv f)
  | 0x4 => some (.fsqrt f)
  | 0x5 => some (.fma f)
  | 0x6 => some (.fmin f)
  | 0x7 => some (.fmax f)
  | 0x8 => some (.fcmp f)
  | 0x9 => some (.fcvt f)
  | 0xa => some (.fcvti f)
  | 0xb => some (.fcvtf f)
  | _ => none

/-- The minors of major 0x8 (R79 to R82). -/
noncomputable def minor08 (min : Nat) (f : FmtB) : Option Instr :=
  match min with
  | 0x0 => some (.br f)
  | 0x1 => some (.brp f)
  | 0x2 => some (.call f)
  | 0x3 => some (.ret f)
  | 0x4 => some (.jmpr f)
  | 0x5 => some (.loop f)
  | 0x6 => some (.nexttile f)
  | _ => none

/-- The minors of major 0x9 (R79 to R82). -/
noncomputable def minor09 (min : Nat) (f : FmtM) : Option Instr :=
  match min with
  | 0x0 => some (.ld8 f)
  | 0x1 => some (.ld8sx f)
  | 0x2 => some (.ld16 f)
  | 0x3 => some (.ld16sx f)
  | 0x4 => some (.ld32 f)
  | 0x5 => some (.ld32sx f)
  | 0x6 => some (.ld64 f)
  | 0x8 => some (.st8 f)
  | 0x9 => some (.st16 f)
  | 0xa => some (.st32 f)
  | 0xb => some (.st64 f)
  | 0xc => some (.lda f)
  | 0xd => some (.stl f)
  | _ => none

/-- The minors of major 0xa (R79 to R82). -/
noncomputable def minor0A (min : Nat) (f : FmtM) : Option Instr :=
  match min with
  | 0x0 => some (.amoFadd f)
  | 0x1 => some (.amoSwap f)
  | 0x2 => some (.amoCas f)
  | 0x3 => some (.amoMin f)
  | 0x4 => some (.amoMax f)
  | 0x5 => some (.amoMinu f)
  | 0x6 => some (.amoMaxu f)
  | 0x7 => some (.amoAnd f)
  | 0x8 => some (.amoOr f)
  | 0x9 => some (.amoXor f)
  | _ => none

/-- The minors of major 0xb (R79 to R82). -/
noncomputable def minor0B (min : Nat) (f : FmtA) : Option Instr :=
  match min with
  | 0x0 => some (.fence f)
  | 0x1 => some (.fenceAcq f)
  | 0x2 => some (.fenceRel f)
  | 0x3 => some (.pin f)
  | 0x4 => some (.unpin f)
  | _ => none

/-- The minors of major 0xc (R79 to R82). -/
noncomputable def minor0C (min : Nat) (f : FmtM) : Option Instr :=
  match min with
  | 0x0 => some (.ldfe f)
  | 0x1 => some (.ldff f)
  | 0x2 => some (.stef f)
  | 0x3 => some (.stff f)
  | 0x4 => some (.sete f)
  | 0x5 => some (.setf f)
  | _ => none

/-- The minors of major 0xd (R79 to R82). -/
noncomputable def minor0D (min : Nat) (f : FmtA) : Option Instr :=
  match min with
  | 0x0 => some (.csrr f)
  | 0x1 => some (.csrw f)
  | 0x2 => some (.csrs f)
  | 0x3 => some (.csrc f)
  | 0x4 => some (.time f)
  | _ => none

/-- The minors of major 0xe (R79 to R82). -/
noncomputable def minor0E (min : Nat) (f : FmtI) : Option Instr :=
  match min with
  | 0x0 => some (.trap f)
  | 0x1 => some (.sysc f)
  | 0x2 => some (.dbg f)
  | _ => none

/-- The minors of major 0xf (R79 to R82). -/
noncomputable def minor0F (min : Nat) (f : FmtA) : Option Instr :=
  match min with
  | 0x0 => if f.mod.getLsbD 0 then some (.routeCancel f) else some (.route f)
  | 0x1 => some (.rstat f)
  | 0x2 => some (.spawn f)
  | 0x3 => some (.binapp f)
  | 0x4 => some (.binclr f)
  | _ => none

/-- The minors of major 0x10 (R79 to R82). -/
noncomputable def minor10 (min : Nat) (f : FmtA) : Option Instr :=
  match min with
  | 0x0 =>
    match (f.mod.extractLsb' 0 2).toNat with
    | 0 => some (.xresv f)
    | 1 => some (.xresvCfg f)
    | 2 => some (.xresvEnd f)
    | _ => none
  | 0x1 => some (.xdisp f)
  | 0x2 => some (.xcomb f)
  | _ => none

/-- The minors of major 0x11 (R79 to R82). -/
noncomputable def minor11 (min : Nat) (f : FmtM) : Option Instr :=
  match min with
  | 0x0 => some (.ldvBc f)
  | 0x1 => some (.stvBc f)
  | 0x2 => some (.ldvtBc f)
  | _ => none

/-- The minors of major 0x12 (R79 to R82). -/
noncomputable def minor12 (min : Nat) (f : FmtM) : Option Instr :=
  match min with
  | 0x0 => some (.lea f)
  | _ => none

/-- The minors of major 0x30 (R79 to R82). -/
noncomputable def minor30 (min : Nat) (f : FmtA) : Option Instr :=
  match min with
  | 0x0 => some (.mAdd f)
  | 0x1 => some (.mSub f)
  | 0x2 => some (.mMul f)
  | 0x3 => some (.mMulh f)
  | 0x4 => some (.mMulhu f)
  | 0x5 => some (.mDiv f)
  | 0x6 => some (.mDivu f)
  | 0x7 => some (.mRem f)
  | 0x8 => some (.mRemu f)
  | 0x9 => some (.mAnd f)
  | 0xa => some (.mOr f)
  | 0xb => some (.mXor f)
  | 0xc => some (.mAndn f)
  | 0xd => some (.mShl f)
  | 0xe => some (.mShr f)
  | 0xf => some (.mSra f)
  | 0x10 => some (.mRot f)
  | 0x11 => some (.mMin f)
  | 0x12 => some (.mMax f)
  | 0x13 => some (.mMinu f)
  | 0x14 => some (.mMaxu f)
  | 0x15 => some (.mClz f)
  | 0x16 => some (.mPopc f)
  | 0x17 => some (.mSel f)
  | 0x18 => some (.mMov f)
  | 0x19 => some (.mSext f)
  | 0x1a => some (.mZext f)
  | _ => none

/-- The minors of major 0x31 (R79 to R82). -/
noncomputable def minor31 (min : Nat) (f : FmtI) : Option Instr :=
  match min with
  | 0x0 => some (.mAddImm f)
  | 0x1 => some (.mMulImm f)
  | 0x2 => some (.mAndImm f)
  | 0x3 => some (.mOrImm f)
  | 0x4 => some (.mXorImm f)
  | 0x5 => some (.mShlImm f)
  | 0x6 => some (.mShrImm f)
  | 0x7 => some (.mSraImm f)
  | 0x8 => some (.mRotImm f)
  | 0x9 => some (.mMinImm f)
  | 0xa => some (.mMaxImm f)
  | 0xb => some (.mMinuImm f)
  | 0xc => some (.mMaxuImm f)
  | 0xd => some (.mMovImm f)
  | 0xe => some (.mMovh f)
  | _ => none

/-- The minors of major 0x32 (R79 to R82). -/
noncomputable def minor32 (min : Nat) (f : FmtA) : Option Instr :=
  match min with
  | 0x0 => some (.mcmpEq f)
  | 0x1 => some (.mcmpNe f)
  | 0x2 => some (.mcmpLt f)
  | 0x3 => some (.mcmpGe f)
  | 0x4 => some (.mcmpLtu f)
  | 0x5 => some (.mcmpGeu f)
  | _ => none

/-- The minors of major 0x33 (R79 to R82). -/
noncomputable def minor33 (min : Nat) (f : FmtI) : Option Instr :=
  match min with
  | 0x0 => some (.mcmpiEq f)
  | 0x1 => some (.mcmpiNe f)
  | 0x2 => some (.mcmpiLt f)
  | 0x3 => some (.mcmpiGe f)
  | 0x4 => some (.mcmpiLtu f)
  | 0x5 => some (.mcmpiGeu f)
  | _ => none

/-- The minors of major 0x34 (R79 to R82). -/
noncomputable def minor34 (min : Nat) (f : FmtA) : Option Instr :=
  match min with
  | 0x0 => some (.mPand f)
  | 0x1 => some (.mPor f)
  | 0x2 => some (.mPxor f)
  | 0x3 => some (.mPandn f)
  | 0x4 => some (.mPnot f)
  | 0x5 => some (.mPmov f)
  | 0x6 => some (.mPget f)
  | _ => none

/-- The minors of major 0x35 (R79 to R82). -/
noncomputable def minor35 (min : Nat) (f : FmtL) : Option Instr :=
  match min with
  | 0x0 => some (.mMovl f)
  | _ => none

/-- The minors of major 0x36 (R79 to R82). -/
noncomputable def minor36 (min : Nat) (f : FmtA) : Option Instr :=
  match min with
  | 0x0 => some (.colid f)
  | 0x1 => some (.rowid f)
  | _ => none

/-- The minors of major 0x37 (R79 to R82). -/
noncomputable def minor37 (min : Nat) (f : FmtM) : Option Instr :=
  match min with
  | 0x0 => some (.lds f)
  | 0x1 => some (.sts f)
  | 0x2 => some (.ldv f)
  | 0x3 => some (.stv f)
  | 0x4 => some (.ldvt f)
  | _ => none

/-- The minors of major 0x38 (R79 to R82). -/
noncomputable def minor38 (min : Nat) (f : FmtA) : Option Instr :=
  match min with
  | 0x0 => some (.rput f)
  | 0x1 => some (.rget f)
  | _ => none

/-- The minors of major 0x39 (R79 to R82). -/
noncomputable def minor39 (min : Nat) (f : FmtM) : Option Instr :=
  match min with
  | 0x0 => some (.mLea f)
  | _ => none

/-- The minors of major 0x40 (R79 to R82). -/
noncomputable def minor40 (min : Nat) (f : FmtV) : Option Instr :=
  match min with
  | 0x0 => some (.vadd f)
  | 0x1 => some (.vsub f)
  | 0x2 => some (.vmul f)
  | 0x3 => some (.vdiv f)
  | 0x4 => some (.vfma f)
  | 0x5 => some (.vfms f)
  | 0x6 => some (.vmin f)
  | 0x7 => some (.vmax f)
  | 0x8 => some (.vabs f)
  | 0x9 => some (.vneg f)
  | _ => none

/-- The minors of major 0x41 (R79 to R82). -/
noncomputable def minor41 (min : Nat) (f : FmtV) : Option Instr :=
  match min with
  | 0x0 => some (.vrcp f)
  | 0x1 => some (.vrsq f)
  | 0x2 => some (.vsqrt f)
  | 0x3 => some (.vexp2 f)
  | 0x4 => some (.vlog2 f)
  | 0x5 => some (.vsig f)
  | 0x6 => some (.vtanh f)
  | _ => none

/-- The minors of major 0x42 (R79 to R82). -/
noncomputable def minor42 (min : Nat) (f : FmtV) : Option Instr :=
  match min with
  | 0x0 => some (.vaddInt f)
  | 0x1 => some (.vsubInt f)
  | 0x2 => some (.vmulInt f)
  | 0x3 => some (.vminInt f)
  | 0x4 => some (.vmaxInt f)
  | 0x5 => some (.vand f)
  | 0x6 => some (.vor f)
  | 0x7 => some (.vxor f)
  | 0x8 => some (.vnot f)
  | 0x9 => some (.vshl f)
  | 0xa => some (.vshr f)
  | 0xb => some (.vsra f)
  | 0xc => some (.vpopc f)
  | 0xd => some (.vclz f)
  | _ => none

/-- The minors of major 0x43 (R79 to R82). -/
noncomputable def minor43 (min : Nat) (f : FmtV) : Option Instr :=
  match min with
  | 0x0 => some (.vcmp f)
  | _ => none

/-- The minors of major 0x44 (R79 to R82). -/
noncomputable def minor44 (min : Nat) (f : FmtV) : Option Instr :=
  match min with
  | 0x0 => some (.vmand f)
  | 0x1 => some (.vmor f)
  | 0x2 => some (.vmxor f)
  | 0x3 => some (.vmnot f)
  | 0x4 => some (.vmcnt f)
  | 0x5 => some (.vmfirst f)
  | _ => none

/-- The minors of major 0x45 (R79 to R82). -/
noncomputable def minor45 (min : Nat) (f : FmtV) : Option Instr :=
  match min with
  | 0x0 => some (.vsel f)
  | _ => none

/-- The minors of major 0x46 (R79 to R82). -/
noncomputable def minor46 (min : Nat) (f : FmtV) : Option Instr :=
  match min with
  | 0x0 => some (.vcvt f)
  | 0x1 => some (.vqnt f)
  | 0x2 => some (.vdeq f)
  | _ => none

/-- The minors of major 0x47 (R79 to R82). -/
noncomputable def minor47 (min : Nat) (f : FmtV) : Option Instr :=
  match min with
  | 0x0 => some (.vred f)
  | 0x1 => some (.vscan f)
  | _ => none

/-- The minors of major 0x48 (R79 to R82). -/
noncomputable def minor48 (min : Nat) (f : FmtV) : Option Instr :=
  match min with
  | 0x0 => some (.vmov f)
  | 0x1 => some (.vbcast f)
  | 0x2 => some (.vtran f)
  | 0x3 => some (.vshuf f)
  | 0x4 => some (.vext f)
  | 0x5 => some (.vins f)
  | 0x6 => some (.viota f)
  | _ => none

/-- The minors of major 0x49 (R79 to R82). -/
noncomputable def minor49 (min : Nat) (f : FmtV) : Option Instr :=
  match min with
  | 0x0 => some (.nzscan f)
  | 0x1 => some (.vtopk f)
  | 0x2 => some (.vsort f)
  | 0x3 => some (.vshape f)
  | _ => none

/-- The minors of major 0x60 (R79 to R82). 0x01 is MSWAP and 0x02 MRING by R243 and R244, over the table of R82 (DEDUCED, log
entry 11). -/
noncomputable def minor60 (min : Nat) (f : FmtE) : Option Instr :=
  match min with
  | 0x0 => some (.mldb f)
  | 0x1 => some (.mswap f)
  | 0x2 => some (.mring f)
  | 0x3 => some (.mma f)
  | 0x4 => some (.mmas f)
  | 0x5 => some (.gmma f)
  | 0x6 => some (.mzero f)
  | 0x7 => some (.mdrain f)
  | 0x8 => some (.mstream f)
  | _ => none

/-- The minors of major 0x61 (R79 to R82). -/
noncomputable def minor61 (min : Nat) (f : FmtE) : Option Instr :=
  match min with
  | 0x0 => some (.qcfg f)
  | 0x1 => some (.qtri f)
  | 0x2 => some (.qapply f)
  | 0x3 => some (.qang f)
  | 0x4 => some (.qrot f)
  | 0x5 => some (.qsolve f)
  | 0x6 => some (.qgain f)
  | 0x7 => some (.qldt f)
  | 0x8 => some (.qstt f)
  | _ => none

/-- The minors of major 0x62 (R79 to R82). -/
noncomputable def minor62 (min : Nat) (f : FmtE) : Option Instr :=
  match min with
  | 0x0 => some (.cp f)
  | 0x1 => some (.cpg f)
  | 0x2 => some (.cps f)
  | 0x3 => some (.cpd f)
  | 0x4 => some (.cpf f)
  | 0x5 => some (.cpw f)
  | 0x6 => some (.cpq f)
  | 0x7 => some (.arrv f)
  | 0x8 => some (.waitb f)
  | _ => none

/-- The minors of major 0x63 (R79 to R82). -/
noncomputable def minor63 (min : Nat) (f : FmtE) : Option Instr :=
  match min with
  | 0x0 => some (.xput f)
  | 0x1 => some (.xget f)
  | 0x2 => some (.xamo f)
  | 0x3 => some (.xsend f)
  | 0x4 => some (.xtrig f)
  | 0x5 =>
    match (f.mod.extractLsb' 0 2).toNat with
    | 0 => some (.xcntRead f)
    | 1 => some (.xcntSet f)
    | 2 => some (.xcntAdd f)
    | _ => some (.xcntErr f)
  | 0x6 => if f.mod.getLsbD 1 then some (.xtileFire f) else some (.xtile f)
  | 0x7 => some (.xrt f)
  | 0x8 => some (.xflush f)
  | 0x9 => if f.mod.getLsbD 0 then some (.xwaitDrain f) else some (.xwait f)
  | _ => none

/-- The minors of major 0x64 (R79 to R82). -/
noncomputable def minor64 (min : Nat) (f : FmtE) : Option Instr :=
  match min with
  | 0x0 => some (.vtok f)
  | _ => none

/-- The instruction of a cut syllable; `none` where its major or minor is undefined (R79 to R82). Of major 0x00,
minor 0x00, only the all-zero syllable is an instruction (R124), and `decode` takes that one first. -/
noncomputable def Enc.instr? : Enc → Option Instr
  | .a maj min _ f =>
    match maj.toNat with
    | 0x0 => minor00 min.toNat f
    | 0x1 => minor01 min.toNat f
    | 0x4 => minor04 min.toNat f
    | 0x6 => minor06 min.toNat f
    | 0x7 => minor07 min.toNat f
    | 0xb => minor0B min.toNat f
    | 0xd => minor0D min.toNat f
    | 0xf => minor0F min.toNat f
    | 0x10 => minor10 min.toNat f
    | 0x30 => minor30 min.toNat f
    | 0x32 => minor32 min.toNat f
    | 0x34 => minor34 min.toNat f
    | 0x36 => minor36 min.toNat f
    | 0x38 => minor38 min.toNat f
    | _ => none
  | .i maj min _ f =>
    match maj.toNat with
    | 0x2 => minor02 min.toNat f
    | 0x5 => minor05 min.toNat f
    | 0xe => minor0E min.toNat f
    | 0x31 => minor31 min.toNat f
    | 0x33 => minor33 min.toNat f
    | _ => none
  | .b maj min f =>
    match maj.toNat with
    | 0x8 => minor08 min.toNat f
    | _ => none
  | .m maj min f =>
    match maj.toNat with
    | 0x9 => minor09 min.toNat f
    | 0xa => minor0A min.toNat f
    | 0xc => minor0C min.toNat f
    | 0x11 => minor11 min.toNat f
    | 0x12 => minor12 min.toNat f
    | 0x37 => minor37 min.toNat f
    | 0x39 => minor39 min.toNat f
    | _ => none
  | .v maj min f =>
    match maj.toNat with
    | 0x40 => minor40 min.toNat f
    | 0x41 => minor41 min.toNat f
    | 0x42 => minor42 min.toNat f
    | 0x43 => minor43 min.toNat f
    | 0x44 => minor44 min.toNat f
    | 0x45 => minor45 min.toNat f
    | 0x46 => minor46 min.toNat f
    | 0x47 => minor47 min.toNat f
    | 0x48 => minor48 min.toNat f
    | 0x49 => minor49 min.toNat f
    | _ => none
  | .e maj min f =>
    match maj.toNat with
    | 0x60 => minor60 min.toNat f
    | 0x61 => minor61 min.toNat f
    | 0x62 => minor62 min.toNat f
    | 0x63 => minor63 min.toNat f
    | 0x64 => minor64 min.toNat f
    | _ => none
  | .l maj min _ f =>
    match maj.toNat with
    | 0x3 => minor03 min.toNat f
    | 0x35 => minor35 min.toNat f
    | _ => none

/-- The cut syllable of an instruction; `none` for a step that is no syllable. The all-zero NOP is `encode`'s own case. -/
def Instr.enc : Instr → Option Enc
  | .nop => none
  | .yield f => some (.a 0x0 0x1 0 f)
  | .exit f => some (.a 0x0 0x2 0 f)
  | .add f => some (.a 0x1 0x0 0 f)
  | .sub f => some (.a 0x1 0x1 0 f)
  | .mul f => some (.a 0x1 0x2 0 f)
  | .mulh f => some (.a 0x1 0x3 0 f)
  | .mulhu f => some (.a 0x1 0x4 0 f)
  | .div f => some (.a 0x1 0x5 0 f)
  | .divu f => some (.a 0x1 0x6 0 f)
  | .rem f => some (.a 0x1 0x7 0 f)
  | .remu f => some (.a 0x1 0x8 0 f)
  | .and f => some (.a 0x1 0x9 0 f)
  | .or f => some (.a 0x1 0xa 0 f)
  | .xor f => some (.a 0x1 0xb 0 f)
  | .andn f => some (.a 0x1 0xc 0 f)
  | .shl f => some (.a 0x1 0xd 0 f)
  | .shr f => some (.a 0x1 0xe 0 f)
  | .sra f => some (.a 0x1 0xf 0 f)
  | .rot f => some (.a 0x1 0x10 0 f)
  | .min f => some (.a 0x1 0x11 0 f)
  | .max f => some (.a 0x1 0x12 0 f)
  | .minu f => some (.a 0x1 0x13 0 f)
  | .maxu f => some (.a 0x1 0x14 0 f)
  | .clz f => some (.a 0x1 0x15 0 f)
  | .popc f => some (.a 0x1 0x16 0 f)
  | .sel f => some (.a 0x1 0x17 0 f)
  | .mov f => some (.a 0x1 0x18 0 f)
  | .sext f => some (.a 0x1 0x19 0 f)
  | .zext f => some (.a 0x1 0x1a 0 f)
  | .addImm f => some (.i 0x2 0x0 0 f)
  | .mulImm f => some (.i 0x2 0x1 0 f)
  | .andImm f => some (.i 0x2 0x2 0 f)
  | .orImm f => some (.i 0x2 0x3 0 f)
  | .xorImm f => some (.i 0x2 0x4 0 f)
  | .shlImm f => some (.i 0x2 0x5 0 f)
  | .shrImm f => some (.i 0x2 0x6 0 f)
  | .sraImm f => some (.i 0x2 0x7 0 f)
  | .rotImm f => some (.i 0x2 0x8 0 f)
  | .minImm f => some (.i 0x2 0x9 0 f)
  | .maxImm f => some (.i 0x2 0xa 0 f)
  | .minuImm f => some (.i 0x2 0xb 0 f)
  | .maxuImm f => some (.i 0x2 0xc 0 f)
  | .movImm f => some (.i 0x2 0xd 0 f)
  | .movh f => some (.i 0x2 0xe 0 f)
  | .movl f => some (.l 0x3 0x0 0 f)
  | .cmpEq f => some (.a 0x4 0x0 0 f)
  | .cmpNe f => some (.a 0x4 0x1 0 f)
  | .cmpLt f => some (.a 0x4 0x2 0 f)
  | .cmpGe f => some (.a 0x4 0x3 0 f)
  | .cmpLtu f => some (.a 0x4 0x4 0 f)
  | .cmpGeu f => some (.a 0x4 0x5 0 f)
  | .cmpiEq f => some (.i 0x5 0x0 0 f)
  | .cmpiNe f => some (.i 0x5 0x1 0 f)
  | .cmpiLt f => some (.i 0x5 0x2 0 f)
  | .cmpiGe f => some (.i 0x5 0x3 0 f)
  | .cmpiLtu f => some (.i 0x5 0x4 0 f)
  | .cmpiGeu f => some (.i 0x5 0x5 0 f)
  | .pand f => some (.a 0x6 0x0 0 f)
  | .por f => some (.a 0x6 0x1 0 f)
  | .pxor f => some (.a 0x6 0x2 0 f)
  | .pandn f => some (.a 0x6 0x3 0 f)
  | .pnot f => some (.a 0x6 0x4 0 f)
  | .pmov f => some (.a 0x6 0x5 0 f)
  | .pget f => some (.a 0x6 0x6 0 f)
  | .fadd f => some (.a 0x7 0x0 0 f)
  | .fsub f => some (.a 0x7 0x1 0 f)
  | .fmul f => some (.a 0x7 0x2 0 f)
  | .fdiv f => some (.a 0x7 0x3 0 f)
  | .fsqrt f => some (.a 0x7 0x4 0 f)
  | .fma f => some (.a 0x7 0x5 0 f)
  | .fmin f => some (.a 0x7 0x6 0 f)
  | .fmax f => some (.a 0x7 0x7 0 f)
  | .fcmp f => some (.a 0x7 0x8 0 f)
  | .fcvt f => some (.a 0x7 0x9 0 f)
  | .fcvti f => some (.a 0x7 0xa 0 f)
  | .fcvtf f => some (.a 0x7 0xb 0 f)
  | .br f => some (.b 0x8 0x0 f)
  | .brp f => some (.b 0x8 0x1 f)
  | .call f => some (.b 0x8 0x2 f)
  | .ret f => some (.b 0x8 0x3 f)
  | .jmpr f => some (.b 0x8 0x4 f)
  | .loop f => some (.b 0x8 0x5 f)
  | .nexttile f => some (.b 0x8 0x6 f)
  | .ld8 f => some (.m 0x9 0x0 f)
  | .ld8sx f => some (.m 0x9 0x1 f)
  | .ld16 f => some (.m 0x9 0x2 f)
  | .ld16sx f => some (.m 0x9 0x3 f)
  | .ld32 f => some (.m 0x9 0x4 f)
  | .ld32sx f => some (.m 0x9 0x5 f)
  | .ld64 f => some (.m 0x9 0x6 f)
  | .st8 f => some (.m 0x9 0x8 f)
  | .st16 f => some (.m 0x9 0x9 f)
  | .st32 f => some (.m 0x9 0xa f)
  | .st64 f => some (.m 0x9 0xb f)
  | .lda f => some (.m 0x9 0xc f)
  | .stl f => some (.m 0x9 0xd f)
  | .lea f => some (.m 0x12 0x0 f)
  | .amoFadd f => some (.m 0xa 0x0 f)
  | .amoSwap f => some (.m 0xa 0x1 f)
  | .amoCas f => some (.m 0xa 0x2 f)
  | .amoMin f => some (.m 0xa 0x3 f)
  | .amoMax f => some (.m 0xa 0x4 f)
  | .amoMinu f => some (.m 0xa 0x5 f)
  | .amoMaxu f => some (.m 0xa 0x6 f)
  | .amoAnd f => some (.m 0xa 0x7 f)
  | .amoOr f => some (.m 0xa 0x8 f)
  | .amoXor f => some (.m 0xa 0x9 f)
  | .fence f => some (.a 0xb 0x0 0 f)
  | .fenceAcq f => some (.a 0xb 0x1 0 f)
  | .fenceRel f => some (.a 0xb 0x2 0 f)
  | .pin f => some (.a 0xb 0x3 0 f)
  | .unpin f => some (.a 0xb 0x4 0 f)
  | .ldfe f => some (.m 0xc 0x0 f)
  | .ldff f => some (.m 0xc 0x1 f)
  | .stef f => some (.m 0xc 0x2 f)
  | .stff f => some (.m 0xc 0x3 f)
  | .sete f => some (.m 0xc 0x4 f)
  | .setf f => some (.m 0xc 0x5 f)
  | .csrr f => some (.a 0xd 0x0 0 f)
  | .csrw f => some (.a 0xd 0x1 0 f)
  | .csrs f => some (.a 0xd 0x2 0 f)
  | .csrc f => some (.a 0xd 0x3 0 f)
  | .time f => some (.a 0xd 0x4 0 f)
  | .trap f => some (.i 0xe 0x0 0 f)
  | .sysc f => some (.i 0xe 0x1 0 f)
  | .dbg f => some (.i 0xe 0x2 0 f)
  | .route f => some (.a 0xf 0x0 0 f)
  | .routeCancel f => some (.a 0xf 0x0 0 f)
  | .rstat f => some (.a 0xf 0x1 0 f)
  | .spawn f => some (.a 0xf 0x2 0 f)
  | .binapp f => some (.a 0xf 0x3 0 f)
  | .binclr f => some (.a 0xf 0x4 0 f)
  | .xresv f => some (.a 0x10 0x0 0 f)
  | .xresvCfg f => some (.a 0x10 0x0 0 f)
  | .xresvEnd f => some (.a 0x10 0x0 0 f)
  | .xdisp f => some (.a 0x10 0x1 0 f)
  | .xcomb f => some (.a 0x10 0x2 0 f)
  | .ldvBc f => some (.m 0x11 0x0 f)
  | .stvBc f => some (.m 0x11 0x1 f)
  | .ldvtBc f => some (.m 0x11 0x2 f)
  | .mAdd f => some (.a 0x30 0x0 0 f)
  | .mSub f => some (.a 0x30 0x1 0 f)
  | .mMul f => some (.a 0x30 0x2 0 f)
  | .mMulh f => some (.a 0x30 0x3 0 f)
  | .mMulhu f => some (.a 0x30 0x4 0 f)
  | .mDiv f => some (.a 0x30 0x5 0 f)
  | .mDivu f => some (.a 0x30 0x6 0 f)
  | .mRem f => some (.a 0x30 0x7 0 f)
  | .mRemu f => some (.a 0x30 0x8 0 f)
  | .mAnd f => some (.a 0x30 0x9 0 f)
  | .mOr f => some (.a 0x30 0xa 0 f)
  | .mXor f => some (.a 0x30 0xb 0 f)
  | .mAndn f => some (.a 0x30 0xc 0 f)
  | .mShl f => some (.a 0x30 0xd 0 f)
  | .mShr f => some (.a 0x30 0xe 0 f)
  | .mSra f => some (.a 0x30 0xf 0 f)
  | .mRot f => some (.a 0x30 0x10 0 f)
  | .mMin f => some (.a 0x30 0x11 0 f)
  | .mMax f => some (.a 0x30 0x12 0 f)
  | .mMinu f => some (.a 0x30 0x13 0 f)
  | .mMaxu f => some (.a 0x30 0x14 0 f)
  | .mClz f => some (.a 0x30 0x15 0 f)
  | .mPopc f => some (.a 0x30 0x16 0 f)
  | .mSel f => some (.a 0x30 0x17 0 f)
  | .mMov f => some (.a 0x30 0x18 0 f)
  | .mSext f => some (.a 0x30 0x19 0 f)
  | .mZext f => some (.a 0x30 0x1a 0 f)
  | .mAddImm f => some (.i 0x31 0x0 0 f)
  | .mMulImm f => some (.i 0x31 0x1 0 f)
  | .mAndImm f => some (.i 0x31 0x2 0 f)
  | .mOrImm f => some (.i 0x31 0x3 0 f)
  | .mXorImm f => some (.i 0x31 0x4 0 f)
  | .mShlImm f => some (.i 0x31 0x5 0 f)
  | .mShrImm f => some (.i 0x31 0x6 0 f)
  | .mSraImm f => some (.i 0x31 0x7 0 f)
  | .mRotImm f => some (.i 0x31 0x8 0 f)
  | .mMinImm f => some (.i 0x31 0x9 0 f)
  | .mMaxImm f => some (.i 0x31 0xa 0 f)
  | .mMinuImm f => some (.i 0x31 0xb 0 f)
  | .mMaxuImm f => some (.i 0x31 0xc 0 f)
  | .mMovImm f => some (.i 0x31 0xd 0 f)
  | .mMovh f => some (.i 0x31 0xe 0 f)
  | .mcmpEq f => some (.a 0x32 0x0 0 f)
  | .mcmpNe f => some (.a 0x32 0x1 0 f)
  | .mcmpLt f => some (.a 0x32 0x2 0 f)
  | .mcmpGe f => some (.a 0x32 0x3 0 f)
  | .mcmpLtu f => some (.a 0x32 0x4 0 f)
  | .mcmpGeu f => some (.a 0x32 0x5 0 f)
  | .mcmpiEq f => some (.i 0x33 0x0 0 f)
  | .mcmpiNe f => some (.i 0x33 0x1 0 f)
  | .mcmpiLt f => some (.i 0x33 0x2 0 f)
  | .mcmpiGe f => some (.i 0x33 0x3 0 f)
  | .mcmpiLtu f => some (.i 0x33 0x4 0 f)
  | .mcmpiGeu f => some (.i 0x33 0x5 0 f)
  | .mPand f => some (.a 0x34 0x0 0 f)
  | .mPor f => some (.a 0x34 0x1 0 f)
  | .mPxor f => some (.a 0x34 0x2 0 f)
  | .mPandn f => some (.a 0x34 0x3 0 f)
  | .mPnot f => some (.a 0x34 0x4 0 f)
  | .mPmov f => some (.a 0x34 0x5 0 f)
  | .mPget f => some (.a 0x34 0x6 0 f)
  | .mMovl f => some (.l 0x35 0x0 0 f)
  | .mLea f => some (.m 0x39 0x0 f)
  | .colid f => some (.a 0x36 0x0 0 f)
  | .rowid f => some (.a 0x36 0x1 0 f)
  | .lds f => some (.m 0x37 0x0 f)
  | .sts f => some (.m 0x37 0x1 f)
  | .ldv f => some (.m 0x37 0x2 f)
  | .stv f => some (.m 0x37 0x3 f)
  | .ldvt f => some (.m 0x37 0x4 f)
  | .rput f => some (.a 0x38 0x0 0 f)
  | .rget f => some (.a 0x38 0x1 0 f)
  | .vadd f => some (.v 0x40 0x0 f)
  | .vsub f => some (.v 0x40 0x1 f)
  | .vmul f => some (.v 0x40 0x2 f)
  | .vdiv f => some (.v 0x40 0x3 f)
  | .vfma f => some (.v 0x40 0x4 f)
  | .vfms f => some (.v 0x40 0x5 f)
  | .vmin f => some (.v 0x40 0x6 f)
  | .vmax f => some (.v 0x40 0x7 f)
  | .vabs f => some (.v 0x40 0x8 f)
  | .vneg f => some (.v 0x40 0x9 f)
  | .vrcp f => some (.v 0x41 0x0 f)
  | .vrsq f => some (.v 0x41 0x1 f)
  | .vsqrt f => some (.v 0x41 0x2 f)
  | .vexp2 f => some (.v 0x41 0x3 f)
  | .vlog2 f => some (.v 0x41 0x4 f)
  | .vsig f => some (.v 0x41 0x5 f)
  | .vtanh f => some (.v 0x41 0x6 f)
  | .vaddInt f => some (.v 0x42 0x0 f)
  | .vsubInt f => some (.v 0x42 0x1 f)
  | .vmulInt f => some (.v 0x42 0x2 f)
  | .vminInt f => some (.v 0x42 0x3 f)
  | .vmaxInt f => some (.v 0x42 0x4 f)
  | .vand f => some (.v 0x42 0x5 f)
  | .vor f => some (.v 0x42 0x6 f)
  | .vxor f => some (.v 0x42 0x7 f)
  | .vnot f => some (.v 0x42 0x8 f)
  | .vshl f => some (.v 0x42 0x9 f)
  | .vshr f => some (.v 0x42 0xa f)
  | .vsra f => some (.v 0x42 0xb f)
  | .vpopc f => some (.v 0x42 0xc f)
  | .vclz f => some (.v 0x42 0xd f)
  | .vcmp f => some (.v 0x43 0x0 f)
  | .vmand f => some (.v 0x44 0x0 f)
  | .vmor f => some (.v 0x44 0x1 f)
  | .vmxor f => some (.v 0x44 0x2 f)
  | .vmnot f => some (.v 0x44 0x3 f)
  | .vmcnt f => some (.v 0x44 0x4 f)
  | .vmfirst f => some (.v 0x44 0x5 f)
  | .vsel f => some (.v 0x45 0x0 f)
  | .vcvt f => some (.v 0x46 0x0 f)
  | .vqnt f => some (.v 0x46 0x1 f)
  | .vdeq f => some (.v 0x46 0x2 f)
  | .vred f => some (.v 0x47 0x0 f)
  | .vscan f => some (.v 0x47 0x1 f)
  | .vmov f => some (.v 0x48 0x0 f)
  | .vbcast f => some (.v 0x48 0x1 f)
  | .vtran f => some (.v 0x48 0x2 f)
  | .vshuf f => some (.v 0x48 0x3 f)
  | .vext f => some (.v 0x48 0x4 f)
  | .vins f => some (.v 0x48 0x5 f)
  | .viota f => some (.v 0x48 0x6 f)
  | .nzscan f => some (.v 0x49 0x0 f)
  | .vtopk f => some (.v 0x49 0x1 f)
  | .vsort f => some (.v 0x49 0x2 f)
  | .vshape f => some (.v 0x49 0x3 f)
  | .vtok f => some (.e 0x64 0x0 f)
  | .mldb f => some (.e 0x60 0x0 f)
  | .mring f => some (.e 0x60 0x2 f)
  | .mswap f => some (.e 0x60 0x1 f)
  | .mma f => some (.e 0x60 0x3 f)
  | .mmas f => some (.e 0x60 0x4 f)
  | .gmma f => some (.e 0x60 0x5 f)
  | .mzero f => some (.e 0x60 0x6 f)
  | .mdrain f => some (.e 0x60 0x7 f)
  | .mstream f => some (.e 0x60 0x8 f)
  | .qcfg f => some (.e 0x61 0x0 f)
  | .qtri f => some (.e 0x61 0x1 f)
  | .qapply f => some (.e 0x61 0x2 f)
  | .qang f => some (.e 0x61 0x3 f)
  | .qrot f => some (.e 0x61 0x4 f)
  | .qsolve f => some (.e 0x61 0x5 f)
  | .qgain f => some (.e 0x61 0x6 f)
  | .qldt f => some (.e 0x61 0x7 f)
  | .qstt f => some (.e 0x61 0x8 f)
  | .cp f => some (.e 0x62 0x0 f)
  | .cpg f => some (.e 0x62 0x1 f)
  | .cps f => some (.e 0x62 0x2 f)
  | .cpd f => some (.e 0x62 0x3 f)
  | .cpf f => some (.e 0x62 0x4 f)
  | .cpw f => some (.e 0x62 0x5 f)
  | .cpq f => some (.e 0x62 0x6 f)
  | .arrv f => some (.e 0x62 0x7 f)
  | .waitb f => some (.e 0x62 0x8 f)
  | .xput f => some (.e 0x63 0x0 f)
  | .xget f => some (.e 0x63 0x1 f)
  | .xamo f => some (.e 0x63 0x2 f)
  | .xsend f => some (.e 0x63 0x3 f)
  | .xtrig f => some (.e 0x63 0x4 f)
  | .xcntRead f => some (.e 0x63 0x5 f)
  | .xcntSet f => some (.e 0x63 0x5 f)
  | .xcntAdd f => some (.e 0x63 0x5 f)
  | .xcntErr f => some (.e 0x63 0x5 f)
  | .xtile f => some (.e 0x63 0x6 f)
  | .xtileFire f => some (.e 0x63 0x6 f)
  | .xrt f => some (.e 0x63 0x7 f)
  | .xflush f => some (.e 0x63 0x8 f)
  | .xwait f => some (.e 0x63 0x9 f)
  | .xwaitDrain f => some (.e 0x63 0x9 f)
  | .bundleFetch _ => none
  | .spineIssue _ => none
  | .coreExecute _ _ => none
  | .bcIssue _ => none
  | .bcReply _ => none
  | .migrationSend _ => none
  | .migrationArrive _ => none
  | .waitSatisfied _ => none
  | .launchAccept => none
  | .submitDoorbell _ _ => none
  | .gangBind _ _ => none
  | .gangStart _ _ => none
  | .spawnBind _ => none
  | .launchAgeing _ => none
  | .taskRetire _ => none
  | .completionRecordPost _ => none
  | .preempt _ _ => none
  | .restore _ _ => none
  | .watchdogExpiry _ => none
  | .faultRecordPost _ => none
  | .faultService _ => none
  | .eventRecordPost _ => none
  | .resumeTask _ _ => none
  | .bwake _ => none
  | .syscReply _ => none
  | .fillerSwitch _ _ => none
  | .fillerReturn _ _ => none
  | .mxStart _ _ => none
  | .mxRetire _ _ => none
  | .mringBeat _ _ => none
  | .qrStart _ _ => none
  | .qrRetire _ _ => none
  | .tokenPush _ _ _ => none
  | .copyDue _ _ => none
  | .copyBeat _ _ => none
  | .copyComplete _ _ => none
  | .homeAccess _ => none
  | .faddCombine _ _ _ => none
  | .registration _ _ => none
  | .l1dEvict _ _ => none
  | .sliceWritebackInvalidate _ => none
  | .sliceWriteback _ => none
  | .sliceDropHeld _ => none
  | .sliceMaintDone _ => none
  | .sliceCounterClear _ => none
  | .correctableError _ => none
  | .uncorrectableError _ => none
  | .scrubRead _ => none
  | .errorInject _ _ => none
  | .readClearRegister _ => none
  | .pageWalk _ _ _ _ => none
  | .tlbInvalidateAll _ => none
  | .tlbInvalidateAsid _ => none
  | .tlbInvalidateRange _ => none
  | .tlbInvalidateDone _ => none
  | .collatorRowAccept _ _ => none
  | .collatorRecordWrite _ => none
  | .routeEnd _ => none
  | .routeResume _ => none
  | .residencyCommit _ => none
  | .hintPost _ _ _ => none
  | .spare _ _ _ _ _ => none
  | .unspare _ _ _ _ _ => none
  | .pprRepair _ => none
  | .moduleReset => none
  | .fwupdate _ _ => none
  | .svn _ _ _ => none
  | .owner _ _ => none
  | .enrol _ _ => none
  | .revoke _ _ => none
  | .badadd _ _ => none
  | .badclr _ _ => none
  | .attest _ _ => none
  | .regread _ _ => none
  | .regwrite _ _ _ => none
  | .registerWrite _ _ _ => none
  | .load => none
  | .retry => none
  | .commit => none
  | .abort => none
  | .chunk _ => none
  | .shardHashed _ => none
  | .shardDeadline _ => none
  | .powerWindow _ => none
  | .thermalThrottle _ => none
  | .thermalTrip => none
  | .telemetryRecord _ => none
  | .breakpointHalt _ => none
  | .halt => none
  | .resume => none
  | .step => none
  | .read => none
  | .write => none
  | .pcSample _ => none
  | .pressFrameClose _ => none
  | .gridStore _ => none
  | .flitReceive _ _ => none
  | .linkReplay _ => none
  | .linkDown _ => none
  | .messageReceive _ _ => none
  | .ackSend _ => none
  | .ackReceive _ _ => none
  | .e2eRetransmit _ _ => none
  | .pairClear _ => none
  | .releaseWritePerform _ => none
  | .rdmaWrite _ _ _ _ _ => none
  | .rdmaRead _ _ _ _ _ => none
  | .lcpRequest _ _ _ _ _ _ => none
  | .kill _ _ => none
  | .ptpMessage _ _ _ => none
  | .xeStart _ _ => none
  | .putComplete _ => none
  | .receiveCounterCredit _ _ => none
  | .permitRequestReceive _ _ => none
  | .permitWindowExpiry _ _ => none
  | .dispatchReceive _ _ => none
  | .linkUp _ => none

/-- The words of a well-formed syllable: the syllable, and the word in the next position where the syllable takes a
literal (R73; zero otherwise). -/
def encode (i : Instr) : Option (Word × Word) :=
  match i with
  | .nop => some (0, 0)
  | i =>
    match i.enc with
    | none => none
    | some (.l maj min rsv f) => some ((Enc.l maj min rsv f).word, f.lit)
    | some e => some (e.word, 0)

/-- R76: does the position accept the major? -/
def inRange (maj : Nat) : Pos → Bool
  | .x => maj < 0x30
  | .s => maj < 0x30
  | .m => 0x30 ≤ maj && maj < 0x40
  | .v => 0x40 ≤ maj && maj < 0x60
  | .bv => 0x40 ≤ maj && maj < 0x60
  | .e => 0x60 ≤ maj

/-- The reserved bits of the format itself are zero (R64, R65, R73). -/
def Enc.rsvZero : Enc → Bool
  | .a _ _ rsv _ => rsv = 0
  | .i _ _ rsv _ => rsv = 0
  | .l _ _ rsv _ => rsv = 0
  | .b .. => true
  | .m .. => true
  | .v .. => true
  | .e .. => true

/-- R86, up to FILLREG: the checks of a 64-bit pattern `w` in position `pos` of unit `u`, in order, with `lit` the word
in the next position. -/
noncomputable def decode (pos : Pos) (u : UnitKind) (w lit : Word) : Except Fate Instr :=
  if w = BitVec.allOnes 64 then .error .illop
  else if w = 0 then .ok .nop
  else if !inRange (bits w 57 7).toNat pos then .error .illslot
  else
    match parse w lit with
    | none => .error .illop
    | some e =>
      match e.instr? with
      | none => .error .illop
      | some i =>
        if !i.implementedBy u then .error .illslot
        else if !(e.rsvZero && i.wellFormed u) then .error .illop
        else if i.partialOverlap then .error .illovl
        else .ok i

/-- The unit and position that decode a table word: the position its major belongs to (R76), on a row; on a binning
core where the row's unit does not implement the instruction (R84), with the sixteen registers of mode 16. -/
def tablePos (maj : Nat) (min : Nat) : Pos × UnitKind :=
  if maj < 0x30 then
    if maj = 0x11 || (maj = 0x0F && 2 ≤ min && min ≤ 4) then (.s, .bc 16) else (.x, .spine)
  else if maj < 0x40 then (.m, .core)
  else if maj < 0x60 then (.v, .core)
  else (.e, .core)

/-- The instruction the decoder reads from an instruction's bits, bit 0 the least significant of the first word. The
first 64 bits are the syllable, the next 64 its literal position (R73). -/
noncomputable def decodeTableWord (_nbits w : Nat) : Option Instr :=
  let syl := BitVec.ofNat 64 w
  let pu := tablePos (bits syl 57 7).toNat (bits syl 25 8).toNat
  match decode pu.1 pu.2 syl (BitVec.ofNat 64 (w / 2 ^ 64)) with
  | .ok i => some i
  | .error _ => none

end Sys2Proof
end

