-- ==== Sys2Proof/Machine/State.lean ====
section
/-! DEFINITION. The state of the machine as plain data: everything the spec gives the module, the reasons a step can
stop, and the state after reset. Sparse tables list only entries that differ from the value an unlisted key reads as
(`Machine.Table` reads and writes them and keeps that form). -/

namespace Sys2Proof.Machine

/-- The machine never stops by a fault of its own: every fault the spec describes is taken as the spec says (R54 to
R59) and gives a next state. -/
inductive Fault where
  /-- Raised by nothing; here because the interface asks for a type of reasons. Safe. -/
  | never
  deriving DecidableEq, Repr

/-- Why an instruction has no meaning. -/
inductive Refusal where
  /-- Raised by an arm of `exec` whose instruction has no meaning yet. Safe: the run stops. -/
  | notModelled (mnemonic : String)
  deriving DecidableEq, Repr

/-- A sparse table: keys strictly rising. -/
abbrev Tbl (α : Type) := List (Nat × α)

/-- A fault met by a syllable of the bundle that executes (R55, R580). -/
structure Raised where
  unit : Nat
  code : Nat
  write : Bool := false
  spad : Bool := false
  va : Word := 0
  detail : Word := 0
  hard : Bool := false   -- no translation fault, whatever its code (R340)
  deriving DecidableEq, Repr

/-- Vector registers and masks of a share or a binning thread (R25, R182). -/
structure VecFile where
  v : Tbl (BitVec 8192) := []
  m : Tbl (BitVec 2048) := []
  deriving DecidableEq, Repr

/-- The registers of a binning thread as its S syllable read them, before the bundle (R77). -/
structure Before where
  r : Tbl Word
  p : BitVec 32
  fmode : Word
  vshape : Word
  vcarry : Word
  vec : VecFile
  deriving DecidableEq, Repr

/-- A scalar syllable to execute again, alone (R322, R352): on a thread with the registers it read, and the registers that
the V syllable of its bundle has written (R77). -/
structure Redo where
  addr : Word            -- its bundle
  instr : Instr
  before : Option Before := none
  vDests : List Nat := []
  deriving DecidableEq, Repr

/-! ### Memory side (13 to 15) -/

/-- A 128-byte line of local HBM at its home slice (R371, R373, R385). -/
structure Line where
  resident : Bool := false
  way : Nat := 0                                 -- its way while it is resident
  stamp : Nat := 0                               -- order of last use
  old : Tbl (BitVec 256 × BitVec 4) := []        -- per modified atom: the data and tags HBM still holds
  holders : List Nat := []                       -- launches that pin it; 2^40 + d the residency holder of die d (R373, R443)
  held : Bool := false
  deriving DecidableEq, Repr

/-- The bytes of a word that a context has stored and that are not registered (R391, R392). -/
structure L1Pend where
  g : Gtid
  mask : BitVec 8
  data : Word
  va : Word := 0                                 -- of the latest store, for the record of a registration that fails
  redo : Option Redo := none
  noalloc : Bool := false
  deriving DecidableEq, Repr

/-- A word in a row's L1D (R391, R392): an unowned copy, pending bytes by context, oldest first, or owned. -/
structure L1Word where
  copy : Option Word := none
  pend : List L1Pend := []
  owner : Gtid := 0                              -- context the ownership belongs to
  owned : Bool := false
  deriving DecidableEq, Repr

/-- A leaf translation in a TLB (R416). -/
structure TlbEntry where
  asid : Nat
  big : Bool                                     -- a level 1 leaf, 256 MiB
  page : Nat                                     -- virtual page number
  w0 : Word
  w1 : Word
  deriving DecidableEq, Repr

/-- The atomic operations (R138). -/
inductive AmoOp where
  | fadd | swap | cas | min | max | minu | maxu | and | or | xor
  deriving DecidableEq, Repr

/-- The tagged instructions (R145). -/
inductive TagOp where
  | ldfe | ldff | stef | stff | sete | setf
  deriving DecidableEq, Repr

/-- What a request does at its home (R372). -/
inductive HomeOp where
  | read
  | write (v : Word)
  | amo (op : AmoOp) (v cmp : Word)
  | tagged (op : TagOp) (v : Word)
  | binapp (r0 r1 : Word)
  | binclr (set : Bool) (hdr : Word)
  deriving DecidableEq, Repr

/-- Whom a request answers: a task's access (its part `k`), an XAMO of a die's exchange engine, or a peer's message by source
and sequence number. -/
inductive Origin where
  | task (g : Gtid) (k : Nat)
  | xamo (op : Nat)
  | peer (die src : Nat) (seq : BitVec 32)
  deriving DecidableEq, Repr

/-- A further word of an access within one line: part `k` of the access (R132, R323). -/
structure Tail where
  k : Nat
  pa : Nat
  bytes : Nat
  op : HomeOp
  deriving DecidableEq, Repr

/-- A way through the network of one die, from station to station (R369, R471). -/
structure Leg where
  die : Nat
  src : Nat
  dst : Nat
  deriving DecidableEq, Repr

/-- A request to a home: within one aligned word (R323), with the words of its access in the same line (R132). -/
structure Req where
  org : Origin
  pa : Nat
  bytes : Nat
  op : HomeOp
  parks : Bool := true                           -- the task waits for the reply (R324)
  noalloc : Bool := false
  va : Word := 0
  redo : Option Redo := none                     -- the syllable, for a repeat after MEMUE (R322)
  mates : List Nat := []                         -- the other words of a store: nothing of it is written if one is bad (R133)
  tail : List Tail := []                         -- further words of the access in the same line: they perform with it (R132)
  id : Nat := 0                                  -- of a combined FADD (R377)
  legs : List Leg := []                          -- ways still to go, the present one first
  back : List Leg := []                          -- ways gone, the latest first: the reply retraces them (R471)
  since : Nat := 0                               -- cycle in which it came to where it stands in the network
  deriving DecidableEq, Repr

/-- What a request met at its home. -/
inductive HomeRes where
  | val (w : Word)
  | ue (pa : Nat) (syn : Word)                   -- MEMUE, with the syndrome
  | bad (code : Nat)                             -- a fault found at the home (R340)
  deriving DecidableEq, Repr

/-- A reply on its way back through the networks (R375, R471). -/
structure Rep where
  req : Req
  res : HomeRes
  tail : List HomeRes := []                      -- of the request's further words
  legs : List Leg                                -- ways still to go back, the present one first
  since : Nat := 0
  deriving DecidableEq, Repr

/-- An entry of a switch's combining table: the two requests that one request stands for (R377). -/
structure Comb where
  id : Nat
  r0 : Req
  r1 : Req
  deriving DecidableEq, Repr

/-- The omega network of a die (R369, R375 to R377): what its stations have still to send, the buffers of the two virtual
channels, the turns of the outputs, the combining tables. -/
structure Net where
  out0 : Tbl (List Req) := []                    -- requests a station has still to send
  out1 : Tbl (List Rep) := []
  fwd : Tbl (List Req) := []                     -- VC 0: by 64 stage + position before the switch, oldest first
  rev : Tbl (List Rep) := []                     -- VC 1: by 64 stage + position behind the switch
  turn0 : Tbl Bool := []                         -- an output serves input 1 next, by 64 stage + position behind the switch
  turn1 : Tbl Bool := []                         -- for replies, by 64 stage + position before the switch
  comb : Tbl (List Comb) := []                   -- by 32 stage + switch, at most 16 each
  deriving DecidableEq, Repr

/-- A message on a bridge and the cycle in which it reaches the other side (R470). -/
structure Crossing where
  due : Nat
  msg : Req ⊕ Rep
  deriving DecidableEq, Repr

/-- A reply on its way to a task (R326). -/
structure Reply where
  gtid : Gtid
  part : Nat
  parks : Bool
  res : HomeRes
  va : Word := 0
  redo : Option Redo := none
  deriving DecidableEq, Repr

/-- An element of a converting load: its place in memory, its page's format and geometry, and the bit of the loaded value
where it starts (R217). -/
structure ConvElem where
  pa : Nat
  hi : Bool
  fmt : Nat
  geo : Nat
  bit : Nat
  deriving DecidableEq, Repr

/-- Where the value of an access goes. -/
inductive MemDest where
  | none
  | int (d : BitVec 6) (bytes : Nat) (sx : Bool)
  | vec (d : Nat)                                -- consecutive register bytes (R215, LDV)
  | vecT (d rows cols ebits : Nat)               -- transposed (R215, LDVT)
  | conv (d : Nat) (transposed : Bool) (rows cols fmt : Nat) (elems : List ConvElem)  -- R217: `fmt` is vshape.FMT at issue
  | got (va : Word) (len : Nat)                  -- words of a descriptor, for the syllable executed again (R429, R570)
  deriving DecidableEq, Repr

/-- The access a task waits for: the parts that have answered, in order of address. -/
structure MemOp where
  dest : MemDest
  parts : List (Nat × Option Word)               -- bytes of the part, its value
  acquire : Bool := false
  va : Word := 0
  vas : List Word := []                          -- by part: the access's lowest address on the part's page (R133)
  isWrite : Bool := false
  redo : Redo                                    -- the syllable, for a repeat after MEMUE (R322)
  deriving DecidableEq, Repr

/-- A location the error tracker follows (R386). -/
structure Track where
  array : Nat
  sub : Nat
  loc : Nat
  start : Word
  count : Nat
  deriving DecidableEq, Repr

/-! ### Fabric (23) -/

/-- What became of a message its sender waits for. -/
inductive Answer where
  | acked
  | bad                                          -- performed with a failed write (R529, KIND 1)
  | failed                                       -- the destination is marked failed (R530)
  | reply (m : Msg)
  deriving DecidableEq, Repr


/-- What a message does for its sender when it is answered, acknowledged or lost. -/
inductive Purpose where
  | none
  | part (g : Gtid) (k : Nat)                    -- a remote load, atomic or release write of a task
  | store (g : Gtid) (va : Word)                 -- a plain remote store, SETE or SETF that does not park (R324, R530)
  | put (op peer : Nat)
  | get (op k : Nat) (va : Word) (n : Nat)       -- a request of a get or a combine: its place, its address and bytes
  | xamo (op : Nat)
  | permit (g : Gtid)
  | disp (g : Gtid)
  | flush (op : Nat)
  deriving DecidableEq, Repr

/-- A sequenced message without acknowledgement (R528, R529). -/
structure Sent where
  msg : Msg
  die : Nat                                      -- the die whose engine sent it
  why : Purpose
  seq64 : Nat := 0
  sentAt : Word := 0                             -- DCC of the last sending
  count : Nat := 1                               -- sendings
  psel : Nat := 0
  asks : Bool := false                           -- a reply answers it (R531)
  out : Bool := false                            -- it has left by a path
  fallback : Bool := false                       -- sent unreduced on the fallback paths (R551)
  deriving DecidableEq, Repr

/-- The sending side of a pair of devices (R528 to R530). -/
structure PairTx where
  next : Nat := 0
  unacked : List Sent := []
  waiting : List Sent := []                      -- beyond 4,096 unacknowledged, or behind a store to their line (R532)
  failed : Bool := false
  turn : Nat := 0                                -- path turn (R527)
  expects : List (BitVec 32 × Purpose) := []     -- requests whose reply has not come (R531)
  confirms : List (BitVec 32) := []              -- replies whose receipt the next acknowledgement confirms (R531)
  deriving DecidableEq, Repr

/-- The receiving side of a pair of devices (R528, R529). -/
structure PairRx where
  base : Nat := 0
  got : List Nat := []                           -- performed sequence counts at or above the base
  unacked : Nat := 0                             -- performed since the last acknowledgement
  since : Word := 0                              -- DCC of the first of them
  bad : List (BitVec 32) := []                   -- messages performed with a failed write (R529)
  deriving DecidableEq, Repr

/-- An entry of a die's replay cache (R531). -/
structure CachedReply where
  src : Nat
  seq : BitVec 32
  reply : Option Msg                             -- none while a tagged wait has no reply
  deriving DecidableEq, Repr

/-- A link port (R523 to R525). -/
structure Port where
  fseq : Nat := 0                                -- next link sequence to send
  replay : List (List Byte) := []                -- flits sent and not covered by FACK, oldest first
  queue : List (List Byte) := []                 -- flits without credit or room, oldest first
  credits : Tbl Nat := []                        -- per VC; unlisted holds 64
  expect : Nat := 0                              -- next link sequence to receive
  nak : Bool := false                            -- the other side asks for a replay
  replays : Nat := 0                             -- replays without an advance of FACK
  lastFack : Word := 0                           -- DCC of the last advance
  parts : Tbl (List Byte) := []                  -- bytes of the message under way, per VC
  deriving DecidableEq, Repr

/-- A release whose flush markers are under way at the receiver (R533). -/
structure Flush where
  src : Nat
  tag : Word
  got : Nat := 0
  x : Bool := false                              -- of XFLUSH: later operations wait behind it (R568)
  first : Nat := 0                               -- sequence count of the first marker received
  deriving DecidableEq, Repr

/-- The fabric side of the module. -/
structure Fabric where
  tx : Tbl PairTx := []                          -- by peer device
  rx : Tbl PairRx := []
  cache : Tbl (List CachedReply) := []           -- by die, at most 4,096 each
  ports : Tbl Port := []                         -- link ports 0 to 31
  wire : List (Nat × Msg) := []                  -- messages that have left, by port, latest first
  flushes : List Flush := []
  held : List Msg := []                          -- release writes, and operations behind them, that wait (R533, R568)
  relTag : Nat := 0                              -- next release tag
  answers : List (Nat × Purpose × Answer) := []   -- by device, still to be acted on
  slew : Int := 0                                -- rate of the DCC against its clock, parts per million (R538)
  deriving DecidableEq, Repr

/-! ### The exchange engine of a die (24) -/

/-- A send descriptor (R546, R547), its fields apart. -/
structure Send where
  dva : Word := 0
  src : Word := 0
  len : Nat := 0
  ssp : Bool := false
  sum : Bool := false
  fmt : Nat := 0
  npeer : Nat := 1
  psel : Nat := 0
  pstr : Nat := 0
  rce : Bool := false
  rcn : Nat := 0
  lce : Bool := false
  lcn : Nat := 0
  deriving DecidableEq, Repr

/-- A fault record raised and kept by its unit until it is posted (R54 to R56, R422). -/
structure FaultRec where
  die : Nat
  gtid : Gtid
  dcc : Word
  code : Nat
  unit : Nat
  core : Nat             -- the CORE field (R580)
  va : Word := 0
  detail : Word := 0
  bundle : Word := 0
  frame : Word := 0      -- word 6: the core fault frame, or 0
  row : Option Nat := none  -- the matrix core whose block of the frame the record updates
  restart : Bool := false
  write : Bool := false
  more : Bool := false
  noframe : Bool := false
  kind : Nat := 1
  seqNo : Nat := 0
  xop : Option Nat := none  -- the exchange operation that waits for firmware (R543)
  cycle : Nat := 0       -- the cycle in which it was raised (R59)
  wakes : Bool := false  -- a translation fault of a thread, which a wake message ends (R335)
  fresh : Bool := false  -- the first record of a freeze: its post writes the frame anew (R311)
  deriving DecidableEq, Repr

/-! ### The Collator of a die (16) -/

/-- A token the Collator buffers: the scores it has, by expert (R430, R431). -/
structure Token where
  t : Nat
  scores : Tbl (BitVec 32) := []                 -- a score of zero is listed under `seen` only
  seen : List Nat := []                          -- first experts of the blocks received, 32 each
  deriving DecidableEq, Repr

/-- A record still to be written: its virtual address and words (R437). -/
structure Record where
  va : Word
  w0 : Word
  w1 : Word
  last : Bool                                    -- the last record of its token
  due : Nat                                      -- no earlier than this cycle (R438)
  deriving DecidableEq, Repr

/-- A route (R428). -/
structure Route where
  launch : Nat
  gtid : Gtid
  e : Nat
  k : Nat
  a : Nat
  mode : Nat
  wb : Bool
  lb : Nat
  mask : Nat
  t0 : Nat
  n : Nat
  donew : Word
  bit : Nat                                      -- GROUPS bit of its task's unit (R415)
  asid : Nat
  root : Nat
  rbase : List Word
  bias : List (BitVec 32)
  tokens : List Token := []                      -- incomplete, in order of first row
  out : List Record := []                        -- of complete tokens, in order
  finished : List Nat := []                      -- tokens complete or written
  emit : Nat := 0
  disc : Nat := 0
  ovr : Bool := false
  fault : Bool := false
  cancelled : Bool := false                      -- only its done word is still to be written
  nextTok : Nat := 0                             -- no token's first record before this cycle (R438)
  deriving DecidableEq, Repr

/-- What RSTAT still tells of the last route ended (R440). -/
structure RouteEnd where
  launch : Nat
  emit : Nat
  disc : Nat
  ovr : Bool
  deriving DecidableEq, Repr

/-- The Collator of a die. -/
structure Collator where
  active : Option Route := none
  ended : Option RouteEnd := none
  saved : List Route := []
  hintSeq : Nat := 0                             -- R446
  rowAt : Nat := 0                               -- one more than the cycle of the last row accepted (R430)
  pins : Tbl (List Nat) := []                    -- lines pinned for an active expert with RES 1, by expert (R443)
  deriving DecidableEq, Repr

/-! ### Launches (17) -/

/-- A declaration of a gang (R451). -/
structure Decl where
  binning : Bool
  mode : Nat                                     -- 2, 4, 8 or 16
  count : Nat
  entry : Word
  schedVa : Word                                 -- its schedule table
  schedLen : Nat
  deriving DecidableEq, Repr

/-- Where a gang stands (R42, R456, R461). -/
inductive GangState where
  | queued | bound | started | saving | out | ended
  deriving DecidableEq, Repr

/-- A gang of a launch. -/
structure Gang where
  decls : List Decl
  routes : Word := 0                             -- VA of the route-table image, or 0
  tiles : Word := 0
  st : GangState := .queued
  ts : Word := 0                                 -- start tick (R456)
  queuedAt : Word := 0
  passed : Option Word := none                   -- R457: when a later launch was first bound before it
  tasks : List Gtid := []
  ran : Bool := false                            -- it has started once
  routeDies : List Nat := []                     -- dies of its saved routes (R439)
  rowsOn : List (Gtid × Nat) := []               -- row tasks bound there when it was saved, with the die (R462)
  deriving DecidableEq, Repr

/-- An accepted launch (R449 to R451). -/
structure Launch where
  serial : Nat
  cls : Nat
  filler : Bool
  asid : Nat
  root : Nat
  quota : Nat
  wdog : Word
  after : List (Nat × Nat)
  done : Option Nat
  args : List Word
  scratch : Word
  scratchLen : Nat
  spFirst : Nat
  spCount : Nat
  ring : Nat
  slot : Nat
  gangs : List Gang
  nextIndex : Nat
  queuedAt : Word
  status : Nat := 0
  aged : Bool := false                           -- a background launch that counts as normal (R457)
  credited : Bool := false                       -- complete, its counter credited
  deriving DecidableEq, Repr

/-- A completion record to be posted (R453). -/
structure Completion where
  ring : Nat
  slot : Nat
  serial : Nat
  status : Nat
  reason : Nat
  dcc : Word
  deriving DecidableEq, Repr

/-- What firmware and dispatch hold of the module's work. -/
structure Sched where
  serial : Nat := 0                              -- last serial assigned (R21)
  launches : Tbl (Option Launch) := []           -- by serial
  turn : Nat := 0                                -- next ring of the turn (R449)
  modes : Tbl Nat := []                          -- thread-count mode of each die's cluster; unlisted 16
  inbox : Tbl (List Gtid) := []                  -- packets at a BC's inbox, by 16 die + BC (R331)
  spawns : Tbl (List Gtid) := []                 -- spawned tasks that wait for a slot, by die (R339)
  roots : Tbl Nat := []                          -- root table of an address space, from the last launch accepted in it
  completions : List Completion := []
  faultSeq : Tbl Nat := []                       -- next fault queue sequence number, by die (R55)
  events : Tbl (List FaultRec) := []             -- records to forward to the event ring, by die (R447)
  deriving DecidableEq, Repr

/-! ### The task context (01_task) -/

/-- The states of a task (R41); `absent` where no task has the identifier. -/
inductive TaskState where
  | absent | queued | bound | running | waiting | parked | frozen | preempted | retired
  deriving DecidableEq, Repr

/-- What holds a task (R41 to R43): each cause is cleared by its own event. -/
inductive Cause where
  | fault                -- a fault, until firmware resumes (R58)
  | watchdog             -- a watchdog expiry (R44)
  | halt                 -- a debug halt (R513)
  | hold                 -- an unsatisfied hold of the row under which the task waits (R349)
  | stall                -- an unsatisfied hold of the row under which the task is running (R349)
  | port                 -- a hold of the row for scratchpad arbitration alone: the task is running (R277, R349)
  | reply                -- replies of a binning thread's requests (R324)
  | fetch                -- a fetch of a binning thread that missed (R319)
  | tag                  -- a tagged wait at the home (R147)
  | sysc                 -- a SYSC without its reply (R152)
  | status               -- an XRESV, XDISP, XCOMB or ROUTE without its status (R570)
  | release              -- a release that has not completed (R136)
  | migration            -- a migration under way (R331)
  | translation          -- a translation fault of a binning thread, until a wake message (R335)
  | ended                -- its gang has been ended, and its stores are still to perform (R48, R49)
  deriving DecidableEq, Repr

/-- Where a task's context stands (R19, R312, R331). -/
inductive Place where
  | none
  | row (die row : Nat) (filler : Bool)
  | bc (die bc slot : Nat)
  | inbox (die bc : Nat)
  deriving DecidableEq, Repr

/-- A hardware loop level (R126, R356). -/
structure HwLoop where
  ls : Word := 0
  le : Word := 0
  lc : Word := 0
  act : Bool := false
  deriving DecidableEq, Repr

/-- The kinds of CSR write (R149). -/
inductive CsrOp where
  | write | set | clear
  deriving DecidableEq, Repr

/-- A share CSR write carried by a bundle to its cores (R151). -/
structure CsrWrite where
  core : Nat
  all : Bool
  num : Nat
  op : CsrOp
  val : Word
  deriving DecidableEq, Repr

/-- An entry of the wavefront buffer (R345). -/
structure WaveEntry where
  idx : Nat              -- bundle index in order of issue (R347)
  addr : Word            -- address of the bundle
  m : Word
  v : Word
  e : Word
  issued : Nat           -- row cycle of issue; the age is the row cycle less this
  carried : Tbl Word     -- s registers that its per-core syllables read
  csr : List CsrWrite
  done : BitVec 8        -- the cores that have executed it
  deriving DecidableEq, Repr

/-- A bundle the fetch unit holds (R78): its address and its words. -/
structure Fetched where
  addr : Word
  w0 : Word
  w1 : Word
  w2 : Word
  w3 : Word
  deriving DecidableEq, Repr

/-- vshape FP32, 1 row of 256 columns: the reset value on a matrix core and in the Spine (R33). -/
def vshapeRow : Word := 0x02100001

/-- vshape FP32, 1 row of 64 columns: the reset value on a binning core (R33). -/
def vshapeBc : Word := 0x02040001

/-- A task: its context and what the scheduler knows of it. A row task's per-core state is in its eight shares. -/
structure Task where
  st : TaskState := .absent
  causes : List Cause := []
  exitStatus : Nat := 0                -- R48
  isRow : Bool := true
  isFiller : Bool := false             -- the task is of the filler class and uses the filler context (R19)
  gaveBank : Bool := false             -- a primary whose launch enables filler use (R30)
  place : Place := .none
  lastPlace : Place := .none           -- the slot a task out of its slot has left
  launch : Nat := 0                    -- serial of the launch
  gang : Nat := 0
  decl : Nat := 0                      -- its declaration in the gang (R451)
  asid : Nat := 0                      -- R409
  root : Nat := 0                      -- root table of the address space (R409)
  startTick : Word := 0                -- TS of the slot record (R454)
  r : Tbl Word := []                   -- s0 to s63 or x0 to x31
  p : BitVec 32 := 1                   -- p0 reads 1 (R27)
  fmode : Word := 0
  vshape : Word := vshapeRow
  vcarry : Word := 0
  vec : VecFile := {}                  -- of a binning thread
  bcMode : Nat := 16                   -- thread-count mode (R312)
  pc : Word := 0
  nextPc : Option Word := none         -- target chosen by the bundle that executes
  fetched : Option Fetched := none
  redo : List Redo := []               -- scalar syllables to execute again, alone, in order (R322, R352)
  exited : Bool := false               -- EXIT has issued (R45, R46)
  loops : Tbl HwLoop := []
  sched : List Word := []              -- schedule table (R357)
  schcur : Nat := 0
  memOp : Option MemOp := none         -- the access the task waits for (R134, R324)
  ending : Nat := 0                    -- the status of a retirement that waits for its stores (R48, R49)
  retry : Option Redo := none          -- a syllable that waits for earlier stores, to execute when they are done (R136)
  remoteOut : Tbl Nat := []            -- remote stores without acknowledgement, by device (R404)
  migTo : Option Nat := none           -- the BC whose tile memory the next bundle needs (R330)
  remoteFail : Option (Word × Word) := none  -- a remote store has failed: word 4 of its record, its address (R530)
  got : List (Word × Nat × Nat) := []  -- words of a descriptor that have come: address, bytes, value (R570)
  thresh : Nat := 4096                 -- fillcfg (R39)
  fillOn : Bool := false
  fillActive : Bool := false
  wave : List WaveEntry := []          -- oldest first
  rowCycle : Nat := 0                  -- advancing cycles of the context (R343)
  issueAt : Nat := 0                   -- least row cycle of the next issue (R344)
  bundleIdx : Nat := 0
  catchUp : BitVec 8 := 0              -- R354
  yielding : Nat := 0                  -- consecutive yielding frozen cycles (R359)
  readyAt : Nat := 0                   -- least cycle of a thread's next issue (R316)
  migAt : Nat := 0                     -- cycle in which the thread left the rotation to migrate (R333)
  slotRec : List Word := []            -- its bind record (R454)
  lastIssue : Nat := 0                 -- R318: 0 before the first issue
  unacked : Nat := 0                   -- R324
  frame : List (Nat × Raised) := []    -- faults of the present freeze by core, 8 for the Spine (R309 to R311)
  frameAt : Word := 0                  -- DCC stamp of the faulting cycle (R309)
  frozeAt : Nat := 0                   -- the cycle of the freeze (R354)
  wdLimit : Word := 0
  wdCount : Word := 0
  waitCycles : Nat := 0                -- consecutive cycles of a filler's hold (R361)
  stepping : Bool := false             -- halts again once it has issued a bundle (R514)
  brkPast : Bool := false              -- the bundle it issues next has been halted at (R513)
  deriving DecidableEq, Repr

/-! ### The share of a row task on one core (05 to 08) -/

/-- A triangular register (R253). -/
structure TriReg where
  w : Tbl Word := []
  e : Tbl (BitVec 16) := []
  gn : Tbl (BitVec 16) := []
  status : Word := 0
  deriving DecidableEq, Repr

/-- A weight plane (R219 to R222). -/
structure Plane where
  w : Tbl (BitVec 8192) := []          -- 32 weight rows of 1,024 bytes
  metaRows : Tbl (BitVec 4096) := []   -- sparse metadata of each row
  scale : Tbl Byte := []               -- block scales
  fmt : Nat := 2
  sp : Bool := false
  geo : Nat := 0
  band : BitVec 16 := 0x3F80
  deriving DecidableEq, Repr

/-- The streaming port's configuration (R229). -/
structure PortCfg where
  kind : Nat := 0
  ofmt : Nat := 2
  acc : Bool := false
  base : Word := 0
  stride : Nat := 128
  tile : Nat := 0
  expert : Nat := 0
  scale : BitVec 32 := 0x3F800000
  deriving DecidableEq, Repr

/-- The syllables of the engines MX, QR, CP and XE. -/
inductive EngOp where
  | mldb | mswap | mring | mma | mmas | gmma | mzero | mdrain | mstream
  | qcfg | qtri | qapply | qang | qrot | qsolve | qgain | qldt | qstt
  | cp | cpg | cps | cpd | cpf | cpw | cpq | arrv | waitb
  | xput | xget | xamo | xsend | xtrig | xcntRead | xcntSet | xcntAdd | xcntErr | xtile | xtileFire | xrt | xflush | xwait
  deriving DecidableEq, Repr

/-- An engine syllable a core has executed, with the operands captured then (R241, R264, R292, R562). -/
structure Cmd where
  op : EngOp
  f : FmtE
  addr : Word                          -- bundle that held it
  a : Word := 0
  b : Word := 0
  c : Word := 0
  time : Word := 0                     -- issue time (R292)
  qcfg : Word := 0                     -- R256
  shape : List Word := []              -- the copy's shape set and cpdpat (R285, R298)
  seq : Nat := 0                       -- order of execution on the share
  id : BitVec 32 := 0                  -- a copy's identifier (R292)
  deriving DecidableEq, Repr

/-- The kinds of operation an exchange engine holds. -/
inductive XKind where
  | desc (cmd : Cmd)                             -- a syllable whose descriptor is still to be read
  | put                                          -- XPUT, XSEND, a trigger or tile-table entry
  | get (dsp : Bool)
  | amo (op : AmoOp) (w32 : Bool) (v cmp : Word) (d : BitVec 6)
  | disp (hdr : Word) (words : List Word)        -- XDISP: its bin and its descriptor
  | comb (words : List Word)                     -- XCOMB: its descriptor
  deriving DecidableEq, Repr

/-- What started an operation. -/
inductive XSource where
  | port | tile | trigger | xsc
  deriving DecidableEq, Repr

/-- A peer of an operation: messages still unanswered, and whether it failed. -/
structure XPeer where
  left : Nat := 0
  failed : Bool := false
  deriving DecidableEq, Repr

/-- An operation that has started (R543, R548). -/
structure XOp where
  id : Nat                                       -- 4 n + die
  g : Gtid
  core : Nat                                     -- the share it acts for
  kind : XKind
  send : Send
  addr : Word := 0                               -- bundle of the syllable; 0 for a firing (R580)
  src : XSource := .port
  next : Nat := 0                                -- next peer, or next entry, to start
  peers : List XPeer := []
  stuck : Bool := false                          -- a fault waits for firmware (R543)
  dead : Bool := false                           -- the fault has RESTART 0
  data : List (Nat × List Byte) := []            -- replies not yet written, by part
  lost : List (Nat × Nat) := []                  -- requests of a get to send again on a resume: offset and bytes (R58)
  deriving DecidableEq, Repr

/-- The states of a trigger entry (R553). -/
inductive TrigState where
  | free | armed | fired
  deriving DecidableEq, Repr

/-- A trigger entry (R553). -/
structure Trigger where
  st : TrigState := .free
  desc : List Word := []
  ctr : Nat := 0
  thr : Word := 0
  g : Gtid := 0
  core : Nat := 0
  deriving DecidableEq, Repr

/-- Who asks for permits (R558). -/
structure PermitReq where
  org : Origin
  dev : Nat
  count : Nat
  step : BitVec 32
  deriving DecidableEq, Repr

/-- A permit entry (R557 to R559). -/
structure Permit where
  cap : Nat
  nsend : Nat
  win : Word
  step : BitVec 32
  since : Option Word := none                    -- DCC of the step's first request
  gathered : List PermitReq := []
  closed : Bool := false                         -- the grants of the step are made
  grants : List (Nat × Nat × Nat) := []          -- device, base, grant
  used : Nat := 0                                -- slots dispatched
  waiting : List PermitReq := []
  deriving DecidableEq, Repr

/-- An operation of a peer of which part has arrived (R548). -/
structure RxOp where
  src : Nat
  first : BitVec 32
  got : Nat := 0
  bad : Bool := false
  deriving DecidableEq, Repr

/-- The exchange engine of a die. -/
structure Xch where
  ctr : Tbl Word := []
  err : Tbl Bool := []
  trig : Tbl Trigger := []
  route : Tbl Word := []                         -- word w of entry e at 4 e + w (R554)
  tile : Tbl Word := []                          -- word w of entry i at 4 i + w (R556)
  permits : Tbl (Option Permit) := []
  ops : List XOp := []                           -- oldest first
  rxOps : List RxOp := []
  nextOp : Nat := 0
  deriving DecidableEq, Repr

/-- A push of an executed instruction, not yet performed: its order, the engine it goes to, whether the instruction has
retired (R306). -/
structure Due where
  seq : Nat
  dest : Nat
  retired : Bool
  deriving DecidableEq, Repr

/-- An entry of the copy engine's issue buffer (R292). -/
structure Copy where
  cmd : Cmd
  due : Bool := false                  -- chosen by its channel: it performs beats
  beat : Nat := 0                      -- next beat
  pos : Nat := 0                       -- nominal bytes its beats have covered
  deriving DecidableEq, Repr

/-- An engine instruction in progress: where it stands (R241, R265). -/
structure Running where
  cmd : Cmd
  phase : Nat := 3
  group : Nat := 0
  row : Nat := 0
  beat : Nat := 0
  last : Nat := 0                      -- GMMA: 1 and the last group whose tile is loaded; MRING: beats to receive
  own : Plane := {}                    -- MRING: the plane to send (R244)
  vals : List (Int × Int) := []        -- QSOLVE: the unknowns so far, each m × 2^e, the lowest row first (R272)
  pend : List (Nat × List (BitVec 32)) := [] -- rows that wait at the port, by index, with their scores (R231)
  due : Nat := 0                       -- QR: the cycle of the next step (R264, R269 to R274)
  deriving DecidableEq, Repr

/-- A result row on its way through the array to its tile or to the port (R233, R249). -/
structure FlyRow where
  cmd : Cmd
  due : Nat                            -- the cycle in which it is written
  row : Nat
  prec : Nat                           -- format code of its results (R227)
  out : Option Word := none            -- GMMA: its offset
  fire : List Nat := []                -- ready flags that follow it (R231), by group
  bad : Bool := false                  -- its write has faulted, and is still to be made (R240, R241)
  ys : List Nat
  deriving DecidableEq, Repr

/-- An angle word of QTRI still to be recorded (R269). -/
structure QrWord where
  cmd : Cmd
  due : Nat                            -- the last cycle of its cell's work on its row
  off : Word
  w : Word
  bad : Bool := false                  -- its write has faulted, and is still to be made (R265)
  deriving DecidableEq, Repr

/-- A plane beat on the eastward ring, with the attributes that travel with it (R244). -/
structure RingBeat where
  fmt : Nat
  sp : Bool
  geo : Nat
  band : BitVec 16
  idx : Nat
  data : Nat
  due : Nat                            -- the cycle in which it reaches the next core (R244)
  deriving DecidableEq, Repr

/-- The CSRs of a share as they stood before a bundle the core has executed, for reads of an earlier bundle (R151). -/
structure CsrPast where
  idx : Nat                            -- the bundle
  fmode : Word
  vshape : Word
  qcfg : Word
  cpShape : Tbl Word
  cpClip : Tbl Word
  cpdpat : Word
  ac : Tbl Word
  credits : Tbl Word                   -- what engines had added to the arrival counters until then
  deriving DecidableEq, Repr

/-- The state a row task holds on one matrix core. -/
structure Share where
  a : Tbl Word := []
  p : BitVec 32 := 1
  vec : VecFile := {}
  fmode : Word := 0
  vshape : Word := vshapeRow
  z : Tbl Word := []                   -- slot (z, row, col) at key 1024 z + 32 row + col (R227)
  t : Tbl TriReg := []
  qcfg : Word := 0x00444020            -- R255
  active : Plane := {}
  shadow : Plane := {}
  port : PortCfg := {}
  cpShape : Tbl Word := []             -- CSR 0x140 + key, clip words apart (R285)
  cpClip : Tbl Word := []              -- clip word of set k; unlisted reads all ones
  cpNext : Tbl (BitVec 32) := []
  cpdpat : Word := 0
  spfill : Word := 0
  ac : Tbl Word := []
  credits : Tbl Word := []             -- what engines have added to the arrival counters since bind (R151)
  past : List CsrPast := []            -- of the last 20 bundles, latest first (R151)
  copies : List Copy := []             -- issue buffer, oldest first
  cpTurn : Nat := 0                    -- channel that comes first in the rotation (R291)
  mxq : List Cmd := []
  qrq : List Cmd := []
  cpq : List Cmd := []
  xeq : List Cmd := []
  mxLoad : Option Running := none      -- load pipe (MPC1)
  mxComp : Option Running := none      -- compute pipe (MPC0)
  mxFin : List Running := []           -- streamed to the end, rows still to be written or at the port (R241, PHASE 4)
  mxFly : List FlyRow := []            -- rows in the array, oldest first (R233)
  loadFrom : Nat := 0                  -- no load into the shadow plane before this cycle (R236)
  ring : List RingBeat := []           -- plane beats from the western neighbour (R244)
  qrRun : Option Running := none
  qrFly : List QrWord := []            -- angle words of rows in the array
  tokens : Tbl Nat := []               -- queue from engine i to engine j at key 5 i + j (R305)
  dues : Tbl (List Due) := []          -- pushes not yet performed, by engine, in program order (R306)
  sentE : Tbl (List (Nat × Word)) := []  -- RPUT east by slot: bundle index and value, latest first (R347)
  sentW : Tbl (List (Nat × Word)) := []
  spm : Tbl Byte := []                 -- scratchpad
  nextIdx : Nat := 0                   -- index of the next bundle the core executes
  seq : Nat := 0                       -- engine syllables executed
  stopped : Bool := false              -- a fault has stopped the engines of the core (R308)
  stopAt : Nat := 0                    -- the cycle of that fault: what another engine does in it is done (R59)
  beatAt : Nat := 0                    -- the cycle of its latest copy beat, and its beats in that cycle (R291, R358)
  beatNo : Nat := 0
  usedAt : Tbl Nat := []               -- by pipe: one more than the cycle in which its engine last worked for this context (R358)
  deriving DecidableEq, Repr

/-! ### Security and loading (21) -/

/-- What module flash and fuses hold, and what the security processor adds; the key slots and the command counter stand at
their registers (R499). -/
structure Sec where
  copyA : Tbl (List Byte) := []                  -- images by KIND (R483)
  copyB : Tbl (List Byte) := []
  fromB : Tbl Bool := []                         -- KINDs whose running image is copy B
  minSvn : Tbl Nat := []                         -- fused minimum by KIND (R485)
  recovery : Bool := false
  ownerHash : BitVec 384 := 0                    -- R489
  actgen : Tbl Nat := []                         -- by slot (R489)
  badPages : Tbl Nat := []                       -- causes by frame (R424)
  tripLog : Nat := 0                             -- trips logged in flash (R510)
  repairs : List (Nat × Nat) := []               -- rows repaired, by die and row (R481)
  spares : List (Nat × Nat × Nat × Nat) := []    -- substitutions in force: die, kind, row, unit (R477)
  deriving DecidableEq, Repr

/-- A shard of a loading session (R492 to R496). -/
structure Shard where
  die : Nat
  res : Nat
  expert : Nat
  off : Nat
  len : Nat
  digest : BitVec 384
  st : Nat := 0                                  -- STATE: 0 pending, 1 verified, 2 corrupt, 3 missing
  tries : Nat := 0
  chunks : Nat := 0
  pieces : List (Nat × List Byte) := []          -- received, by offset
  deriving DecidableEq, Repr

/-- The open session of the loader (R493). -/
structure Session where
  num : Nat
  gen : Nat
  slot : Nat
  man : List Byte                                -- the manifest as read at LOAD
  shards : List Shard
  place : List (Nat × Word)                      -- PABASE and VABASE by die
  asid : Nat
  tab : Nat
  dead : Word
  start : Word
  deriving DecidableEq, Repr

/-- The loader. -/
structure Loader where
  session : Option Session := none
  last : Nat := 0                                -- number of the last session
  active : Tbl (List (Nat × Nat)) := []          -- physical ranges of the active generation, by slot
  deriving DecidableEq, Repr

/-! ### Power, debug, trace, and the two masters (22) -/

/-- The power limiter (R507 to R511). -/
structure Power where
  held : List (Nat × Nat) := []                  -- withheld kind (0 row, 1 BC, 2 engine) and class (R508)
  admitted : List Nat := []                      -- rows that take filler work (R509)
  filler : Nat := 0                              -- its power, milliwatts
  ballast : Nat := 0
  throttle : Option Nat := none                  -- the cap under thermal throttling (R510)
  cool : Nat := 0                                -- consecutive windows below the limit
  tripped : Bool := false
  energy : Nat := 0                              -- milliwatts times ticks since reset
  withheld : Nat := 0                            -- withheld issue cycles since the last telemetry record
  sideband : List (List Word) := []              -- telemetry records sent on the sideband session, latest first
  deriving DecidableEq, Repr

/-- A record of 32 bytes as a Press takes it (R515). -/
structure PressRec where
  w0 : Word
  gtid : Word
  dcc : Word
  payload : Word
  deriving DecidableEq, Repr

/-- The Press of a die (R515 to R517): its queue and the frame being built. -/
structure Press where
  queue : List PressRec := []
  body : List Byte := []                         -- payload of the frame so far
  count : Nat := 0                               -- its records
  first : Word := 0                              -- DCC of its first record
  prev : PressRec := ⟨0, 0, 0, 0⟩
  dict : List Word := []                         -- GTIDs by dictionary index
  dictNo : Nat := 0                              -- GTIDs appended in this frame
  seq : Nat := 0
  lostFrames : Nat := 0                          -- frames dropped since the last one posted
  lostRecs : Nat := 0                            -- records dropped at the queue since the last frame
  deriving DecidableEq, Repr

/-- What the module answers a master (R504, R536, R537). -/
inductive Answered where
  | reply (w : Caller) (status : Nat) (body : List Byte)
  | ack (qp psn : Nat)
  | data (qp psn : Nat) (bytes : List Byte)
  | nak (qp psn code : Nat)                      -- 0 invalid request, 1 remote access error
  deriving DecidableEq, Repr

/-- Debug, trace and counters. -/
structure Debug where
  ring : List (List Word) := []                  -- the debug ring, latest first (R513)
  press : Tbl Press := []                        -- by die
  flits : Tbl Nat := []                          -- flits sent in this interval, at 8 port + VC (R518)
  stalls : Tbl Nat := []                         -- cycles in which a flit waited, by the same key
  gridDrops : Tbl Nat := []                      -- by die of R519
  deriving DecidableEq, Repr

/-! ### What the model adds: the unit that executes, and the order of steps (log entries 1 and 2) -/

/-- The unit whose syllable runs. -/
inductive Agent where
  | none
  | spine (g : Gtid)
  | core (g : Gtid) (c : Nat)
  | bc (g : Gtid)
  deriving DecidableEq, Repr

/-- A syllable of the bundle that a unit executes, still to run. -/
structure Item where
  unit : Agent
  addr : Word            -- address of the bundle
  isV : Bool             -- the V position
  isE : Bool             -- the E position
  word : Word
  lit : Word
  instr : Option Instr := none   -- set for a syllable executed again, alone
  deriving DecidableEq, Repr

/-- A SYSC request that waits for the firmware's reply (R152, R459). -/
structure SyscReq where
  gtid : Gtid
  d : Option (BitVec 6)  -- none where the V syllable of the bundle wrote the register (R77)
  svc : Nat
  arg : Word
  deriving DecidableEq, Repr

/-- The state of the machine. -/
structure State where
  tasks : Tbl Task := []                         -- by GTID
  shares : Tbl Share := []                       -- by 8 GTID + core
  mem : List Host.Cell := []                     -- HBM and tile memory by physical address; unlisted bytes are zero
  tags : Tbl Bool := []                          -- full words by physical address; unlisted words are empty
  regs : Tbl Word := []                          -- control blocks by physical address
  lines : Tbl Line := []                         -- by physical address / 128
  lruClock : Nat := 0
  l1d : Tbl L1Word := []                         -- by 2^48 row + physical word address (rows 0 to 31)
  tlbs : Tbl (List TlbEntry) := []               -- by TLB, newest first
  queues : Tbl (List Req) := []                  -- request queues by home: slices (at most 64), tile memories
  bcQueues : Tbl (List Req) := []                -- requests a BC has still to send, by 16 die + BC (R323, R326)
  nets : Tbl Net := []                           -- by die
  bridges : List Crossing := []                  -- in order of arrival
  nextReq : Nat := 1                             -- next number of a combined request
  icache : Tbl (List (Nat × List Word)) := []    -- lines of code by physical line, latest first; row k, or BC k - 32 (R319, R342)
  waits : List Req := []                         -- wait tables, in order of arrival (R147, R381)
  replies : List Reply := []
  flips : Tbl Word := []                         -- bits flipped in a stored word by error injection (R387)
  trackers : Tbl (List Track) := []              -- by die, at most 256 each (R386)
  ringLost : Tbl Bool := []                      -- by die: records were lost to a full error ring (R387)
  slcLast : Tbl Nat := []                        -- by home: cycle to which qsum is summed (R388)
  slcClr : Tbl Nat := []                         -- by die: cycle of the last clear of the slice counters
  scrubAt : Tbl Nat := []                        -- by die: next atom the scrubber reads (R383)
  fab : Fabric := {}
  coll : Tbl Collator := []                      -- by die
  sched : Sched := {}
  xch : Tbl Xch := []                            -- by die
  bcVec : Tbl Nat := []                          -- by 16 die + BC: cycle from which the vector unit is free (R191)
  spBusy : Tbl Nat := []                         -- scratchpad ports: the cycle from which one is free (R275, R276)
  spClaims : Option (List Nat) := none           -- the bank rows that the access under way uses, where it contends (R276)
  bcDiv : Tbl Nat := []                          -- by 16 die + BC: cycle from which the divider is free (R317)
  vDests : List Nat := []                        -- registers written by the V syllable of a thread's bundle (R77)
  cur : Agent := .none
  curAddr : Word := 0
  curE : Bool := false                           -- the syllable that runs is of the E position
  curV : Bool := false
  snap : Option (Task × Share) := none           -- registers as they stood before the bundle (R77)
  carried : Tbl Word := []                       -- s values the bundle carries (R346)
  raised : List Raised := []
  flagAcc : Word := 0                            -- flags raised by the bundle that executes (R174)
  pending : List Item := []
  syscs : List SyscReq := []                     -- SYSC requests without reply
  faultPend : List FaultRec := []                -- raised, not yet posted
  faultOut : List FaultRec := []                 -- posted, not yet served by firmware
  faultHeld : List FaultRec := []                -- posted, not yet resumed (R58)
  sec : Sec := {}
  ldr : Loader := {}
  pow : Power := {}
  dbg : Debug := {}
  answered : List Answered := []                 -- latest first
  agenda : List Instr := []
  cycle : Nat := 0
  dcc : Word := 0
  dccAcc : Nat := 0                              -- part of a tick gone by, in parts of 7,000,000 (R5, R538)
  free : Nat := 0
  deriving DecidableEq, Repr

/-- The machine right after module reset: no task, memory zero, tags empty (R25, R379). -/
def State.reset : State := {}

end Sys2Proof.Machine
end

