-- ==== Sys2Proof/Machine/Table.lean ====
section
/-! DEFINITION. Sparse tables: reading, writing, and the canonical form (keys strictly rising, no entry equal to what an
unlisted key reads as). -/

namespace Sys2Proof.Machine

namespace Tbl

/-- The entry of a key. -/
def find? {α : Type} (t : Tbl α) (k : Nat) : Option α :=
  match t with
  | [] => none
  | (k', v) :: r => if k = k' then some v else find? r k

/-- The value of a key, `d` where it is not listed. -/
def get {α : Type} (d : α) (t : Tbl α) (k : Nat) : α := (find? t k).getD d

/-- Lists a key with a value. -/
def put {α : Type} (t : Tbl α) (k : Nat) (v : α) : Tbl α :=
  match t with
  | [] => [(k, v)]
  | (k', v') :: r => if k = k' then (k, v) :: r else if k < k' then (k, v) :: (k', v') :: r else (k', v') :: put r k v

/-- Removes a key. -/
def erase {α : Type} (t : Tbl α) (k : Nat) : Tbl α := t.filter fun e => e.1 ≠ k

/-- Sets the value of a key: an entry equal to `d` is not listed. -/
def set {α : Type} [DecidableEq α] (d : α) (t : Tbl α) (k : Nat) (v : α) : Tbl α :=
  if v = d then erase t k else put t k v

/-- Are all listed keys above `lo`, and strictly rising? -/
def above {α : Type} (lo : Nat) : Tbl α → Bool
  | [] => true
  | (k, _) :: r => lo < k && above k r

/-- Keys strictly rising. -/
def rising {α : Type} : Tbl α → Bool
  | [] => true
  | (k, _) :: r => above k r

/-- The canonical form of a table whose unlisted keys read `d`. -/
def wf {α : Type} [DecidableEq α] (d : α) (t : Tbl α) : Bool := rising t && t.all fun e => e.2 ≠ d

end Tbl

/-- The memory form: addresses strictly rising, no zero byte listed (unlisted bytes are zero, R327, R379). -/
def Memory.wf (m : List Host.Cell) : Bool := Tbl.wf (0 : Byte) m

end Sys2Proof.Machine
end

