-- ==== Sys2Proof/Machine/Ops.lean ====
section
/-! DEFINITION. The named operations over the state: tasks and shares, the registers of the unit that executes, the
effect of a guard, and how a syllable's fault is noted. -/

namespace Sys2Proof.Machine

/-- The answer of a meaning. -/
abbrev Out := Host.Outcome State Fault Refusal

/-! ### Tasks and shares -/

def State.task (s : State) (g : Gtid) : Task := Tbl.get {} s.tasks g.toNat

def State.setTask (s : State) (g : Gtid) (t : Task) : State := { s with tasks := Tbl.set {} s.tasks g.toNat t }

def State.modTask (s : State) (g : Gtid) (h : Task → Task) : State := s.setTask g (h (s.task g))

/-- The key of a share: its task's identifier and its core (R17). -/
def shareKey (g : Gtid) (c : Nat) : Nat := 8 * g.toNat + c % 8

def State.share (s : State) (g : Gtid) (c : Nat) : Share := Tbl.get {} s.shares (shareKey g c)

def State.setShare (s : State) (g : Gtid) (c : Nat) (h : Share) : State :=
  { s with shares := Tbl.set {} s.shares (shareKey g c) h }

def State.modShare (s : State) (g : Gtid) (c : Nat) (h : Share → Share) : State := s.setShare g c (h (s.share g c))

/-- A fresh free value (a value the spec leaves open). -/
def State.drawFree (s : State) : Word × State := (Config.freeWord s.free, { s with free := s.free + 1 })

/-- A step that hardware takes next. -/
def State.push (s : State) (i : Instr) : State := { s with agenda := s.agenda ++ [i] }

/-! ### The unit that executes -/

/-- The task whose syllable runs. -/
def State.curGtid (s : State) : Gtid :=
  match s.cur with
  | .none => 0
  | .spine g => g
  | .core g _ => g
  | .bc g => g

/-- The core of the share whose syllable runs. -/
def State.curCore (s : State) : Nat :=
  match s.cur with
  | .core _ c => c
  | _ => 0

/-- Does a matrix core execute? -/
def State.onCore (s : State) : Bool :=
  match s.cur with
  | .core _ _ => true
  | _ => false

/-- Does a binning thread execute? -/
def State.onBc (s : State) : Bool :=
  match s.cur with
  | .bc _ => true
  | _ => false

/-- The kind of the unit that executes. -/
def State.curUnit (s : State) : UnitKind :=
  match s.cur with
  | .core _ _ => .core
  | .bc g => .bc (256 / (s.task g).bcMode)
  | _ => .spine

/-- The task's context as the syllables of the bundle read it: as it stood before the bundle (R77). -/
def State.rdTask (s : State) : Task :=
  match s.snap with
  | some (t, _) => t
  | none => s.task s.curGtid

/-- The share as the syllables of the bundle read it (R77). -/
def State.rdShare (s : State) : Share :=
  match s.snap with
  | some (_, h) => h
  | none => s.share s.curGtid s.curCore

def State.modCurTask (s : State) (h : Task → Task) : State := s.modTask s.curGtid h

def State.modCurShare (s : State) (h : Share → Share) : State := s.modShare s.curGtid s.curCore h

/-! ### Integer registers and predicates -/

/-- Integer register `n` of the executing unit: s on the Spine, x on a binning core, a on a matrix core (R109, R110). -/
def State.rdInt (s : State) (n : BitVec 6) : Word :=
  if s.onCore then Tbl.get 0 s.rdShare.a n.toNat else Tbl.get 0 s.rdTask.r n.toNat

/-- The number under which a thread's VSHAPE notes that it has written vshape (R77). -/
def vshapeDest : Nat := 1000

/-- Writes it. On a binning core the V syllable's result prevails over the S syllable's, which executes after it (R77). -/
def State.wrInt (s : State) (n : BitVec 6) (v : Word) : State :=
  if s.onCore then s.modCurShare fun h => { h with a := Tbl.set 0 h.a n.toNat v }
  else if s.onBc && !s.curV && s.vDests.contains n.toNat then s
  else
    let s := if s.onBc && s.curV then { s with vDests := n.toNat :: s.vDests } else s
    s.modCurTask fun t => { t with r := Tbl.set 0 t.r n.toNat v }

/-- An s register read by a per-core syllable: the value the bundle carries (R63, R346). -/
def State.rdCarried (s : State) (n : BitVec 6) : Word := Tbl.get 0 s.carried n.toNat

/-- The predicate file of the executing unit (R26), p0 reading 1 (R27). -/
def State.predFile (s : State) : BitVec 32 := (if s.onCore then s.rdShare.p else s.rdTask.p) ||| 1

def State.rdPred (s : State) (n : Nat) : Bool := s.predFile.getLsbD n

/-- A predicate file with predicate `n` set to `b`; p0 stays 1 (R27). -/
def setPred (p : BitVec 32) (n : Nat) (b : Bool) : BitVec 32 :=
  (if b then p ||| BitVec.twoPow 32 n else p &&& ~~~(BitVec.twoPow 32 n)) ||| 1

def State.wrPred (s : State) (n : Nat) (b : Bool) : State :=
  if s.onCore then s.modCurShare fun h => { h with p := setPred h.p n b }
  else s.modCurTask fun t => { t with p := setPred t.p n b }

/-! ### Guard and faults of a syllable -/

/-- R61: does the guard let the syllable execute? -/
def State.guardTrue (s : State) (g : Guard) : Bool := s.rdPred g.gp.toNat != g.gs

/-- R61: a syllable whose guard is false has no effect. -/
def State.guarded (s : State) (g : Guard) (h : State → State) : Out := .next (if s.guardTrue g then h s else s)

/-- The UNIT of a fault of the running syllable (R580): by unit and position; for the E position, by major. -/
def State.syllUnit (s : State) (eUnit : Nat) : Nat :=
  match s.cur with
  | .core _ _ => if s.curE then eUnit else if s.curV then 2 else 1
  | .bc _ => if s.curV then 7 else 6
  | _ => 0

/-- R91, `fault(name)`: the running syllable raises a fault and has no further effect. The bundle's end takes what its
syllables raised (R59, R351, R352, R322). -/
def State.raise (s : State) (r : Raised) : State := { s with raised := s.raised ++ [r] }

/-- A fault of the running syllable that carries no address. -/
def State.raiseCode (s : State) (eUnit code : Nat) : State := s.raise { unit := s.syllUnit eUnit, code := code }

end Sys2Proof.Machine
end

