-- ==== Sys2Proof/Machine/Regs.lean ====
section
/-! DEFINITION. The control blocks (R387, R420, R441, R447, R448, R472, R473, R477, R499, R500, R502, R506, R512 to R520,
R539): where each register stands, its reset value and its access code (R11), and the generic read and write. A register
whose write starts something is written by the step `REGISTER_WRITE`, which calls these. -/

namespace Sys2Proof.Machine

/-- A register of a control block: reset value, the bits a write sets, and what a read or a write does besides. -/
structure RegSpec where
  reset : Word := 0
  rw : Word := BitVec.allOnes 64
  rc : Bool := false          -- a read clears it (R11, RC)
  mOnly : Bool := false       -- host writes are ignored (R503)
  deriving DecidableEq, Repr

/-- Physical address of a compute-die register (R472, window 0x02). -/
def dieReg (die blk off : Nat) : Nat := 2 * 2 ^ 40 + die % 4 * 2 ^ 38 + blk * 2 ^ 24 + off

/-- Physical address of an I/O-die register (R472, window 0x03); side 0 north, 1 south. -/
def ioReg (side blk off : Nat) : Nat := 3 * 2 ^ 40 + side % 2 * 2 ^ 38 + blk * 2 ^ 24 + off

def roReg : RegSpec := { rw := 0 }
def rcReg : RegSpec := { rw := 0, rc := true }

/-- Block 0 of a compute die (R387, R388, R420). -/
def memBlockSpec (off : Nat) : Option RegSpec :=
  match off with
  | 0x0000 => some { reset := 0x8000000000000000, rw := 0x3 }        -- slcmd
  | 0x0008 => some {}                                                -- slcbase
  | 0x0010 => some {}                                                -- slclen
  | 0x0020 => some { reset := 0x3B9ACA00 }                           -- ewin
  | 0x0028 => some { reset := 3, rw := 0xFF }                        -- ethr
  | 0x0030 => some rcReg                                             -- trkovf
  | 0x0038 => some {}                                                -- scrub
  | 0x0040 => some {}                                                -- erbase
  | 0x0048 => some {}                                                -- ersize
  | 0x0050 => some roReg                                             -- erhead
  | 0x0058 => some {}                                                -- ertail
  | 0x0080 => some { rw := 0xCFFFFFFFFFFFFFFF }                      -- einj
  | 0x0088 => some {}                                                -- einjmask
  | 0x8000 => some { reset := 0x8000000000000000, rw := 0x3 }        -- tlbcmd
  | 0x8008 => some { rw := 0xFFFF }                                  -- tlbasid
  | 0x8010 => some {}                                                -- tlbva
  | 0x8018 => some {}                                                -- tlblen
  | 0x8040 => some {}                                                -- fqbase
  | 0x8048 => some {}                                                -- fqsize
  | 0x8050 => some roReg                                             -- fqhead
  | 0x8058 => some {}                                                -- fqtail
  | 0x8060 => some {}                                                -- pool
  | 0x8068 => some {}                                                -- poolsize
  | 0x8070 => some roReg                                             -- poolhead
  | 0x8078 => some {}                                                -- pooltail
  | 0x8080 => some {}                                                -- faq
  | 0x8088 => some {}                                                -- faqsize
  | 0x8090 => some roReg                                             -- faqhead
  | 0x8098 => some {}                                                -- faqtail
  | 0x80A0 => some rcReg                                             -- faqdrop
  | 0x80A8 => some roReg                                             -- walks
  | 0x80B0 => some {}                                                -- frbase
  | 0x10800 => some { rw := 0 }                                      -- slcclr
  | off =>
    if off % 8 ≠ 0 then none
    else if 0x2000 ≤ off && off < 0x2000 + 32 * 512 then some roReg                      -- elog(a)
    else if 0x6000 ≤ off && off < 0x6000 + 16 * 512 then some rcReg                      -- cecnt(a), uecnt(a)
    else if 0x10000 ≤ off && off < 0x10800 && off % 128 < 88 then some roReg             -- slice counters
    else none

/-- Block 1 of a compute die (R441, R442). Word 0 of xstage(e) resets with RES 3 (R442; DEDUCED, log entry 5). -/
def colBlockSpec (off : Nat) : Option RegSpec :=
  match off with
  | 0x0000 => some { rw := 0 }                                       -- hintq
  | 0x10000 => some {}                                               -- hqbase
  | 0x10008 => some {}                                               -- hqsize
  | 0x10010 => some roReg                                            -- hqhead
  | 0x10018 => some {}                                               -- hqtail
  | 0x10020 => some rcReg                                            -- hqdrop
  | 0x10040 => some {}                                               -- rquota
  | 0x10048 => some roReg                                            -- rpinned
  | 0x10080 => some { reset := 0x8000000000000000, rw := 0 }         -- rcommit
  | off =>
    if off % 8 ≠ 0 then none
    else if 0x4000 ≤ off && off < 0x8000 then
      some { reset := if off % 16 = 0 then 0xC000000000000000 else 0, rw := 0 }          -- xres(e)
    else if 0x14000 ≤ off && off < 0x18000 then
      some (if off % 16 = 0 then { reset := 0xC000000000000000, rw := 0xC0FFFFFFFFFFFFFF }
            else { rw := 0xFFFF80FFFFFFFFFF })                                           -- xstage(e)
    else none

/-- Block 2 of a compute die (R447, R448); the rings and counters exist on die 0 only. -/
def schBlockSpec (die off : Nat) : Option RegSpec :=
  match off with
  | 0x0000 => some { rw := 0 }                                       -- bwake
  | 0x0008 => some { reset := 0xDF8475800 }                          -- wdogdef
  | 0x0010 => some { reset := 0x3B9ACA00 }                           -- age
  | 0x0018 => some {}                                                -- evbase
  | 0x0020 => some {}                                                -- evsize
  | 0x0028 => some roReg                                             -- evhead
  | 0x0030 => some {}                                                -- evtail
  | off =>
    if off % 8 ≠ 0 then none
    else if 0x1000 ≤ off && off < 0x2000 && die = 0 then
      some (if off % 64 = 0x18 || off % 64 = 0x30 then roReg else {})                    -- ring(q)
    else if 0x2000 ≤ off && off < 0x4000 && die = 0 then some {}                         -- ccnt(c)
    else if 0x4000 ≤ off && off < 0x9000 then some roReg                                 -- rslot, bslot
    else none

/-- Block 3 of a compute die (R477). -/
def rasBlockSpec (off : Nat) : Option RegSpec :=
  match off with
  | 0x0000 => some { reset := 0x000000FFFFFFFFFF, rw := 0 }          -- sparemap
  | 0x0008 => some { reset := 0x8000000000000000, rw := 0 }          -- sparestat
  | 0x0010 => some { rw := 0x0000003FFFFFFFFF }                      -- pprcmd, GO write-only
  | 0x0018 => some { reset := 0x8000000000000000, rw := 0 }          -- pprstat
  | 0x0020 => some { reset := 1, rw := 0 }                           -- quiet
  | _ => none

/-- The north I/O die's security block (R499): M0 to M7, key slots and the command counter, SERIAL. -/
def secBlockSpec (off : Nat) : Option RegSpec :=
  if off % 8 ≠ 0 then none
  else if off < 0x200 || (0x1000 ≤ off && off ≤ 0x1000 + 16 * 112) || off = 0x2000 then some roReg
  else none

/-- The loader block (R500). -/
def ldBlockSpec (off : Nat) : Option RegSpec :=
  match off with
  | 0x0000 => some { reset := 0x8000000000000000, rw := 0x0000FFFFFFFF000F }  -- ldcmd
  | 0x0008 => some {}                                                -- ldman
  | 0x0010 => some {}                                                -- ldplace
  | 0x0018 => some { rw := 0xFFFF }                                  -- ldasid
  | 0x0020 => some {}                                                -- ldtab
  | 0x0028 => some {}                                                -- lddead
  | 0x0030 => some roReg                                             -- ldsess
  | 0x0038 => some roReg                                             -- ldcount
  | 0x0040 => some rcReg                                             -- lddisc
  | _ => none

/-- The power block (R506). -/
def powBlockSpec (off : Nat) : Option RegSpec :=
  match off with
  | 0x0000 => some { reset := 3600000, mOnly := true }               -- capm
  | 0x0008 => some { reset := 3600000 }                              -- caph
  | 0x0010 => some { reset := 200000, mOnly := true }                -- rup
  | 0x0018 => some { reset := 200000, mOnly := true }                -- rdn
  | 0x0020 => some { reset := 3, rw := 7 }                           -- pctl
  | 0x0028 => some roReg                                             -- pnow
  | 0x0030 => some roReg                                             -- pceil, pfloor
  | 0x0040 => some {}                                                -- tiv
  | 0x0048 => some {}                                                -- tbase
  | 0x0050 => some {}                                                -- tsize
  | 0x0058 => some roReg                                             -- thead
  | 0x0060 => some {}                                                -- ttail
  | 0x0068 => some rcReg                                             -- tdrop
  | 0x0070 => some { mOnly := true }                                 -- tdest
  | _ => none

/-- The debug, trace and fabric block of an I/O die (R512, R514, R515, R517, R519, R520, R539). -/
def dbgBlockSpec (side off : Nat) : Option RegSpec :=
  if off % 8 ≠ 0 then none
  else if 0x3000 ≤ off && off < 0x3000 + 8 * 19 then some roReg                           -- digests
  else if 0x4000 ≤ off && off < 0x4000 + 64 * (if side = 0 then 17 else 19) then   -- ports 0 to 15, host; scale-out (R521)
    some (match off % 64 with
      | 0x00 => { reset := 1, rw := 3 }                                                   -- pctl(p)
      | 0x08 => roReg                                                                     -- pstat(p)
      | 0x10 => rcReg                                                                     -- replays(p)
      | 0x18 => rcReg                                                                     -- crcerr(p)
      | _ => { rw := 0 })
  else if side = 0 then
    if off < 0x200 then some (if off % 32 = 16 then { rw := 3 } else if off % 32 = 24 then { rw := 0 } else {})
    else if off = 0x0800 then some { reset := 0x8000000000000000, rw := 0xF }             -- dbgcmd
    else if off = 0x0808 then some {}                                                     -- dbggtid
    else if off = 0x0810 then some { rw := 0xFFFF00FF }                                   -- dbgsel
    else if off = 0x0818 then some {}                                                     -- dbgdata
    else if off = 0x0820 then some {}                                                     -- dbgsamp
    else if (0x1000 ≤ off && off < 0x1100 || 0x2000 ≤ off && off < 0x2180) && off % 64 < 0x20 then
      some (if off % 64 = 0x10 then roReg else {})                                        -- trace and grid rings
    else if off = 0x5000 then some { rw := 0x1FFF, mOnly := true }                        -- devid
    else if off = 0x5008 then some { reset := 100000 }                                    -- e2eto
    else if off = 0x5010 then some { reset := 8, rw := 0xFF }                             -- e2eretry
    else if off = 0x5018 then some { rw := 0 }                                            -- pairclr
    else if 0x5020 ≤ off && off ≤ 0x5038 then some rcReg                                  -- dupcnt to misdir
    else if 0x6000 ≤ off && off < 0xA000 then
      some (match off % 64 with
        | 0x10 => { rw := 0x0000FFFFFFFFFFFF }
        | 0x18 => { rw := 0x0000FFFFFFFFFFFF }
        | 0x20 => { rw := 0x1FFFFFFF }
        | o => if o < 0x10 then {} else { rw := 0 })                                      -- qp(n)
    else if 0xA000 ≤ off && off < 0xC000 then
      some (if off % 32 = 16 then { rw := 0x7FFFFFFFF } else if off % 32 = 24 then { rw := 0 } else {})  -- mr(m)
    else if 0x100000 ≤ off && off < 0x100000 + 128 * 4096 then
      some (if off % 128 = 64 then { rw := 0x7, mOnly := true } else { rw := 0, mOnly := true })  -- key(i)
    else none
  else
    if off = 0x5000 then some { rw := 3 }                                                 -- ptpsel
    else if off = 0x5008 then some roReg                                                  -- ptpoff
    else if 0x100000 ≤ off && off < 0x100000 + 32 * 4096 then
      some (if off % 32 = 16 then { rw := 0x8000000FFFFFFFFF } else if off % 32 = 24 then { rw := 0 } else {})  -- ep(i)
    else none

/-- The register at a physical address of windows 0x02 and 0x03, if its chapter defines one (R472, R473, R502). -/
def regSpec (pa : Nat) : Option RegSpec :=
  let blk := pa / 2 ^ 24 % 16
  let off := pa % 2 ^ 24
  let win := pa / 2 ^ 40
  if win = 2 then
    match blk with
    | 0 => memBlockSpec off
    | 1 => colBlockSpec off
    | 2 => schBlockSpec (pa / 2 ^ 38 % 4) off
    | 3 => rasBlockSpec off
    | _ => none
  else if win = 3 then
    let side := pa / 2 ^ 38 % 2
    match blk with
    | 0 => if side = 0 then secBlockSpec off else none
    | 1 => if side = 0 then ldBlockSpec off else none
    | 2 => if side = 0 then powBlockSpec off else none
    | 3 => dbgBlockSpec side off
    | _ => none
  else none

/-- The reset value of the register at an address; zero where none is defined (R473). -/
def regReset (pa : Nat) : Word :=
  match regSpec pa with
  | some r => r.reset
  | none => 0

/-- The value a register holds. -/
def State.reg (s : State) (pa : Nat) : Word := Tbl.get (regReset pa) s.regs pa

/-- Sets a register as the hardware does, whatever its access code. -/
def State.setReg (s : State) (pa : Nat) (v : Word) : State := { s with regs := Tbl.set (regReset pa) s.regs pa v }

/-- Adds one to a register. -/
def State.bumpReg (s : State) (pa : Nat) : State := s.setReg pa (s.reg pa + 1)

/-- R11: the new value of a register after a write, by its access code: the bits that are not RW keep their value. -/
def State.writeReg (s : State) (pa : Nat) (v : Word) : State :=
  match regSpec pa with
  | none => s
  | some r => s.setReg pa ((s.reg pa &&& ~~~r.rw) ||| (v &&& r.rw))

/-- R11: a read gives the current value, and clears an RC register. -/
def State.readReg (s : State) (pa : Nat) : Word × State :=
  match regSpec pa with
  | none => (0, s)
  | some r => (s.reg pa, if r.rc then s.setReg pa 0 else s)

/-! The registers of a compute die by name. -/

def frbaseOf (s : State) (die : Nat) : Nat := (s.reg (dieReg die 0 0x80B0)).toNat / 4096 * 4096

end Sys2Proof.Machine
end

