-- ==== Sys2Proof/Machine/Faults.lean ====
section
/-! DEFINITION. Taking a fault: one operation for a row and one for a binning thread (R54 to R59, R133, R322, R335,
R349 to R353), and the return from one (R58). Both keep the record until it is posted (R422). -/

namespace Sys2Proof.Machine

/-! ### The fault codes (R57) -/

def cILLOP : Nat := 0x01
def cILLSLOT : Nat := 0x02
def cILLOVL : Nat := 0x03
def cSHAPE : Nat := 0x04
def cFILLREG : Nat := 0x05
def cTRAP : Nat := 0x06
def cGAIN : Nat := 0x07
def cABSENT : Nat := 0x10
def cPERM : Nat := 0x11
def cGROUP : Nat := 0x12
def cALIGN : Nat := 0x13
def cATOMAL : Nat := 0x14
def cMEMUE : Nat := 0x18
def cWDOG : Nat := 0x20

/-- The RESTART column of R57. -/
def codeRestarts (c : Nat) : Bool := c = 0x06 || c = 0x10 || c = 0x11 || c = 0x12 || c = 0x18 || c = 0x20

/-- The fault code of an encoding fate (R85). -/
def fateCode : Fate → Nat
  | .illop => cILLOP
  | .illslot => cILLSLOT
  | .illovl => cILLOVL

/-! ### Causes and task states (R41 to R43) -/

/-- The state of a bound task from the causes that hold it (R42). -/
def Task.heldState (t : Task) : TaskState :=
  if t.isRow then
    if t.causes.any fun c => c = .fault || c = .watchdog || c = .halt || c = .ended then .frozen
    else if t.causes.any fun c => c = .hold || c = .tag || c = .sysc || c = .status then .waiting
    else .running
  else
    if t.causes.any fun c => c ≠ .halt then .parked
    else if t.causes.any fun c => c = .halt then .frozen
    else .running

/-- R42: the state follows the causes in the states in which a task may issue; in every other it stays. -/
def Task.settle (t : Task) : Task :=
  match t.st with
  | .running => { t with st := t.heldState }
  | .waiting => { t with st := t.heldState }
  | .parked => { t with st := t.heldState }
  | .frozen => { t with st := t.heldState }
  | _ => t

/-- A cause takes hold of a task (R42, R43). -/
def Task.hold (t : Task) (c : Cause) : Task :=
  { t with causes := if t.causes.contains c then t.causes else t.causes ++ [c] }.settle

/-- A cause leaves a task (R42). -/
def Task.release (t : Task) (c : Cause) : Task := { t with causes := t.causes.filter (· ≠ c) }.settle

/-! ### Where a record says it was raised (R55, R580) -/

/-- Where a task's context stands, or last stood. -/
def Task.spot (t : Task) : Place :=
  match t.place with
  | .none => t.lastPlace
  | p => p

/-- The die of a task's context. -/
def Task.die (t : Task) : Nat :=
  match t.spot with
  | .none => 0
  | .row d _ _ => d
  | .bc d _ _ => d
  | .inbox d _ => d

/-- The row a row task holds. -/
def Task.rowNo (t : Task) : Nat :=
  match t.spot with
  | .row _ r _ => r
  | _ => 0

/-- The BC a binning thread stands on, or to whose inbox its packet is bound. -/
def Task.bcNo (t : Task) : Nat :=
  match t.spot with
  | .bc _ b _ => b
  | .inbox _ b => b
  | _ => 0

/-- R580: the CORE field of a record raised by unit `u`, on core `c` of a row. -/
def Task.coreField (t : Task) (u : Nat) (c : Nat) : Nat :=
  if u = 0 then 8 * t.rowNo
  else if u = 6 || u = 7 then t.bcNo
  else if u ≤ 5 then 8 * t.rowNo + c
  else if u = 8 && c < 8 then 8 * t.rowNo + c
  else 0

/-- R311: the address of the frame slot of a row task, 0 without a frame area. -/
def State.frameSlot (s : State) (t : Task) : Word :=
  let b := frbaseOf s t.die
  if b = 0 then 0 else BitVec.ofNat 64 (b + 4096 * (2 * t.rowNo + (if t.isFiller then 1 else 0)))

/-- The record of a fault of task `g` (R55, R56). -/
def State.recordOf (s : State) (g : Gtid) (r : Raised) (core : Nat) (bundle : Word) (more : Bool) : FaultRec :=
  let t := s.task g
  { die := t.die, gtid := g, dcc := s.dcc, code := r.code, unit := r.unit, core := t.coreField r.unit core, va := r.va,
    detail := r.detail, bundle := bundle, frame := if t.isRow then s.frameSlot t else 0,
    row := if t.isRow then some core else none, restart := codeRestarts r.code,
    write := r.write, more := more, cycle := s.cycle }

/-- A unit keeps a record until it is posted (R422). -/
def State.keepRecord (s : State) (f : FaultRec) : State := { s with faultPend := s.faultPend ++ [f] }

/-! ### Taking a fault -/

/-- R59: the record of a core's fault joins one that the core raised in the same cycle: the unit of least number is named. -/
def joinRecord (f r : FaultRec) : FaultRec :=
  if r.unit < f.unit then { r with more := true, fresh := f.fresh || r.fresh } else { f with more := true, fresh := f.fresh || r.fresh }

/-- Is a record one that a core of a row raised in this cycle and that is not posted? -/
def State.joins (s : State) (g : Gtid) (core : Nat) (f : FaultRec) : Bool :=
  core < 8 && f.gtid = g && f.row = some core && f.cycle = s.cycle && f.xop.isNone

/-- A row takes a fault raised by the Spine (`core = 8`) or by a unit of core `core` (R349, R351 to R353, R59, R308): the
task is frozen by the fault, the engines of the faulting core stop after this cycle, the frame's entries are noted, and the
record is kept for posting. `bundle` is word 5 of the record. -/
def State.takeRowFault (s : State) (g : Gtid) (core : Nat) (r : Raised) (bundle : Word) (more : Bool) : State :=
  let fresh := !(s.task g).causes.any fun c => c = .fault || c = .watchdog
  let rec' := { s.recordOf g r core bundle more with fresh := fresh }
  let s := s.modTask g fun t =>
    { t with frame := (if fresh then [] else t.frame) ++ [(core, r)], frameAt := if fresh then s.dcc else t.frameAt,
             frozeAt := if fresh then s.cycle else t.frozeAt }.hold .fault
  let s := if core < 8 then s.modShare g core fun h => { h with stopped := true, stopAt := if h.stopped then h.stopAt else s.cycle } else s
  if s.faultPend.any (s.joins g core) then
    { s with faultPend := s.faultPend.map fun f => if s.joins g core f then joinRecord f rec' else f }
  else s.keepRecord rec'

/-- A binning thread takes a fault (R133, R322, R335): parked with its record kept; a translation fault waits for a wake
message, any other for firmware. -/
def State.takeBcFault (s : State) (g : Gtid) (r : Raised) (bundle : Word) (asTranslation : Bool) : State :=
  let rec' := { s.recordOf g r 0 bundle false with wakes := asTranslation }
  (s.modTask g fun t => t.hold (if asTranslation then .translation else .fault)).keepRecord rec'

/-- Is a code one of the translation faults ABSENT, PERM and GROUP (R133)? -/
def isTranslationCode (c : Nat) : Bool := c = 0x10 || c = 0x11 || c = 0x12

/-! ### The return from a fault (R58, R308) -/

/-- R58, R42: the fault that holds a task is cleared: the engines of its cores may go on, and the freeze's frame entries
end. -/
def State.unfreeze (s : State) (g : Gtid) : State :=
  let s := s.modTask g fun t => { t.release .fault with frame := [] }
  if (s.task g).isRow then
    (List.range 8).foldl (fun s c => s.modShare g c fun h => { h with stopped := false }) s
  else s

end Sys2Proof.Machine
end

