-- ==== Sys2Proof/Machine/Operands.lean ====
section
/-! DEFINITION. The operand forms: immediates, the SBS form, effective addresses, the operands of engine syllables, and
control-transfer targets (R63 to R75). -/

namespace Sys2Proof.Machine

/-- The second operand of format A: SB of the unit's file, or an s register when SBS = 1 on a matrix core (R110). -/
def State.operandB (s : State) (f : FmtA) : Word :=
  if s.onCore && f.mod.getLsbD 15 then s.rdCarried f.sb else s.rdInt f.sb

/-- The immediate of format I, sign-extended (R65). -/
def simm (f : FmtI) : Word := f.imm.signExtend 64

/-- R67: the effective address, modulo 2^64. -/
def State.ea (s : State) (f : FmtM) : Word :=
  s.rdInt f.base + (if f.ix then s.rdInt f.index <<< f.scale.toNat else 0) + f.disp.signExtend 64

/-- An operand of an engine syllable: an a register, or the carried value of an s register (R63, R70). -/
def State.engOperand (s : State) (r : BitVec 6) (isS : Bool) : Word := if isS then s.rdCarried r else s.rdInt r

def State.opA (s : State) (f : FmtE) : Word := s.engOperand f.opa (f.fsel.getLsbD 2)
def State.opB (s : State) (f : FmtE) : Word := s.engOperand f.opb (f.fsel.getLsbD 1)
def State.opC (s : State) (f : FmtE) : Word := s.engOperand f.opc (f.fsel.getLsbD 0)

/-- The issue time of a copy: the register named by ATS and ATREG, 0 without AT (R292). -/
def State.issueTime (s : State) (f : FmtE) : Word := if f.isAt then s.engOperand f.atreg f.ats else 0

/-- The size of a bundle in bytes: 32 on a row, 16 on a binning core (R66). -/
def State.bundleSize (s : State) : Nat := if s.onBc then 16 else 32

/-- R66: the target at a signed count of bundles from the bundle that holds the syllable. -/
def State.target (s : State) (f : FmtB) : Word :=
  s.curAddr + f.off.signExtend 64 * BitVec.ofNat 64 s.bundleSize

/-- R74, R75: the low bits of a register-supplied target are ignored. -/
def State.regTarget (s : State) (w : Word) : Word := w &&& ~~~(BitVec.ofNat 64 (s.bundleSize - 1))

end Sys2Proof.Machine
end

