-- ==== Sys2Proof/Machine/Csr.lean ====
section
/-! DEFINITION. Control and status registers of tasks and shares, TIME, TRAP and SYSC (R33 to R40, R149 to R153, R255,
R285, R286, R356). -/

namespace Sys2Proof.Machine

/-- R149: the value a CSR write gives, before the access codes of its fields act. -/
def CsrOp.apply (o : CsrOp) (old v : Word) : Word :=
  match o with
  | .write => v
  | .set => old ||| v
  | .clear => old &&& ~~~v

/-- R11: only the RW bits of a register take the new value. -/
def mergeRw (rw old new : Word) : Word := (old &&& ~~~rw) ||| (new &&& rw)

/-- R36: a write of 5, 6 or 7 to RM leaves RM unchanged. -/
def writeFmode (old new : Word) : Word :=
  let w := mergeRw 0x1FF old new
  if 5 ≤ w.toNat % 8 then mergeRw 0x1F8 old new else w

/-- The RW bits of vshape (R33). -/
def vshapeRw : Word := 0x0FFFFFFF

/-- The RW bits of qcfg (R255). -/
def qcfgRw : Word := 0x03FFFF3F

/-- fillcfg as it reads (R39). -/
def Task.fillcfg (t : Task) : Word :=
  BitVec.ofNat 64 (t.thresh * 256 + (if t.fillActive then 2 else 0) + (if t.fillOn then 1 else 0))

/-- A field of a loop level, by its place in the four CSRs of the level (R356). -/
def HwLoop.csr (l : HwLoop) (i : Nat) : Word :=
  match i with
  | 0 => l.ls
  | 1 => l.le
  | 2 => l.lc
  | _ => if l.act then 1 else 0

def HwLoop.setCsr (l : HwLoop) (i : Nat) (o : CsrOp) (v : Word) : HwLoop :=
  match i with
  | 0 => { l with ls := mergeRw (~~~0x1F) l.ls (o.apply l.ls v) }
  | 1 => { l with le := mergeRw (~~~0x1F) l.le (o.apply l.le v) }
  | 2 => { l with lc := o.apply l.lc v }
  | _ => { l with act := (o.apply (l.csr 3) v).getLsbD 0 }

/-- A CSR of the task's own context (R150). -/
def Task.csr (t : Task) (g : Gtid) (dcc : Word) (c : Nat) : Word :=
  match c with
  | 0 => g
  | 1 => t.fmode
  | 2 => t.vshape
  | 3 => t.vcarry
  | 4 => t.fillcfg
  | 5 => dcc
  | 0x30 => BitVec.ofNat 64 t.sched.length
  | 0x31 => BitVec.ofNat 64 t.schcur
  | c => if 0x20 ≤ c && c < 0x30 then (Tbl.get {} t.loops ((c - 0x20) / 4)).csr ((c - 0x20) % 4) else 0

/-- A write to a CSR of the task's own context: RO registers ignore it (R11, R40). -/
def Task.setCsr (t : Task) (c : Nat) (o : CsrOp) (v : Word) : Task :=
  match c with
  | 1 => { t with fmode := writeFmode t.fmode (o.apply t.fmode v) }
  | 2 => { t with vshape := mergeRw vshapeRw t.vshape (o.apply t.vshape v) }
  | 3 => { t with vcarry := o.apply t.vcarry v }
  | 4 => { t with thresh := Word.field (mergeRw 0x0FFFFF00 t.fillcfg (o.apply t.fillcfg v)) 8 20 }
  | 0x31 => { t with schcur := Word.field (o.apply (BitVec.ofNat 64 t.schcur) v) 0 32 }
  | c =>
    if 0x20 ≤ c && c < 0x30 then
      let l := (c - 0x20) / 4
      { t with loops := Tbl.set {} t.loops l ((Tbl.get {} t.loops l).setCsr ((c - 0x20) % 4) o v) }
    else t

/-- R293: identifiers compare in serial order: `u` precedes `v`. -/
def idBefore (u v : BitVec 32) : Bool := 0 < (v - u).toInt

/-- The syllables that are copies. -/
def EngOp.isCopy (o : EngOp) : Bool := o = .cp || o = .cpg || o = .cps || o = .cpd || o = .cpf

/-- MOD[2:0]: the channel of a syllable of the copy family (R287). -/
def Cmd.chan (c : Cmd) : Nat := c.f.mod.toNat % 8

/-- The identifiers issued on a channel and not completed: of copies in the command stage and in the issue buffer. -/
def Share.openIds (h : Share) (ch : Nat) : List (BitVec 32) :=
  ((h.cpq.filter fun c => c.op.isCopy && c.chan = ch).map (·.id)) ++ ((h.copies.filter fun c => c.cmd.chan = ch).map (·.cmd.id))

/-- R293: the watermark of a channel: the least identifier issued and not completed, or the next one. -/
def Share.watermark (h : Share) (ch : Nat) : BitVec 32 :=
  (h.openIds ch).foldl (fun w i => if idBefore i w then i else w) (Tbl.get 0 h.cpNext ch)

/-- Word `i` of shape set `k` (R285). -/
def Share.shapeWord (h : Share) (k i : Nat) : Word :=
  if i = 5 then Tbl.get (BitVec.allOnes 64) h.cpClip k else Tbl.get 0 h.cpShape (8 * k + i)

/-- A share CSR (R150, R255, R285, R286). -/
def Share.csr (h : Share) (c : Nat) : Word :=
  if c = 0x101 then h.fmode
  else if c = 0x102 then h.vshape
  else if c = 0x103 then h.qcfg
  else if 0x140 ≤ c && c < 0x160 then
    (if (c - 0x140) % 8 < 6 then h.shapeWord ((c - 0x140) / 8) ((c - 0x140) % 8) else 0)
  else if 0x160 ≤ c && c < 0x168 then (h.watermark (c - 0x160)).setWidth 64
  else if 0x168 ≤ c && c < 0x170 then (Tbl.get 0 h.cpNext (c - 0x168)).setWidth 64
  else if c = 0x170 then h.cpdpat
  else if c = 0x171 then h.spfill
  else if 0x180 ≤ c && c < 0x1C0 then Tbl.get 0 h.ac (c - 0x180)
  else 0

/-- A write to a share CSR (R11). -/
def Share.setCsr (h : Share) (c : Nat) (o : CsrOp) (v : Word) : Share :=
  let n := o.apply (h.csr c) v
  if c = 0x101 then { h with fmode := writeFmode h.fmode n }
  else if c = 0x102 then { h with vshape := mergeRw vshapeRw h.vshape n }
  else if c = 0x103 then { h with qcfg := mergeRw qcfgRw h.qcfg n }
  else if 0x140 ≤ c && c < 0x160 then
    let k := (c - 0x140) / 8
    let i := (c - 0x140) % 8
    if i = 5 then { h with cpClip := Tbl.set (BitVec.allOnes 64) h.cpClip k n }
    else if i < 6 then { h with cpShape := Tbl.set 0 h.cpShape (8 * k + i) n }
    else h
  else if c = 0x170 then { h with cpdpat := mergeRw 0xFF0F h.cpdpat n }
  else if 0x180 ≤ c && c < 0x1C0 then { h with ac := Tbl.set 0 h.ac (c - 0x180) n }
  else h

/-- The share as bundle `n` of the Spine reads its CSRs: as core `c` left them after bundle n - 3 - 2 c, with every credit,
completion and identifier since (R151). -/
def Share.readPoint (h : Share) (n c : Nat) : Share :=
  match h.past.reverse.find? fun p => n < p.idx + 3 + 2 * c with
  | none => h
  | some p =>
    let ac := (List.range 64).foldl (fun a i =>
      Tbl.set 0 a i (Tbl.get 0 p.ac i + Tbl.get 0 h.credits i - Tbl.get 0 p.credits i)) p.ac
    { h with fmode := p.fmode, vshape := p.vshape, qcfg := p.qcfg, cpShape := p.cpShape, cpClip := p.cpClip, cpdpat := p.cpdpat, ac := ac }

/-- What a share remembers of its CSRs before bundle `i` (R151). -/
def Share.pastOf (h : Share) (i : Nat) : CsrPast :=
  { idx := i, fmode := h.fmode, vshape := h.vshape, qcfg := h.qcfg, cpShape := h.cpShape, cpClip := h.cpClip, cpdpat := h.cpdpat, ac := h.ac,
    credits := h.credits }

/-! ### CSRR, CSRW, CSRS, CSRC, TIME (R149 to R151, R153) -/

/-- The CSR number of a SYS syllable. -/
def csrNum (f : FmtA) : Nat := (f.mod.extractLsb' 0 12).toNat

/-- The core of a share CSR access. -/
def csrCore (f : FmtA) : Nat := (f.mod.extractLsb' 12 3).toNat

/-- R150: does the context hold the CSR? A filler task's access to fillcfg raises ILLOP. -/
def State.csrInContext (s : State) (f : FmtA) : Bool := !(csrNum f = 4 && s.rdTask.isFiller)

/-- R149, R151, CSRR: a share CSR is read as the core's copy stands at the read point of the bundle. -/
def execCsrr (f : FmtA) (s : State) : Out :=
  s.guarded f.g fun s =>
    if !s.csrInContext f then s.raiseCode 0 cILLOP
    else if csrNum f < 0x100 then s.wrInt f.d (s.rdTask.csr s.curGtid s.dcc (csrNum f))
    else s.wrInt f.d (((s.share s.curGtid (csrCore f)).readPoint (s.rdTask.bundleIdx - 1) (csrCore f)).csr (csrNum f))

/-- R149, R151: a write to a CSR of the own context acts at once, but gives way to a VSHAPE in the V position of a thread's bundle (R77); a write to a share CSR travels with the bundle and
takes effect on each core after the core has executed it. -/
def State.csrWrite (s : State) (f : FmtA) (o : CsrOp) : Out :=
  s.guarded f.g fun s =>
    let v := s.rdInt f.sa
    if !s.csrInContext f then s.raiseCode 0 cILLOP
    else if csrNum f = 2 && s.onBc && s.vDests.contains vshapeDest then s
    else if csrNum f < 0x100 then s.modCurTask fun t => t.setCsr (csrNum f) o v
    else
      let w : CsrWrite := { core := csrCore f, all := f.mod.getLsbD 15, num := csrNum f, op := o, val := v }
      s.modCurTask fun t =>
        { t with wave := t.wave.map fun e => if e.idx + 1 = t.bundleIdx then { e with csr := e.csr ++ [w] } else e }

/-- R149, CSRW. -/
def execCsrw (f : FmtA) (s : State) : Out := s.csrWrite f .write

/-- R149, CSRS. -/
def execCsrs (f : FmtA) (s : State) : Out := s.csrWrite f .set

/-- R149, CSRC. -/
def execCsrc (f : FmtA) (s : State) : Out := s.csrWrite f .clear

/-- R149, R153, TIME: the DCC in the cycle the syllable executes. -/
def execTime (f : FmtA) (s : State) : Out := s.guarded f.g fun s => s.wrInt f.d s.dcc

/-! ### TRAP and SYSC (R152) -/

/-- R152, TRAP: fault TRAP with the immediate as the record's detail. -/
def execTrap (f : FmtI) (s : State) : Out :=
  s.guarded f.g fun s => s.raise { unit := s.syllUnit 0, code := cTRAP, detail := f.imm.setWidth 64 }

/-- R152, SYSC: the request goes to the firmware of the die, and the task waits or parks until the reply. -/
def execSysc (f : FmtI) (s : State) : Out :=
  s.guarded f.g fun s =>
    let d := if s.onBc && s.vDests.contains f.d.toNat then none else some f.d
    let q : SyscReq := { gtid := s.curGtid, d := d, svc := f.imm.toNat, arg := s.rdInt f.sa }
    { s with syscs := s.syscs ++ [q] }.modCurTask fun t => t.hold .sysc

end Sys2Proof.Machine
end

