-- ==== Sys2Proof/Machine/Memory.lean ====
section
/-! DEFINITION. Physical memory: bytes and tags, the windows of the physical address space, the slices, and the L1D of
each row (R370 to R373, R379 to R384, R387, R391 to R393, R472). A write that performs is in `mem` at once; what HBM still
holds of a modified line is kept beside the line, and is used when a held line is dropped (R385). -/

namespace Sys2Proof.Machine

/-! ### Bytes, words, tags -/

def State.memByte (s : State) (pa : Nat) : Byte := Tbl.get 0 s.mem pa

def State.setMemByte (s : State) (pa : Nat) (b : Byte) : State := { s with mem := Tbl.set 0 s.mem pa b }

/-- The little-endian value of `n` bytes (R6). -/
def State.memRead (s : State) (pa : Nat) : Nat → Nat
  | 0 => 0
  | n + 1 => (s.memByte pa).toNat + 256 * s.memRead (pa + 1) n

/-- Stores the low `n` bytes of a value, little-endian. -/
def State.memWrite (s : State) (pa : Nat) : Nat → Nat → State
  | 0, _ => s
  | n + 1, v => (s.setMemByte pa (BitVec.ofNat 8 v)).memWrite (pa + 1) n (v / 256)

/-- The aligned word that holds a physical address. -/
def wordAddr (pa : Nat) : Nat := pa / 8 * 8

def State.memWord (s : State) (pa : Nat) : Word := BitVec.ofNat 64 (s.memRead (wordAddr pa) 8)

def State.setMemWord (s : State) (pa : Nat) (w : Word) : State := s.memWrite (wordAddr pa) 8 w.toNat

/-- The full/empty tag of the word that holds an address: full is true (R379). -/
def State.tag (s : State) (pa : Nat) : Bool := Tbl.get false s.tags (wordAddr pa)

def State.setTag (s : State) (pa : Nat) (b : Bool) : State := { s with tags := Tbl.set false s.tags (wordAddr pa) b }

/-! ### The physical address space (R472) -/

/-- The windows of the physical address space. -/
inductive Window where
  | hbm | tile | die | io | none
  deriving DecidableEq, Repr

/-- R472: the window of an address; `none` outside every window or with a bit set that has no field. -/
def windowOf (pa : Nat) : Window :=
  match pa / 2 ^ 40 with
  | 0 => .hbm
  | 1 => if pa % 2 ^ 38 < 2 ^ 23 then .tile else .none
  | 2 => if pa % 2 ^ 38 < 2 ^ 28 then .die else .none
  | 3 => if pa % 2 ^ 40 / 2 ^ 39 = 0 && pa % 2 ^ 38 < 2 ^ 28 then .io else .none
  | _ => .none

def paDie (pa : Nat) : Nat := pa / 2 ^ 38 % 4

/-- The BC of a tile-memory address (R472). -/
def paBc (pa : Nat) : Nat := pa / 2 ^ 19 % 16

/-- Physical address of a byte of a tile memory (R472). -/
def tileAddr (die bc off : Nat) : Nat := 2 ^ 40 + die * 2 ^ 38 + bc * 2 ^ 19 + off

/-- XOR of the nibbles of a number, `n` of them. -/
def xorNibbles : Nat → Nat → Nat
  | 0, _ => 0
  | n + 1, v => (v % 16) ^^^ xorNibbles n (v / 16)

/-- R370: the home slice of a line of local HBM. -/
def homeSlice (pa : Nat) : Nat := xorNibbles 10 (pa / 128)

/-- R370: the set within the slice. -/
def lineSet (pa : Nat) : Nat := pa / 128 % 4096

/-- The queue of a home: slices of die d at 32 d, tile memories at 32 d + 16. -/
def homeKey (pa : Nat) : Nat :=
  if windowOf pa = .tile then 32 * paDie pa + 16 + paBc pa else 32 * paDie pa + homeSlice pa

/-! ### Stored words and injection (R382 to R384, R387) -/

/-- R382: the stack of a local HBM address. -/
def hbmStack (pa : Nat) : Nat := pa / 256 % 4

/-- R382: the pseudo-channel. -/
def hbmChannel (pa : Nat) : Nat := (pa / 1024 % 64) ^^^ (pa / 65536 % 64)

/-- Where a word is stored: its die, array, sub-array and location there (R384, R385). -/
structure Cellar where
  die : Nat
  array : Nat
  sub : Nat
  loc : Nat
  deriving DecidableEq, Repr

/-- The key of a stored word under injection: die, array, sub-array, byte offset of the word. -/
def flipKey (c : Cellar) : Nat := ((c.die * 2 ^ 12 + c.array) * 16 + c.sub) * 2 ^ 44 + c.loc / 8 * 8

/-- The mode of einj: 1 once, 2 every write; 0 and 3 off. -/
def einjMode (w : Word) : Nat := Word.field w 62 2

/-- R387: a word is written at an array location: injection stores it with bits flipped; otherwise its stored bits agree
with its ECC again. -/
def State.storedWord (s : State) (c : Cellar) : State :=
  let ei := s.reg (dieReg c.die 0 0x80)
  let hit := (einjMode ei = 1 || einjMode ei = 2) && Word.field ei 56 4 = c.sub && Word.field ei 44 12 = c.array &&
    Word.field ei 0 44 / 8 * 8 = c.loc / 8 * 8
  if hit then
    let s := { s with flips := Tbl.set 0 s.flips (flipKey c) (s.reg (dieReg c.die 0 0x88)) }
    if einjMode ei = 1 then s.setReg (dieReg c.die 0 0x80) (ei &&& 0x3FFFFFFFFFFFFFFF) else s
  else if Tbl.get 0 s.flips (flipKey c) = 0 then s
  else { s with flips := Tbl.set 0 s.flips (flipKey c) 0 }

def State.clearCell (s : State) (c : Cellar) : State := { s with flips := Tbl.set 0 s.flips (flipKey c) 0 }

/-! ### Slices (R371, R373, R388) -/

def State.line (s : State) (pa : Nat) : Line := Tbl.get {} s.lines (pa / 128)

def State.setLine (s : State) (pa : Nat) (l : Line) : State := { s with lines := Tbl.set {} s.lines (pa / 128) l }

/-- A word of local HBM in its pseudo-channel: LOC is D (R382, R384, R385). -/
def hbmCell (pa : Nat) : Cellar := { die := paDie pa, array := 0x100 + 64 * hbmStack pa + hbmChannel pa, sub := 0, loc := pa % 2 ^ 38 }

/-- A word of a line in way `w` of its slice; set, way and byte make its offset in the array (log entry 31). -/
def sliceCell (w pa : Nat) : Cellar :=
  { die := paDie pa, array := 0x50 + homeSlice pa, sub := 0, loc := (lineSet pa * 16 + w) * 128 + pa % 128 }

def tileCell (pa : Nat) : Cellar := { die := paDie pa, array := 0x40 + paBc pa, sub := 0, loc := pa % 2 ^ 19 }

/-- Where the current value of a word is stored: a tile memory, its slice while its line is resident, else HBM. -/
def State.cellOf (s : State) (pa : Nat) : Cellar :=
  if windowOf pa = .tile then tileCell pa else if (s.line pa).resident then sliceCell (s.line pa).way pa else hbmCell pa

def State.flipsAt (s : State) (pa : Nat) : Word := Tbl.get 0 s.flips (flipKey (s.cellOf pa))

/-- The 8-bit symbols of a word that have a flipped bit. -/
def symbols (w : Word) : Nat := ((List.range 8).filter fun i => Word.field w (8 * i) 8 ≠ 0).length

def popcount64 (w : Word) : Nat := ((List.range 64).filter fun i => w.getLsbD i).length

/-- R383: how an error stands: 0 none, 1 correctable, 2 uncorrectable; in HBM by the symbols of the atom, in a tile memory or
a slice by the bits of the word. -/
def State.errAt (s : State) (pa : Nat) : Nat :=
  let n := if (s.cellOf pa).array < 0x100 then popcount64 (s.flipsAt pa)
    else ((List.range 4).map fun i => symbols (s.flipsAt (pa / 32 * 32 + 8 * i))).sum
  if n ≤ 1 then n else 2

/-- R385, LOC and the site of an error found in a word's present place. -/
def State.siteOf (s : State) (pa : Nat) (g : Gtid) (syndrome : Word) : ErrSite :=
  let c := s.cellOf pa
  { die := c.die, array := c.array, sub := c.sub, loc := if 0x100 ≤ c.array then c.loc / 32 * 32 else c.loc / 8 * 8, syndrome := syndrome,
    gtid := g, pa := pa }

/-- The counter word `w` of the home slice of an address (R388). -/
def sliceCounter (pa w : Nat) : Nat := dieReg (paDie pa) 0 (0x10000 + 128 * homeSlice pa + 8 * w)

/-- The lines resident in the set of an address. -/
def State.residents (s : State) (pa : Nat) : List (Nat × Line) :=
  s.lines.filter fun e =>
    e.2.resident && paDie (e.1 * 128) = paDie pa && homeSlice (e.1 * 128) = homeSlice pa && lineSet (e.1 * 128) = lineSet pa

/-- The least recently used line that is neither pinned nor held (R371). -/
def lruVictim (ls : List (Nat × Line)) : Option (Nat × Line) :=
  (ls.filter fun e => e.2.holders.isEmpty && !e.2.held).foldl
    (fun v e => match v with
      | none => some e
      | some b => if e.2.stamp < b.2.stamp then some e else some b) none

/-- The words of a line in its slice are stored anew, or forgotten with the line. -/
def State.storeLine (s : State) (pa : Nat) : State :=
  (List.range 16).foldl (fun s i => s.storedWord (sliceCell (s.line pa).way (pa / 128 * 128 + 8 * i))) s

def State.forgetLine (s : State) (pa : Nat) : State :=
  (List.range 16).foldl (fun s i => s.clearCell (sliceCell (s.line pa).way (pa / 128 * 128 + 8 * i))) s

/-- The addresses of the words of a line's modified atoms. -/
def dirtyWords (pa : Nat) (l : Line) : List Nat :=
  (l.old.map fun e => (List.range 4).map fun i => pa / 128 * 128 + 32 * e.1 + 8 * i).flatten

/-- R371, R385: the modified atoms of a line are written back. A word found correctable is corrected; a line with one that is
uncorrectable is held, and is not written back. Both are recorded without a requester. -/
def State.writeBackLine (s : State) (pa : Nat) : State :=
  let l := s.line pa
  if l.old.isEmpty || l.held then s
  else
    let ws := dirtyWords pa l
    match ws.find? fun a => s.errAt a = 2 with
    | some a =>
      let (y, s) := s.drawFree
      (s.setLine pa { l with held := true }).push (.uncorrectableError { s.siteOf a 0 y with gtid := 0 })
    | none =>
      let s := (ws.filter fun a => s.errAt a = 1).foldl (fun s a =>
        let (y, s) := s.drawFree
        (s.push (.correctableError (s.siteOf a 0 y))).clearCell (s.cellOf a)) s
      let s := ws.foldl (fun s a => s.storedWord (hbmCell a)) (s.bumpReg (sliceCounter pa 2))
      s.setLine pa { l with old := [] }

/-- A line leaves its slice, its modified atoms written back first; one found uncorrectable stays, held (R371, R385). -/
def State.evictLine (s : State) (pa : Nat) : State :=
  let s := s.writeBackLine pa
  if (s.line pa).held then s
  else ((s.forgetLine pa).setLine pa { s.line pa with resident := false }).bumpReg (sliceCounter pa 3)

/-- R371: a way of the set of an address that is free, after eviction if need be; none where all sixteen are pinned or held
(fuel: the ways). -/
def State.makeRoom (s : State) (pa : Nat) : Nat → Option Nat × State
  | 0 => (none, s)
  | n + 1 =>
    let rs := s.residents pa
    match (List.range 16).find? fun w => !rs.any fun e => e.2.way = w with
    | some w => (some w, s)
    | none =>
      match lruVictim rs with
      | none => (none, s)
      | some v => (s.evictLine (v.1 * 128)).makeRoom pa n

/-- R388: a request occupies an entry of its slice's queue in the cycle in which it is served. -/
def State.countServed (s : State) (pa : Nat) : State :=
  let s := s.bumpReg (sliceCounter pa 9)
  let n := min 64 ((s.reg (sliceCounter pa 7)).toNat + 1)
  if (s.reg (sliceCounter pa 8)).toNat < n then s.setReg (sliceCounter pa 8) (BitVec.ofNat 64 n) else s

/-- A line takes a way of its slice. -/
def State.install (s : State) (pa w : Nat) : State :=
  (s.setLine pa { s.line pa with resident := true, way := w, stamp := s.lruClock, old := [] }).storeLine pa

/-- R371: an access reaches its line: a hit, or a miss that allocates unless the page or the set forbids it. -/
def State.touchLine (s : State) (pa : Nat) (noalloc : Bool) : State :=
  if windowOf pa ≠ .hbm then s
  else
    let s := { s.countServed pa with lruClock := s.lruClock + 1 }
    if (s.line pa).resident then
      (s.setLine pa { s.line pa with stamp := s.lruClock }).bumpReg (sliceCounter pa 0)
    else
      let s := s.bumpReg (sliceCounter pa 1)
      if noalloc then s
      else match s.makeRoom pa 17 with
        | (none, s) => s
        | (some w, s) => s.install pa w

/-- The data and tags of an atom (R379). -/
def State.atom (s : State) (a : Nat) : BitVec 256 × BitVec 4 :=
  (BitVec.ofNat 256 (s.memRead a 32),
   BitVec.ofNat 4 ((s.tag a).toNat + 2 * (s.tag (a + 8)).toNat + 4 * (s.tag (a + 16)).toNat + 8 * (s.tag (a + 24)).toNat))

/-- Before a resident line's atom is modified: what HBM holds of it is kept. -/
def State.dirtyAtom (s : State) (pa : Nat) : State :=
  if windowOf pa ≠ .hbm then s
  else
    let l := s.line pa
    let i := pa / 32 % 4
    if l.resident && (Tbl.find? l.old i).isNone then
      s.setLine pa { l with old := Tbl.put l.old i (s.atom (pa / 32 * 32)) }
    else s

/-- R385: a held line is dropped without being written back: HBM's data and tags come back. -/
def State.dropLine (s : State) (pa : Nat) : State :=
  let l := s.line pa
  let base := pa / 128 * 128
  let s := l.old.foldl (fun s e =>
    let a := base + 32 * e.1
    let s := s.memWrite a 32 e.2.1.toNat
    (List.range 4).foldl (fun s i => s.setTag (a + 8 * i) (e.2.2.getLsbD i)) s) s
  (s.forgetLine pa).setLine pa { l with old := [], held := false, resident := false }

/-! ### The L1D of a row (R391 to R393) -/

/-- The key of a word in the L1D of row `row` (0 to 31) of the module. -/
def l1Key (row pa : Nat) : Nat := row * 2 ^ 48 + wordAddr pa

def State.l1 (s : State) (row pa : Nat) : L1Word := Tbl.get {} s.l1d (l1Key row pa)

def State.setL1 (s : State) (row pa : Nat) (w : L1Word) : State := { s with l1d := Tbl.set {} s.l1d (l1Key row pa) w }

/-- The bytes of a word selected by a mask, as a bit mask. -/
def byteMask (m : BitVec 8) : Word :=
  BitVec.ofNat 64 ((List.range 8).foldl (fun a i => if m.getLsbD i then a + 255 * 2 ^ (8 * i) else a) 0)

/-- R392: every L1D but `keep` gives up its ownership of a word: the word is stored at its home. -/
def State.recall (s : State) (pa : Nat) (keep : Option Nat) : State :=
  (List.range 32).foldl (fun s r =>
    if keep = some r then s
    else
      let w := s.l1 r pa
      if w.owned then (s.setL1 r pa { w with owned := false }).storedWord (s.cellOf pa) else s) s

/-- R393: every unowned copy in the row's L1D is dropped. -/
def State.selfInvalidate (s : State) (row : Nat) : State :=
  { s with l1d := (s.l1d.map (fun e => if e.1 / 2 ^ 48 = row then (e.1, { e.2 with copy := none }) else e)).filter fun e => e.1 / 2 ^ 48 ≠ row || e.2 ≠ ({} : L1Word) }

/-- A write to bytes of a word performs: other owners are recalled first (R372, R391, R392). -/
def State.performWrite (s : State) (row : Option Nat) (pa n v : Nat) : State := ((s.recall pa row).dirtyAtom pa).memWrite pa n v

/-- R422, R446: a ring whose size is zero is always full. -/
def ringFull (head tail size : Word) : Bool := head - tail = size || size = 0

/-- A write performs at its home, and its word is stored with its ECC (R372, R387). -/
def State.homeWrite (s : State) (row : Option Nat) (pa n v : Nat) : State :=
  let s := s.performWrite row pa n v
  s.storedWord (s.cellOf pa)

end Sys2Proof.Machine
end

