-- ==== Sys2Proof/Machine/Errors.lean ====
section
/-! DEFINITION. Memory errors: what injection leaves in a stored word, correction, the tracker, the error records and
their rings (R383 to R387, R423). -/

namespace Sys2Proof.Machine

/-! ### Writes by the device's own agents -/

/-- Words the device writes to memory at their homes, in ascending order. -/
def State.putWords (s : State) (pa : Nat) : List Word → State
  | [] => s
  | w :: ws => ((s.touchLine pa false).homeWrite none pa 8 w.toNat).putWords (pa + 8) ws

def State.getWords (s : State) (pa : Nat) : Nat → List Word
  | 0 => []
  | n + 1 => s.memWord pa :: s.getWords (pa + 8) n

/-! ### Correction (R383) -/

/-- The words of an atom of HBM, or a word of an SRAM array, lose their flipped bits: corrected in place. -/
def State.correct (s : State) (pa : Nat) : State :=
  if (s.cellOf pa).array < 0x100 then s.clearCell (s.cellOf pa)
  else (List.range 4).foldl (fun s i => s.clearCell (s.cellOf (pa / 32 * 32 + 8 * i))) s

/-! ### Records (R384, R385, R387, R423) -/

/-- R423: an entry of the die's fault-address queue; a full queue drops it. -/
def State.postFaultAddress (s : State) (die pa : Nat) (ue : Bool) : State :=
  let rd (o : Nat) := s.reg (dieReg die 0 o)
  if rd 0x8088 = 0 || rd 0x8090 - rd 0x8098 = rd 0x8088 then s.bumpReg (dieReg die 0 0x80A0)
  else
    let base := (rd 0x8080).toNat / 16 * 16
    let at' := base + 16 * ((rd 0x8090).toNat % (rd 0x8088).toNat)
    let w0 : Word := BitVec.ofNat 64 (pa % 2 ^ 48 / 2 ^ 16 * 2 ^ 16 + (if ue then 1 else 2) * 256)
    (s.putWords at' [w0, s.dcc]).bumpReg (dieReg die 0 0x8090)

/-- R385, R387: an error record: in the array's log, its count, the die's ring, and for HBM the fault-address queue. -/
def State.logError (s : State) (e : ErrSite) (ue lasting held : Bool) : State :=
  let d := e.die
  let lost := Tbl.get false s.ringLost d
  let w0 : Word := BitVec.ofNat 64
    ((if ue then 2 ^ 63 else 0) + (if lasting then 2 ^ 62 else 0) + (if lost then 2 ^ 61 else 0) +
      (if held then 2 ^ 60 else 0) + e.sub % 16 * 2 ^ 56 + e.array % 4096 * 2 ^ 44 + e.loc % 2 ^ 44)
  let ws := [w0, e.syndrome, e.gtid, s.dcc]
  let s := ((List.range 4).zip ws).foldl (fun s iw => s.setReg (dieReg d 0 (0x2000 + 32 * e.array + 8 * iw.1)) iw.2) s
  let s := s.bumpReg (dieReg d 0 (0x6000 + 16 * e.array + (if ue then 8 else 0)))
  let rd (o : Nat) := s.reg (dieReg d 0 o)
  let s :=
    if rd 0x48 = 0 then s
    else if rd 0x50 - rd 0x58 = rd 0x48 then { s with ringLost := Tbl.set false s.ringLost d true }
    else
      let s' := s.putWords ((rd 0x40).toNat + 32 * ((rd 0x50).toNat % (rd 0x48).toNat)) ws
      { s'.bumpReg (dieReg d 0 0x50) with ringLost := Tbl.set false s'.ringLost d false }
  if 0x100 ≤ e.array && (ue || lasting) then s.postFaultAddress d (d * 2 ^ 38 + e.loc % 2 ^ 38) ue else s

/-- The entry with the earliest start (R386). -/
def earliest (ts : List Track) : Option Track :=
  ts.foldl (fun b t => match b with
    | none => some t
    | some b => if t.start < b.start then some t else some b) none

/-- R386: the tracker counts a correctable error; its answer is LASTING. -/
def State.trackError (s : State) (e : ErrSite) : Bool × State :=
  let rd (o : Nat) := s.reg (dieReg e.die 0 o)
  let ts := Tbl.get [] s.trackers e.die
  let at' := if 0x100 ≤ e.array then e.loc / 32 * 32 else e.loc / 8 * 8
  let same (t : Track) : Bool := t.array = e.array && t.sub = e.sub && t.loc = at'
  let thr := max 1 ((rd 0x28).toNat % 256)
  let put (s : State) (ts : List Track) : State := { s with trackers := Tbl.set [] s.trackers e.die ts }
  let fresh : Track := { array := e.array, sub := e.sub, loc := at', start := s.dcc, count := 1 }
  match ts.find? same with
  | some t =>
    let t' := if s.dcc - t.start < rd 0x20 then { t with count := t.count + 1 } else fresh
    (thr ≤ t'.count, put s (ts.map fun t => if same t then t' else t))
  | none =>
    if ts.length < 256 then (thr ≤ 1, put s (ts ++ [fresh]))
    else match earliest ts with
      | none => (thr ≤ 1, put s (ts ++ [fresh]))
      | some v => (thr ≤ 1, (put s (ts.map fun t => if t = v then fresh else t)).bumpReg (dieReg e.die 0 0x30))

/-- R386: a correctable error: tracked, recorded; nothing else changes. -/
def State.noteCorrectable (s : State) (e : ErrSite) : State :=
  let (lasting, s) := s.trackError e
  s.logError e false lasting false

/-- R385: a line found uncorrectable in its slice: a clean line leaves the slice, a modified one is held. -/
def State.holdLine (s : State) (pa : Nat) : Bool × State :=
  let l := s.line pa
  if windowOf pa ≠ .hbm || !l.resident then (false, s)
  else if l.old.isEmpty then (false, (s.forgetLine pa).setLine pa { l with resident := false })
  else (true, s.setLine pa { l with held := true })

/-- R385: an uncorrectable error; `inSlice` where the line's copy in the slice has it. -/
def State.noteUncorrectable (s : State) (e : ErrSite) (inSlice : Bool) : State :=
  let (held, s) := if inSlice then s.holdLine e.pa else (false, s)
  s.logError e true false held

/-- R55: SYN of a syndrome. -/
def synOf (w : Word) : Nat :=
  let x := Word.field w 0 16 ^^^ Word.field w 16 16 ^^^ Word.field w 32 16 ^^^ Word.field w 48 16
  if x = 0xFFFF then 0xFFFE else x

/-- R55: word 4 of a MEMUE record found in local memory. -/
def memueDetail (pa : Nat) (syndrome : Word) : Word := BitVec.ofNat 64 (synOf syndrome * 2 ^ 48 + pa % 2 ^ 48)

/-- R383, R385: an access of task `g` reads the word in its place: a correctable error is corrected in place and recorded;
an uncorrectable one, or a held line, answers its syndrome (the spec leaves its value open). -/
def State.checkWord (s : State) (g : Gtid) (pa : Nat) : Option Word × State :=
  if (s.line pa).held then
    let (y, s) := s.drawFree
    (some y, s.logError (s.siteOf pa g y) true false true)
  else match s.errAt pa with
    | 0 => (none, s)
    | 1 =>
      let (y, s) := s.drawFree
      (none, (s.correct pa).noteCorrectable (s.siteOf pa g y))
    | _ =>
      let (y, s) := s.drawFree
      (some y, s.noteUncorrectable (s.siteOf pa g y) (s.line pa).resident)

/-- The first of some words that is uncorrectable, with its syndrome. -/
def State.checkWords (s : State) (g : Gtid) : List Nat → Option (Nat × Word) × State
  | [] => (none, s)
  | a :: r =>
    match s.checkWord g a with
    | (some y, s) => (some (a, y), s)
    | (none, s) => s.checkWords g r

/-- The address that word 4 of a MEMUE record gives: the atom of HBM, the word of a tile memory. -/
def ueAddr (pa : Nat) : Nat := if windowOf pa = .tile then pa / 8 * 8 else pa / 32 * 32

/-- R371: can a miss of an address install its line? -/
def State.roomFor (s : State) (pa : Nat) : Bool :=
  let rs := s.residents pa
  rs.length < 16 || (lruVictim rs).isSome

/-- R371, R383, R385: an access reaches the line of an address: a miss that is to allocate reads the line's four atoms first,
and installs nothing where one of them is bad; its address and syndrome are the answer. -/
def State.fetchLine (s : State) (g : Gtid) (pa : Nat) (noalloc : Bool) : Option (Nat × Word) × State :=
  let base := pa / 128 * 128
  let first := if windowOf pa = .hbm && !(s.line pa).resident && !noalloc && s.roomFor pa then [base, base + 32, base + 64, base + 96] else []
  match s.checkWords g first with
  | (some (a, y), s) => (some (ueAddr a, y), s.touchLine pa true)
  | (none, s) => (none, s.touchLine pa noalloc)

/-- An access reaches some words of a line: address and syndrome where it meets an uncorrectable error. -/
def State.reachWords (s : State) (g : Gtid) (pa : Nat) (noalloc : Bool) (ws : List Nat) : Option (Nat × Word) × State :=
  match s.fetchLine g pa noalloc with
  | (some e, s) => (some e, s)
  | (none, s) =>
    match s.checkWords g ws with
    | (some (a, y), s) => (some (ueAddr a, y), s)
    | (none, s) => (none, s)

/-- An access reaches one word. -/
def State.reachLine (s : State) (g : Gtid) (pa : Nat) (noalloc : Bool) : Option (Nat × Word) × State :=
  s.reachWords g pa noalloc [pa]

/-! ### The steps -/

/-- The places of the stored words that an error site names: an atom of HBM, a word of an SRAM array. -/
def siteCells (e : ErrSite) : List Cellar :=
  let cell (loc : Nat) : Cellar := { die := e.die, array := e.array, sub := e.sub, loc := loc }
  if 0x100 ≤ e.array then (List.range 4).map fun i => cell (e.loc / 32 * 32 + 8 * i) else [cell e.loc]

/-- R386. -/
def execCorrectableError (e : ErrSite) (s : State) : Out := .next (((siteCells e).foldl State.clearCell s).noteCorrectable e)

/-- The local HBM of a die in bytes (R474). -/
def hbmBytes : Nat := 2 ^ 38

/-- How an error stands in an atom of HBM, whatever its slice holds (R383). -/
def State.hbmErr (s : State) (pa : Nat) : Nat :=
  let n := ((List.range 4).map fun i => symbols (Tbl.get 0 s.flips (flipKey (hbmCell (pa / 32 * 32 + 8 * i))))).sum
  if n ≤ 1 then n else 2

/-- R383: the scrubber reads the next atom; an uncorrectable one posts a record with GTID 0 and faults nothing. -/
def execScrubRead (die : Nat) (s : State) : Out :=
  let d := die % 4
  if s.reg (dieReg d 0 0x38) = 0 then .next s
  else
    let a := Tbl.get 0 s.scrubAt d
    let pa := d * 2 ^ 38 + a
    let c := hbmCell pa
    let s := match s.hbmErr pa with
      | 0 => s
      | n =>
        let (y, s) := s.drawFree
        let e : ErrSite := { die := d, array := c.array, sub := 0, loc := a / 32 * 32, syndrome := y, gtid := 0, pa := pa }
        if n = 1 then ((siteCells e).foldl State.clearCell s).noteCorrectable e
        else s.logError e true false false
    .next { s with scrubAt := Tbl.set 0 s.scrubAt d ((a + 32) % hbmBytes) }

/-- R387: system software sets the error injection register of a die. -/
def execErrorInject (die : Nat) (v : Word) (s : State) : Out := .next (s.writeReg (dieReg die 0 0x80) v)

end Sys2Proof.Machine
end

