-- ==== Sys2Proof/Machine/Fabric.lean ====
section
/-! DEFINITION. The fabric's sending and receiving machinery: ports, flits, messages, pairs, acknowledgements and
encryption (R521 to R534, R554, R555). What became of a message its sender waits for is noted in `fab.answers`; the
sender's own chapter acts on it. -/

namespace Sys2Proof.Machine

/-! ### Ports and identity (R521, R522, R539) -/

/-- R521: the I/O die and the index of a port. -/
def portSide (p : Nat) : Nat × Nat :=
  if p < 16 then (0, p) else if p < 35 then (1, p - 16) else (0, 16)

/-- A register of block 3 of an I/O die. -/
def fabReg (side off : Nat) : Nat := ioReg side 3 off

def portReg (p off : Nat) : Nat := fabReg (portSide p).1 (0x4000 + 64 * (portSide p).2 + off)

def State.portUp (s : State) (p : Nat) : Bool := (s.reg (portReg p 0)).getLsbD 0 && (s.reg (portReg p 8)).getLsbD 0

/-- R522: the device's own identity, none while devid.V = 0. -/
def State.ownDev (s : State) : Option Nat :=
  let d := s.reg (fabReg 0 0x5000)
  if d.getLsbD 12 then some (Word.field d 0 12) else none

def State.port (s : State) (p : Nat) : Port := Tbl.get {} s.fab.ports p
def State.setPort (s : State) (p : Nat) (x : Port) : State :=
  { s with fab := { s.fab with ports := Tbl.set {} s.fab.ports p x } }
def State.tx (s : State) (dev : Nat) : PairTx := Tbl.get {} s.fab.tx dev
def State.setTx (s : State) (dev : Nat) (x : PairTx) : State := { s with fab := { s.fab with tx := Tbl.set {} s.fab.tx dev x } }
def State.rx (s : State) (dev : Nat) : PairRx := Tbl.get {} s.fab.rx dev
def State.setRx (s : State) (dev : Nat) (x : PairRx) : State := { s with fab := { s.fab with rx := Tbl.set {} s.fab.rx dev x } }

/-- What became of a message is noted for its sender. -/
def State.answer (s : State) (dev : Nat) (why : Purpose) (a : Answer) : State :=
  match why with
  | .none => s
  | why => { s with fab := { s.fab with answers := s.fab.answers ++ [(dev, why, a)] } }

/-! ### Bytes of messages and flits (R523, R526) -/

/-- The `n` little-endian bytes of a number (R6). -/
def leBytes (v : Nat) : Nat → List Byte
  | 0 => []
  | n + 1 => BitVec.ofNat 8 v :: leBytes (v / 256) n

/-- The number of little-endian bytes. -/
def leNat : List Byte → Nat
  | [] => 0
  | b :: r => b.toNat + 256 * leNat r

/-- Word 0 of a message header, with PATH as given (R526). -/
def msgHead (m : Msg) (path : Nat) : Word :=
  BitVec.ofNat 64 (m.src.toNat + m.dst.toNat * 2 ^ 12 + m.typ.toNat * 2 ^ 24 + m.vc.toNat * 2 ^ 32 +
    (if m.enc then 2 ^ 35 else 0) + path * 2 ^ 36 + (if m.kph then 2 ^ 39 else 0))

/-- Word 1 of a message header. -/
def msgWord1 (m : Msg) : Word := BitVec.ofNat 64 (m.seq.toNat + m.payload.length * 2 ^ 32)

def msgBytes (m : Msg) : List Byte :=
  leBytes (msgHead m m.path.toNat).toNat 8 ++ leBytes (msgWord1 m).toNat 8 ++ leBytes m.w2.toNat 8 ++ leBytes m.w3.toNat 8 ++ m.payload ++
    m.tag

/-- A message from its bytes, none where they are too few. -/
def msgParse (bs : List Byte) : Option Msg :=
  let w (i : Nat) : Word := BitVec.ofNat 64 (leNat ((bs.drop (8 * i)).take 8))
  let len := Word.field (w 1) 32 32
  let enc := (w 0).getLsbD 35
  if bs.length < 32 + len + (if enc then 16 else 0) then none
  else some
    { src := (w 0).extractLsb' 0 12, dst := (w 0).extractLsb' 12 12, typ := (w 0).extractLsb' 24 8,
      vc := (w 0).extractLsb' 32 3, path := (w 0).extractLsb' 36 3, enc := enc, kph := (w 0).getLsbD 39,
      seq := (w 1).extractLsb' 0 32, w2 := w 2, w3 := w 3, payload := (bs.drop 32).take len,
      tag := if enc then (bs.drop (32 + len)).take 16 else [] }

/-- One byte into the CRC-64 of ECMA-182, most significant bit first. -/
def crcByte (c : Word) (b : Byte) : Word :=
  (List.range 8).foldl (fun c _ => if c.getLsbD 63 then (c <<< 1) ^^^ 0x42F0E1EBA9EA3693 else c <<< 1)
    (c ^^^ (b.setWidth 64 <<< 56))

/-- R523. -/
def crc64 (bs : List Byte) : Word := bs.foldl crcByte 0

/-- A flit from its header and payload, the payload filled with zeros (R523). -/
def flitBytes (hdr : Word) (pl : List Byte) : List Byte :=
  let body := leBytes hdr.toNat 8 ++ (pl ++ List.replicate (240 - pl.length) 0)
  body ++ leBytes (crc64 body).toNat 8

/-- The header of a flit before its link sequence and FACK are known. -/
def flitHead (kind vc : Nat) (som eom nak : Bool) (cvc ccnt : Nat) : Nat :=
  (if nak then 2 ^ 24 else 0) + vc * 2 ^ 25 + (if som then 2 ^ 28 else 0) + (if eom then 2 ^ 29 else 0) + kind * 2 ^ 30 +
    cvc * 2 ^ 32 + ccnt * 2 ^ 35

/-- The payloads of a message's flits (fuel: its bytes). -/
def cut240 : Nat → List Byte → List (List Byte)
  | 0, _ => []
  | n + 1, bs => if bs.isEmpty then [] else bs.take 240 :: cut240 n (bs.drop 240)

/-- The flits of a message, without link sequences (R524: one VC, in order). -/
def msgFlits (m : Msg) : List (List Byte) :=
  let ps := cut240 (msgBytes m).length (msgBytes m)
  ((List.range ps.length).zip ps).map fun ip =>
    flitBytes (BitVec.ofNat 64 (flitHead 0 m.vc.toNat (ip.1 = 0) (ip.1 + 1 = ps.length) false 0 0)) ip.2

def flitHdr (bs : List Byte) : Word := BitVec.ofNat 64 (leNat (bs.take 8))
def flitVc (bs : List Byte) : Nat := Word.field (flitHdr bs) 25 3
def flitSeq (bs : List Byte) : Nat := Word.field (flitHdr bs) 0 12

/-- A flit takes its link sequence and the port's FACK as it is sent (R523, R525). -/
def stampFlit (p : Port) (bs : List Byte) : List Byte :=
  let h := (flitHdr bs).toNat / 2 ^ 24 * 2 ^ 24 + (p.expect + 4095) % 4096 * 2 ^ 12 + p.fseq
  flitBytes (BitVec.ofNat 64 h) ((bs.drop 8).take 240)

/-- A flit goes out: it is held for replay until FACK covers it (R525). -/
def Port.emit (p : Port) (bs : List Byte) : Port :=
  { p with replay := p.replay ++ [stampFlit p bs], fseq := (p.fseq + 1) % 4096 }

/-- R518: flits sent by a port count, by VC, saturating. -/
def State.countFlits (s : State) (n : Nat) (fs : List (List Byte)) : State :=
  let c := fs.foldl (fun t f =>
    let k := 8 * n + flitVc f
    Tbl.set 0 t k (min (2 ^ 32 - 1) (Tbl.get 0 t k + 1))) s.dbg.flits
  { s with dbg := { s.dbg with flits := c } }

/-- R524, R525: flits leave in order within their VC while the VC has credit and the replay buffer has room. `stuck` holds
the VCs of which a flit waits. -/
def pumpFlits (p : Port) (kept : List (List Byte)) (stuck : List Nat) : List (List Byte) → Port
  | [] => { p with queue := kept }
  | f :: r =>
    let vc := flitVc f
    let ctl := Word.field (flitHdr f) 30 2 = 1
    let cr := Tbl.get 64 p.credits vc
    if p.replay.length < 512 && (ctl || (cr ≠ 0 && !stuck.contains vc)) then
      pumpFlits ({ p with credits := if ctl then p.credits else Tbl.set 64 p.credits vc (cr - 1) }.emit f) kept stuck r
    else pumpFlits p (kept ++ [f]) (vc :: stuck) r

def State.pumpPort (s : State) (n : Nat) : State :=
  if s.portUp n then
    let p := s.port n
    let q := pumpFlits p [] [] p.queue
    (s.setPort n q).countFlits n (q.replay.drop p.replay.length)
  else s

/-- A message goes to a port: a link port takes its flits, a scale-out port its packets (R527, R538). -/
def State.transmit (s : State) (n : Nat) (m : Msg) : State :=
  let s := { s with fab := { s.fab with wire := (n, m) :: s.fab.wire } }
  if n < 32 then
    let p := s.port n
    (s.setPort n { p with queue := p.queue ++ msgFlits m }).pumpPort n
  else
    let frames := ((msgBytes m).length + 4095) / 4096
    let k := 8 * n
    { s with dbg := { s.dbg with flits := Tbl.set 0 s.dbg.flits k (min (2 ^ 32 - 1) (Tbl.get 0 s.dbg.flits k + frames)) } }

/-! ### Routes (R554, R555) -/

def State.xchOf (s : State) (die : Nat) : Xch := Tbl.get {} s.xch die
def State.setXch (s : State) (die : Nat) (x : Xch) : State := { s with xch := Tbl.set {} s.xch die x }
def State.modXch (s : State) (die : Nat) (h : Xch → Xch) : State := s.setXch die (h (s.xchOf die))

/-- The paths of a route entry: primary and fallback ports; none of either where the entry is invalid (R554). -/
def Xch.paths (x : Xch) (dev : Nat) : List Nat × List Nat :=
  let w (i : Nat) : Word := Tbl.get 0 x.route (4 * dev + i)
  let np := Word.field (w 2) 0 4
  let nf := Word.field (w 2) 4 4
  let p (i : Nat) (k : Nat) : Nat := Word.field (w i) (8 * k) 8
  let prim := (List.range np).map (p 0)
  let fb := (List.range nf).map (p 1)
  if np ≤ 8 && nf ≤ 8 && (prim ++ fb).all (· < 35) then (prim, fb) else ([], [])

/-- R527, R555: the path a message takes: its index in the entry and its first port. -/
def State.choosePath (s : State) (die dev psel : Nat) (fallback : Bool) (turn : Nat) : Option (Nat × Nat) :=
  let ps := ((s.xchOf die).paths dev)
  let l := if fallback then ps.2 else ps.1
  let idx := (List.range l.length).zip l
  let start := if psel = 0 then turn % max 1 l.length else if psel - 1 < l.length then psel - 1 else 0
  ((idx.drop start) ++ (idx.take start)).find? fun ip => s.portUp ip.2

/-- A sequenced message is sent, or sent again, by the next path; with none up it waits (R527, R529). -/
def State.sendOn (s : State) (dev : Nat) (x : Sent) : Sent × State :=
  let t := s.tx dev
  match s.choosePath x.die dev x.psel x.fallback t.turn with
  | none => (x, s)
  | some (i, port) =>
    let m := { x.msg with path := BitVec.ofNat 3 i }
    let s := s.setTx dev { t with turn := if x.psel = 0 then i + 1 else t.turn }
    ({ x with out := true, msg := m }, s.transmit port m)

/-! ### Encryption (R534) -/

/-- Word `i` of a peer's key entry. -/
def State.keyWord (s : State) (dev i : Nat) : Word := s.reg (fabReg 0 (0x100000 + 128 * dev + 8 * i))

/-- The key of a phase; none where it holds no key. -/
def State.keyOf (s : State) (dev : Nat) (phase : Bool) : Option (List Word) :=
  let k := (List.range 4).map fun i => s.keyWord dev ((if phase then 4 else 0) + i)
  if k.all (· = 0) then none else some k

/-- R534: the initial vector. -/
def msgIv (m : Msg) (seq64 : Nat) : BitVec 96 := m.src ++ m.dst ++ (0 : BitVec 8) ++ BitVec.ofNat 64 seq64

/-- R534: the authenticated data: the header with PATH 0. -/
def msgAad (m : Msg) : List Word := [msgHead m 0, msgWord1 m, m.w2, m.w3]

/-- R534: with TXE a message is sealed under the current phase. -/
def State.seal (s : State) (m : Msg) (seq64 : Nat) : Msg :=
  let dev := m.dst.toNat
  let ctl := s.keyWord dev 8
  if !ctl.getLsbD 0 then m
  else
    let m := { m with enc := true, kph := ctl.getLsbD 2 }
    let plain := if m.typ = 0x08 then [] else m.payload
    let (c, tag) := Config.gcmSeal ((s.keyOf dev m.kph).getD []) (msgIv m seq64) (msgAad m) plain
    { m with payload := if m.typ = 0x08 then m.payload else c, tag := tag }

/-- R534: a received message opened: none where it is discarded and counted in authfail. -/
def State.unseal (s : State) (m : Msg) (seq64 : Nat) : Option Msg :=
  let dev := m.src.toNat
  if !m.enc then (if (s.keyWord dev 8).getLsbD 1 then none else some m)
  else match s.keyOf dev m.kph with
    | none => none
    | some k =>
      let cipher := if m.typ = 0x08 then [] else m.payload
      match Config.gcmOpen k (msgIv m seq64) (msgAad m) cipher m.tag with
      | none => none
      | some p => some { m with payload := if m.typ = 0x08 then m.payload else p }

/-! ### Sending (R528 to R532) -/

/-- The agent and 128-byte line of a scalar message that keeps its order with the agent's earlier stores to the line
(R395, R532). -/
def Sent.agentLine (x : Sent) : Option (Gtid × Nat) :=
  match x.why with
  | .store g _ => some (g, x.msg.w2.toNat / 128)
  | .part g _ => if x.msg.typ = 0x02 || x.msg.typ = 0x04 then some (g, x.msg.w2.toNat / 128) else none
  | _ => none

/-- Does the message follow `y`, a plain store to its line (R532)? -/
def Sent.behind (x y : Sent) : Bool :=
  y.msg.typ = 0x01 && x.agentLine.isSome && y.agentLine = x.agentLine

/-- R528, R532: may the message be numbered now? -/
def PairTx.ready (t : PairTx) (x : Sent) : Bool := t.unacked.length < 4096 && !t.unacked.any x.behind

/-- Message types that a reply answers: load, atomic, get, permit request, dispatch (R526, R560). -/
def asksReply (typ : Nat) : Bool := typ = 0x02 || typ = 0x04 || typ = 0x13 || typ = 0x16 || typ = 0x18

/-- Numbers a message, seals it, and sends it. -/
def State.number (s : State) (dev : Nat) (x : Sent) : State :=
  let t := s.tx dev
  let m := s.seal { x.msg with seq := BitVec.ofNat 32 t.next } t.next
  let s := s.setTx dev { t with next := t.next + 1 }
  let (x, s) := s.sendOn dev { x with msg := m, seq64 := t.next, sentAt := s.dcc }
  let t := s.tx dev
  s.setTx dev { t with unacked := t.unacked ++ [x],
                       expects := if x.asks then t.expects ++ [(m.seq, x.why)] else t.expects }

/-- Waiting messages that may go are numbered and sent, in order (fuel: how many wait). -/
def State.pumpTx (s : State) (dev : Nat) : Nat → State
  | 0 => s
  | n + 1 =>
    let t := s.tx dev
    match t.waiting.find? t.ready with
    | none => s
    | some x => ((s.setTx dev { t with waiting := t.waiting.erase x }).number dev x).pumpTx dev n

/-- A message is handed to the message layer (R522, R528, R530). -/
def State.send (s : State) (die typ vc dev : Nat) (w2 w3 : Word) (pl : List Byte) (why : Purpose) (psel : Nat := 0)
    (fallback : Bool := false) (asks : Bool := asksReply typ) : State :=
  let own := s.ownDev.getD 0
  let m : Msg := { src := BitVec.ofNat 12 own, dst := BitVec.ofNat 12 dev, typ := BitVec.ofNat 8 typ, vc := BitVec.ofNat 3 vc,
                   w2 := w2, w3 := w3, payload := pl }
  let x : Sent := { msg := m, die := die, why := why, psel := psel, fallback := fallback, asks := asks }
  let t := s.tx dev
  if t.failed then s.answer dev why .failed
  else if s.ownDev.isSome && t.ready x && !t.waiting.any x.behind then s.number dev x
  else s.setTx dev { t with waiting := t.waiting ++ [x] }

/-- The 64-bit sequence count nearest to `near` with the given low 32 bits (R534). -/
def seqNear (near : Nat) (seq : BitVec 32) : Nat :=
  let d := (seq.toNat + 2 ^ 32 - near % 2 ^ 32) % 2 ^ 32
  if d < 2 ^ 31 then near + d else near + d - 2 ^ 32

/-- R529: the acknowledgement of a pair, sent without a sequence number. -/
def State.sendAck (s : State) (dev : Nat) : State :=
  match s.ownDev with
  | none => s
  | some own =>
    let r := s.rx dev
    let t := s.tx dev
    let bitmap := (List.range 64).foldl (fun b i => if r.got.contains (r.base + 1 + i) then b + 2 ^ i else b) 0
    let items := t.confirms.map (fun q => leBytes q.toNat 8) ++ r.bad.map (fun q => leBytes (q.toNat + 2 ^ 32) 8)
    let m : Msg := { src := BitVec.ofNat 12 own, dst := BitVec.ofNat 12 dev, typ := 0x08, vc := 2,
                     w2 := BitVec.ofNat 64 (r.base % 2 ^ 32), w3 := BitVec.ofNat 64 bitmap, payload := items.flatten }
    let s := (s.setRx dev { r with unacked := 0, bad := [] }).setTx dev { t with confirms := [] }
    match s.choosePath 0 dev 0 false t.turn with
    | none => s
    | some (i, port) => s.transmit port (s.seal { m with path := BitVec.ofNat 3 i } 0)

/-- R528: a message is marked performed; an acknowledgement goes out after 64 of them (R529). -/
def State.markPerformed (s : State) (dev : Nat) (seq64 : Nat) : State :=
  let r := s.rx dev
  let got := seq64 :: r.got
  let base := (List.range 4097).foldl (fun b _ => if got.contains b then b + 1 else b) r.base
  let s := s.setRx dev { r with base := base, got := got.filter (base ≤ ·), unacked := r.unacked + 1,
                                since := if r.unacked = 0 then s.dcc else r.since }
  if 64 ≤ r.unacked + 1 then s.sendAck dev else s

/-- R530: the destination is marked failed; every outstanding message to it fails. -/
def State.failDest (s : State) (dev : Nat) : State :=
  let t := s.tx dev
  let s := (s.setTx dev { t with failed := true, unacked := [], waiting := [], expects := [] }).bumpReg (fabReg 0 0x5030)
  let whys := (t.unacked ++ t.waiting).map (·.why) ++
    (t.expects.filter fun e => !t.unacked.any fun x => x.msg.seq = e.1).map (·.2)
  whys.foldl (fun s w => s.answer dev w .failed) s

/-- R531: the entries of a device's requests whose replies are confirmed are freed. -/
def freeReplies (c : Tbl (List CachedReply)) (dev : Nat) (qs : List Nat) : Tbl (List CachedReply) :=
  (c.map fun (e : Nat × List CachedReply) =>
    (e.1, e.2.filter fun (x : CachedReply) => !(x.src = dev && qs.contains x.seq.toNat))).filter fun e => !e.2.isEmpty

/-- R528, R529, R531: what an acknowledgement tells its receiver. -/
def State.takeAck (s : State) (m : Msg) : State :=
  let dev := m.src.toNat
  let t := s.tx dev
  let base := seqNear ((t.unacked.head?.map (·.seq64)).getD t.next) (m.w2.setWidth 32)
  let items := (List.range (m.payload.length / 8)).map fun i => leNat ((m.payload.drop (8 * i)).take 8)
  let bad (x : Sent) : Bool := items.contains (x.msg.seq.toNat + 2 ^ 32)
  let acked (x : Sent) : Bool := x.seq64 < base || (base < x.seq64 && m.w3.getLsbD (x.seq64 - base - 1))
  let done := t.unacked.filter acked
  let s := s.setTx dev { t with unacked := t.unacked.filter fun x => !acked x }
  let s := done.foldl (fun s x =>
    if x.asks then s else s.answer dev x.why (if bad x then .bad else .acked)) s
  let confirmed := items.filter (· < 2 ^ 32)
  let s := { s with fab := { s.fab with cache := freeReplies s.fab.cache dev confirmed } }
  s.pumpTx dev (s.tx dev).waiting.length

/-- A reply answers its request, once; its receipt is confirmed by the next acknowledgement (R531). Word 2 of a reply names
the request's sequence number (log entry 20). -/
def State.takeReply (s : State) (m : Msg) : State :=
  let dev := m.src.toNat
  let t := s.tx dev
  let q : BitVec 32 := m.w2.setWidth 32
  match t.expects.find? fun e => e.1 = q with
  | none => s
  | some e =>
    (s.setTx dev { t with expects := t.expects.filter (fun x => x.1 ≠ q), confirms := t.confirms ++ [q] }).answer dev e.2 (.reply m)

end Sys2Proof.Machine
end

