-- ==== Sys2Proof/Machine/L1d.lean ====
section
/-! DEFINITION. The L1D of a row: pending and owned words, registration, fills and evictions (R3, R132, R385, R391 to R394). -/

namespace Sys2Proof.Machine

/-- A word with the pending bytes of a store over it. -/
def overlay (w : Word) (p : L1Pend) : Word := (w &&& ~~~(byteMask p.mask)) ||| (p.data &&& byteMask p.mask)

/-- The pending bytes that a context has in a word. -/
def L1Word.pendOf (w : L1Word) (g : Gtid) : Option L1Pend := w.pend.find? fun p => p.g = g

/-- R391: a pending store of a word is registered: its bytes perform at the home, and the L1D owns the word. A home that finds
the word uncorrectable faults the store, which may be executed again (R385, R352). -/
def State.registerOne (s : State) (row pa : Nat) (p : L1Pend) : State :=
  let a := wordAddr pa
  let w := s.l1 row pa
  let s := s.setL1 row pa { w with pend := w.pend.filter fun q => q.g ≠ p.g }
  match s.reachLine p.g a (p.noalloc && !(s.line a).resident) with
  | (some (e, y), s) =>
    (s.modTask p.g fun t => { t with redo := t.redo ++ p.redo.toList }).takeRowFault p.g 8
      { unit := 0, code := cMEMUE, write := true, va := p.va, detail := memueDetail e y } ((p.redo.map (·.addr)).getD 0) false
  | (none, s) =>
    let s := s.homeWrite (some row) a 8 (overlay (s.memWord a) p).toNat
    s.setL1 row pa { s.l1 row pa with owned := true, owner := p.g, copy := none }

/-- The words of a line with pending stores of a row's context. -/
def State.pendWords (s : State) (row pa : Nat) (g : Gtid) : List (Nat × L1Pend) :=
  (List.range 16).filterMap fun i =>
    let a := pa / 128 * 128 + 8 * i
    ((s.l1 row a).pendOf g).map fun p => (a, p)

/-- R391, R132: the pending stores that a context has in a line are registered in one step, so that a store within one line
performs whole. -/
def State.registerLine (s : State) (row pa : Nat) (g : Gtid) : State :=
  (s.pendWords row pa g).foldl (fun s e => s.registerOne row e.1 e.2) s

/-- The contexts with pending stores in a word, oldest first. -/
def State.registerWord (s : State) (row pa : Nat) : State :=
  (s.l1 row pa).pend.foldl (fun s p => s.registerLine row pa p.g) s

/-- R394: every pending store of a context is registered. -/
def State.drainStores (s : State) (row : Nat) (g : Gtid) : State :=
  (s.l1d.filter fun e => e.1 / 2 ^ 48 = row && (e.2.pendOf g).isSome).foldl (fun s e => s.registerLine row (e.1 % 2 ^ 48) g) s

/-- R392: the L1D evicts a word: pending stores are registered first, and an owned word goes home. -/
def State.l1Evict (s : State) (row pa : Nat) : State :=
  let s := s.registerWord row pa
  let s := if (s.l1 row pa).owned then s.storedWord (s.cellOf pa) else s
  s.setL1 row pa {}

/-- The lines of which a row's L1D holds words. -/
def State.l1Lines (s : State) (row : Nat) : List Nat :=
  ((s.l1d.filter fun e => e.1 / 2 ^ 48 = row).map fun e => e.1 % 2 ^ 48 / 128).dedup

/-- R3: the L1D holds 64 KiB, 512 lines: one line more puts one out, which the spec leaves open. -/
def State.l1Bound (s : State) (row pa : Nat) : State :=
  let ls := (s.l1Lines row).filter (· ≠ pa / 128)
  if ls.length < 512 then s
  else
    let (y, s) := s.drawFree
    (List.range 16).foldl (fun s i => s.l1Evict row (ls.getD (y.toNat % ls.length) 0 * 128 + 8 * i)) s

/-- R391: the words of a line that the L1D does not hold are filled on a load miss; the error of the word that missed ends it
(R385), another word that is bad is not filled. -/
def State.fillLine (s : State) (row : Nat) (g : Gtid) (pa : Nat) (noalloc : Bool) : Option (Nat × Word) × State :=
  match (s.l1Bound row pa).reachLine g pa noalloc with
  | (some e, s) => (some e, s)
  | (none, s) =>
    (none, (List.range 16).foldl (fun s i =>
      let a := pa / 128 * 128 + 8 * i
      let w := s.l1 row a
      if w.owned || w.copy.isSome || (a ≠ wordAddr pa && 1 < s.errAt a) then s
      else s.setL1 row a { w with copy := some (s.memWord a) }) s)

/-- Does the L1D answer a load of a context without its home? -/
def L1Word.hit (w : L1Word) (g : Gtid) : Bool :=
  w.owned || w.copy.isSome || (w.pendOf g).any fun p => p.mask = BitVec.allOnes 8

/-- R391: the value of a word in the L1D as a load of a context sees it. -/
def State.l1Word (s : State) (row : Nat) (g : Gtid) (pa : Nat) : Word :=
  let w := s.l1 row pa
  let base := if w.owned then s.memWord pa else w.copy.getD (s.memWord pa)
  match w.pendOf g with
  | some p => overlay base p
  | none => base

/-- R391: a Spine load of a word, and the L1D after it; address and syndrome where a miss finds it uncorrectable. -/
def State.l1Load (s : State) (row : Nat) (g : Gtid) (pa : Nat) (noalloc : Bool) : Except (Nat × Word) Word × State :=
  if (s.l1 row pa).hit g then (.ok (s.l1Word row g pa), s)
  else match s.fillLine row g pa noalloc with
    | (some e, s) => (.error e, s)
    | (none, s) => (.ok (s.l1Word row g pa), s)

/-- The unowned copy of a word is dropped, so that the next load reads it anew. -/
def State.dropCopy (s : State) (row pa : Nat) : State := s.setL1 row pa { s.l1 row pa with copy := none }

/-- The bytes of a store to a word become pending for its context (R391). -/
def State.l1Pend (s : State) (row pa n v : Nat) (p : L1Pend) : State :=
  let w := s.l1 row pa
  let m : BitVec 8 := BitVec.ofNat 8 ((2 ^ n - 1) * 2 ^ (pa % 8))
  let d : Word := BitVec.ofNat 64 (v % 2 ^ (8 * n) * 2 ^ (8 * (pa % 8)))
  let old := (w.pendOf p.g).getD { p with mask := 0, data := 0 }
  let new := { p with mask := old.mask ||| m, data := (old.data &&& ~~~(byteMask m)) ||| d }
  s.setL1 row pa { w with pend := w.pend.filter (fun q => q.g ≠ p.g) ++ [new] }

/-- R391: a Spine store of bytes within one word: to an owned word it performs at once; else it is pending. `p` names its
context, address and syllable. -/
def State.l1Store (s : State) (row pa n v : Nat) (p : L1Pend) : State :=
  let w := s.l1 row pa
  if w.owned && (w.pendOf p.g).isNone then (s.setL1 row pa { w with owner := p.g }).performWrite (some row) pa n v
  else (s.l1Bound row pa).l1Pend row pa n v p

end Sys2Proof.Machine
end

