-- ==== Sys2Proof/Machine/Net.lean ====
section
/-! DEFINITION. The omega networks: stations, the ways of requests and replies, and how both are given to a network
(R323, R326, R369, R375, R470, R471). `Machine.Network` moves what is under way. -/

namespace Sys2Proof.Machine

/-! ### Stations (R369) and positions (R375) -/

def spineStation (row : Nat) : Nat := 4 * row
def bcStation (bc : Nat) : Nat := 48 + bc / 2
def xchStation : Nat := 57

/-- The station of the home of an address. -/
def homeStation (pa : Nat) : Nat := if windowOf pa = .tile then bcStation (paBc pa) else 32 + homeSlice pa

/-- Before each stage the link at position `p` moves to the position whose bits are `p` rotated left by one. -/
def rotl6 (p : Nat) : Nat := p * 2 % 64 + p / 32

/-- The output a message takes at stage `k`: bit 5 - k of the destination. -/
def destBit (dst k : Nat) : Nat := dst / 2 ^ (5 - k) % 2

/-- The position of a message before the switch of stage `k`, from station `src` to station `dst`; switch and input are
its half and its parity. -/
def netIn (src dst : Nat) : Nat → Nat
  | 0 => rotl6 src
  | k + 1 => rotl6 (netIn src dst k / 2 * 2 + destBit dst k)

/-- The position behind the switch of stage `k`. -/
def netOut (src dst k : Nat) : Nat := netIn src dst k / 2 * 2 + destBit dst k

/-- R471: the ways of a request from a station of die `a` to a station of die `b`: the horizontal bridge first, station 59,
then the vertical one, station 60. -/
def legsTo (a src b dst : Nat) : List Leg :=
  if a = b then [⟨a, src, dst⟩]
  else if a % 2 = b % 2 then [⟨a, src, 60⟩, ⟨b, 60, dst⟩]
  else if a / 2 = b / 2 then [⟨a, src, 59⟩, ⟨b, 59, dst⟩]
  else [⟨a, src, 59⟩, ⟨a ^^^ 1, 59, 60⟩, ⟨b, 60, dst⟩]

/-! ### Giving messages to a network -/

def State.netOf (s : State) (die : Nat) : Net := Tbl.get {} s.nets die

def State.setNet (s : State) (die : Nat) (n : Net) : State := { s with nets := Tbl.set {} s.nets die n }

def State.modNet (s : State) (die : Nat) (h : Net → Net) : State := s.setNet die (h (s.netOf die))

/-- A request stands at the station where its present way begins. -/
def State.putReq (s : State) (r : Req) : State :=
  match r.legs with
  | [] => s
  | l :: _ => s.modNet l.die fun n => { n with out0 := Tbl.set [] n.out0 l.src (Tbl.get [] n.out0 l.src ++ [r]) }

/-- A reply stands at the station where its present way back begins. -/
def State.putRep (s : State) (x : Rep) : State :=
  match x.legs with
  | [] => s
  | l :: _ => s.modNet l.die fun n => { n with out1 := Tbl.set [] n.out1 l.dst (Tbl.get [] n.out1 l.dst ++ [x]) }

/-- A request leaves a station for its home. -/
def State.sendReq (s : State) (die src : Nat) (r : Req) : State :=
  s.putReq { r with legs := legsTo die src (paDie r.pa) (homeStation r.pa), back := [] }

/-- R323, R326: a request of a thread enters the queue of its BC. -/
def State.sendBc (s : State) (k : Nat) (r : Req) : State :=
  { s with bcQueues := Tbl.set [] s.bcQueues k (Tbl.get [] s.bcQueues k ++ [r]) }

/-- The entries of a BC's request queue that are taken: one for each word; `since` counts those of a request's words that
have left (R323, R326). -/
def State.bcQueued (s : State) (k : Nat) : Nat :=
  ((Tbl.get [] s.bcQueues k).map fun r => r.tail.length + 1 - r.since).sum

/-! ### Requests that meet a test -/

/-- The requests of a network that stand somewhere on their way out, those that another stands for among them (R377). -/
def Net.reqs (n : Net) : List Req :=
  (n.out0.map (·.2)).flatten ++ (n.fwd.map (·.2)).flatten ++ ((n.comb.map (·.2)).flatten).map (·.r1)

/-- Is nothing under way in a network? -/
def Net.idle (n : Net) : Bool := n.out0.isEmpty && n.out1.isEmpty && n.fwd.isEmpty && n.rev.isEmpty && n.comb.isEmpty

/-- R421: does nothing stand in any network, bridge or queue? -/
def State.netIdle (s : State) : Bool :=
  s.queues.all (fun q => q.2.isEmpty) && s.bcQueues.all (fun q => q.2.isEmpty) && s.bridges.isEmpty && s.nets.all fun e => e.2.idle

def Crossing.isReq (c : Crossing) (p : Req → Bool) : Bool :=
  match c.msg with
  | .inl r => p r
  | .inr _ => false

/-- Does a request that meets a test stand anywhere on its way to its home, or in the home's queue? -/
def State.anyMoving (s : State) (p : Req → Bool) : Bool :=
  s.queues.any (fun e => e.2.any p) || s.bcQueues.any (fun e => e.2.any p) || s.bridges.any (fun c => c.isReq p) ||
    s.nets.any fun e => e.2.reqs.any p

/-- Does a request that meets a test stand anywhere before its home has performed it? -/
def State.anyReq (s : State) (p : Req → Bool) : Bool := s.waits.any p || s.anyMoving p

end Sys2Proof.Machine
end

