-- ==== Sys2Proof/Machine/Num.lean ====
section
/-! DEFINITION. Number formats and exact arithmetic (R154 to R181): decoding, the one rounding, the special values, and
the sticky flags each operation raises. A result is its bits and its flags; flags stand where fmode has them (R35). -/

namespace Sys2Proof.Machine

/-! ### Formats (R89, R154, R155) -/

/-- A float format: exponent and mantissa widths, bias, its infinity and NaN encodings. -/
structure FloatFmt where
  ebits : Nat
  mbits : Nat
  bias : Nat
  hasInf : Bool          -- infinities and NaNs as IEEE 754
  hasNan : Bool          -- E4M3 has NaN without infinity; E2M1 neither
  canonNan : Nat
  deriving DecidableEq, Repr

/-- The float format of a code (R89, R154); FP32 where the code is none. -/
def floatFmt (code : Nat) : FloatFmt :=
  match code with
  | 1 => { ebits := 11, mbits := 52, bias := 1023, hasInf := true, hasNan := true, canonNan := 0x7FF8000000000000 }
  | 3 => { ebits := 8, mbits := 7, bias := 127, hasInf := true, hasNan := true, canonNan := 0x7FC0 }
  | 4 => { ebits := 5, mbits := 10, bias := 15, hasInf := true, hasNan := true, canonNan := 0x7E00 }
  | 5 => { ebits := 4, mbits := 3, bias := 7, hasInf := false, hasNan := true, canonNan := 0x7F }
  | 6 => { ebits := 5, mbits := 2, bias := 15, hasInf := true, hasNan := true, canonNan := 0x7E }
  | 7 => { ebits := 2, mbits := 1, bias := 1, hasInf := false, hasNan := false, canonNan := 0 }
  | _ => { ebits := 8, mbits := 23, bias := 127, hasInf := true, hasNan := true, canonNan := 0x7FC00000 }

/-- Element bits of a format code (R89); 0 where the code names no format. -/
def fmtBits (code : Nat) : Nat :=
  match code with
  | 1 => 64
  | 2 => 32
  | 3 => 16
  | 4 => 16
  | 5 => 8
  | 6 => 8
  | 7 => 4
  | 8 => 8
  | 9 => 32
  | _ => 0

def isFloatCode (code : Nat) : Bool := 1 ≤ code && code ≤ 7
def isIntCode (code : Nat) : Bool := code = 8 || code = 9

namespace FloatFmt

def width (F : FloatFmt) : Nat := 1 + F.ebits + F.mbits

/-- The exponent of the smallest normal. -/
def emin (F : FloatFmt) : Int := 1 - F.bias

/-- The largest exponent code of a finite value. -/
def maxE (F : FloatFmt) : Nat := if F.hasInf then 2 ^ F.ebits - 2 else 2 ^ F.ebits - 1

/-- The largest mantissa at that exponent: E4M3 gives its last encoding to NaN. -/
def maxM (F : FloatFmt) : Nat := if F.hasInf || !F.hasNan then 2 ^ F.mbits - 1 else 2 ^ F.mbits - 2

def signBit (F : FloatFmt) (neg : Bool) : Nat := if neg then 2 ^ (F.ebits + F.mbits) else 0

/-- The largest finite value of a sign. -/
def maxBits (F : FloatFmt) (neg : Bool) : Nat := F.signBit neg + F.maxE * 2 ^ F.mbits + F.maxM

def infBits (F : FloatFmt) (neg : Bool) : Nat := F.signBit neg + (2 ^ F.ebits - 1) * 2 ^ F.mbits

end FloatFmt

/-! ### Values -/

/-- A decoded float: a finite value (-1)^neg × m × 2^e, an infinity, or a NaN. -/
inductive FVal where
  | fin (neg : Bool) (m : Nat) (e : Int)
  | inf (neg : Bool)
  | nan (signalling : Bool)
  deriving DecidableEq, Repr

/-- R154, R155: the value of an encoding. -/
def fDecode (F : FloatFmt) (b : Nat) : FVal :=
  let neg := b.testBit (F.ebits + F.mbits)
  let E := b / 2 ^ F.mbits % 2 ^ F.ebits
  let M := b % 2 ^ F.mbits
  if F.hasInf && E = 2 ^ F.ebits - 1 then
    if M = 0 then .inf neg else .nan (!M.testBit (F.mbits - 1))
  else if F.hasNan && !F.hasInf && E = 2 ^ F.ebits - 1 && M = 2 ^ F.mbits - 1 then .nan false
  else if E = 0 then .fin neg M (F.emin - F.mbits)
  else .fin neg (2 ^ F.mbits + M) (E - F.bias - F.mbits)

/-- The sign of an encoding. -/
def fSign (F : FloatFmt) (b : Nat) : Bool := b.testBit (F.ebits + F.mbits)

/-! ### Flags (R35, R173) -/

def fNV : Word := 16
def fDZ : Word := 32
def fOF : Word := 64
def fUF : Word := 128
def fNX : Word := 256

/-- A result: its bits and the flags it raises. -/
structure FRes where
  bits : Nat
  flags : Word := 0
  deriving DecidableEq, Repr

/-! ### Rounding (R169, R170, R173) -/

/-- Does the mode round the magnitude up? `odd`: the kept part is odd; `half`: how the rest compares with half a unit
(R169). -/
def roundsUp (mode : Nat) (neg odd : Bool) (half : Ordering) (exact : Bool) : Bool :=
  match mode with
  | 0 => half = .gt || (half = .eq && odd)
  | 1 => false
  | 2 => neg && !exact
  | 3 => !neg && !exact
  | _ => half ≠ .lt

/-- The magnitude num / den, or a little above it when `sticky`, in units of 2^q, rounded to an integer; with whether
that was exact. -/
def roundUnits (mode : Nat) (neg : Bool) (num den : Nat) (sticky : Bool) (q : Int) : Nat × Bool :=
  let n := if q < 0 then num * 2 ^ (-q).toNat else num
  let d := if q < 0 then den else den * 2 ^ q.toNat
  let k := n / d
  let r := n % d
  let exact := r = 0 && !sticky
  let half := if 2 * r < d then Ordering.lt else if 2 * r = d && !sticky then Ordering.eq else Ordering.gt
  ((if roundsUp mode neg (k % 2 = 1) half exact then k + 1 else k), exact)

/-- ⌊log₂ (num / den)⌋ of a positive rational. -/
def ratLog (num den : Nat) : Int :=
  let e : Int := (Nat.log2 num : Int) - Nat.log2 den
  let below := if e < 0 then num * 2 ^ (-e).toNat < den else num < den * 2 ^ e.toNat
  if below then e - 1 else e

/-- The encoding of the finite magnitude m × 2^q, where m is below 2^(mbits+1) + 1 and q is at least the subnormal
exponent. -/
def encodeFin (F : FloatFmt) (neg : Bool) (m : Nat) (q : Int) : Nat :=
  F.signBit neg +
    (if m < 2 ^ F.mbits then m
     else if m = 2 ^ (F.mbits + 1) then ((q + F.mbits + F.bias).toNat + 1) * 2 ^ F.mbits
     else (q + F.mbits + F.bias).toNat * 2 ^ F.mbits + (m - 2 ^ F.mbits))

/-- Does the magnitude m × 2^q exceed the largest finite value? -/
def exceedsMax (F : FloatFmt) (m : Nat) (q : Int) : Bool :=
  let M := 2 ^ F.mbits + F.maxM
  let e : Int := (F.maxE : Int) - F.bias - F.mbits
  if q < e then M * 2 ^ (e - q).toNat < m else M < m * 2 ^ (q - e).toNat

/-- R170: the result of an overflow; `sat` where a conversion saturates. The mode decides where SAT is 0 (R170 over R122; DEDUCED,
log entry 33). -/
def overflowBits (F : FloatFmt) (mode : Nat) (neg sat : Bool) : Nat :=
  let toInf := match mode with
    | 0 => true
    | 1 => false
    | 2 => neg
    | 3 => !neg
    | _ => true
  if !toInf then F.maxBits neg
  else if sat then F.maxBits neg
  else if F.hasInf then F.infBits neg
  else if F.hasNan then F.canonNan
  else F.maxBits neg

/-- R169, R170, R173: rounds the value of sign `neg` and magnitude num / den (a little above it when `sticky`) to `F`.
A magnitude of zero gives the zero of that sign. -/
def roundRat (F : FloatFmt) (mode : Nat) (sat neg : Bool) (num den : Nat) (sticky : Bool) : FRes :=
  if num = 0 && !sticky then { bits := F.signBit neg }
  else
    let lo := F.emin - F.mbits
    let e := if num = 0 then lo - 4 else ratLog num den
    let q := if e - F.mbits < lo then lo else e - F.mbits
    let (m, exact) := roundUnits mode neg num den sticky q
    if exceedsMax F m q then { bits := overflowBits F mode neg sat, flags := fOF ||| fNX }
    else
      let free := (roundUnits mode neg num den sticky (e - F.mbits)).1
      let tiny := e < F.emin && !(free = 2 ^ (F.mbits + 1) && e = F.emin - 1)
      { bits := encodeFin F neg m q,
        flags := if exact then 0 else if tiny then fUF ||| fNX else fNX }

/-- Rounds the exact value m × 2^e; a zero takes the sign `zneg`. -/
def roundDyadic (F : FloatFmt) (mode : Nat) (sat : Bool) (m : Int) (e : Int) (zneg : Bool) : FRes :=
  if m = 0 then { bits := F.signBit zneg }
  else if e < 0 then roundRat F mode sat (m < 0) m.natAbs (2 ^ (-e).toNat) false
  else roundRat F mode sat (m < 0) (m.natAbs * 2 ^ e.toNat) 1 false

/-- The canonical NaN, with NV for an invalid operation (R155, R173). -/
def nanRes (F : FloatFmt) (nv : Bool) : FRes := { bits := F.canonNan, flags := if nv then fNV else 0 }

def infRes (F : FloatFmt) (neg : Bool) : FRes := { bits := F.infBits neg }

def FVal.isNan : FVal → Bool
  | .nan _ => true
  | _ => false

def FVal.isSnan : FVal → Bool
  | .nan q => q
  | _ => false

/-- The signed mantissa of a finite value. -/
def sgn (neg : Bool) (m : Nat) : Int := if neg then -(m : Int) else m

/-- The sum of two dyadic numbers, at the lower exponent. -/
def dyAdd (m1 e1 m2 e2 : Int) : Int × Int :=
  if e1 ≤ e2 then (m1 + m2 * 2 ^ (e2 - e1).toNat, e1) else (m1 * 2 ^ (e1 - e2).toNat + m2, e2)

/-- R171: the sign of an exact zero sum. -/
def zeroSumSign (mode : Nat) (n1 n2 : Bool) : Bool := if n1 = n2 then n1 else mode = 2

/-- x + y, rounded once (R120, R169, R171, R173). -/
def fAdd (F : FloatFmt) (mode : Nat) (x y : FVal) : FRes :=
  match x, y with
  | .nan a, y => nanRes F (a || y.isSnan)
  | x, .nan b => nanRes F (b || x.isSnan)
  | .inf a, .inf b => if a = b then infRes F a else nanRes F true
  | .inf a, .fin .. => infRes F a
  | .fin .., .inf b => infRes F b
  | .fin n1 m1 e1, .fin n2 m2 e2 =>
    let (m, e) := dyAdd (sgn n1 m1) e1 (sgn n2 m2) e2
    roundDyadic F mode false m e (if m1 = 0 && m2 = 0 then zeroSumSign mode n1 n2 else mode = 2)

def FVal.neg : FVal → FVal
  | .fin n m e => .fin (!n) m e
  | .inf n => .inf (!n)
  | .nan q => .nan q

/-- x × y. -/
def fMul (F : FloatFmt) (mode : Nat) (x y : FVal) : FRes :=
  match x, y with
  | .nan a, y => nanRes F (a || y.isSnan)
  | x, .nan b => nanRes F (b || x.isSnan)
  | .inf a, .inf b => infRes F (a != b)
  | .inf a, .fin n m _ => if m = 0 then nanRes F true else infRes F (a != n)
  | .fin n m _, .inf b => if m = 0 then nanRes F true else infRes F (n != b)
  | .fin n1 m1 e1, .fin n2 m2 e2 => roundDyadic F mode false (sgn (n1 != n2) (m1 * m2)) (e1 + e2) (n1 != n2)

/-- x / y. -/
def fDiv (F : FloatFmt) (mode : Nat) (x y : FVal) : FRes :=
  match x, y with
  | .nan a, y => nanRes F (a || y.isSnan)
  | x, .nan b => nanRes F (b || x.isSnan)
  | .inf _, .inf _ => nanRes F true
  | .inf a, .fin n _ _ => infRes F (a != n)
  | .fin n _ _, .inf b => { bits := F.signBit (n != b) }
  | .fin n1 m1 e1, .fin n2 m2 e2 =>
    if m2 = 0 then
      if m1 = 0 then nanRes F true else { bits := F.infBits (n1 != n2), flags := fDZ }
    else
      let e := e1 - e2
      roundRat F mode false (n1 != n2) (if e < 0 then m1 else m1 * 2 ^ e.toNat) (if e < 0 then m2 * 2 ^ (-e).toNat else m2) false

/-- The integer square root of `n`, given `k` with n < 4^k: one result bit a step. -/
def isqrtBits (n : Nat) : Nat → Nat → Nat
  | 0, r => r
  | k + 1, r =>
    let c := r + 2 ^ k
    isqrtBits n k (if c * c ≤ n then c else r)

def isqrt (n : Nat) : Nat := isqrtBits n (Nat.log2 n / 2 + 1) 0

/-- The square root of num / den rounded down to a multiple of 2^-k, and whether it is inexact. -/
def sqrtRat (num den k : Nat) : Nat × Bool :=
  let r := isqrt (num * 2 ^ (2 * k) / den)
  (r, r * r * den ≠ num * 2 ^ (2 * k))

/-- A positive dyadic as a fraction. -/
def dyFrac (m : Nat) (e : Int) : Nat × Nat := if e < 0 then (m, 2 ^ (-e).toNat) else (m * 2 ^ e.toNat, 1)

/-- Binary places that keep any rounding of a square root of these values exact: more than twice the precision beyond
its leading bit. -/
def rootPlaces (num den : Nat) : Nat := 160 + (if num < den then Nat.log2 den - Nat.log2 num else 0)

/-- √x (R120, R193, R194). -/
def fSqrt (F : FloatFmt) (mode : Nat) (x : FVal) : FRes :=
  match x with
  | .nan a => nanRes F a
  | .inf n => if n then nanRes F true else infRes F false
  | .fin n m e =>
    if m = 0 then { bits := F.signBit n }
    else if n then nanRes F true
    else
      let (p, q) := dyFrac m e
      let k := rootPlaces p q
      let (r, sticky) := sqrtRat p q k
      roundRat F mode false false r (2 ^ k) sticky

/-- x × y + z with one rounding (R120, R192). -/
def fFma (F : FloatFmt) (mode : Nat) (x y z : FVal) : FRes :=
  let invalidProduct := match x, y with
    | .inf _, .fin _ m _ => m = 0
    | .fin _ m _, .inf _ => m = 0
    | _, _ => false
  if x.isNan || y.isNan || z.isNan then nanRes F (x.isSnan || y.isSnan || z.isSnan || invalidProduct)
  else if invalidProduct then nanRes F true
  else
    match x, y, z with
    | .fin n1 m1 e1, .fin n2 m2 e2, .fin n3 m3 e3 =>
      let (m, e) := dyAdd (sgn (n1 != n2) (m1 * m2)) (e1 + e2) (sgn n3 m3) e3
      roundDyadic F mode false m e (if m1 * m2 = 0 && m3 = 0 then zeroSumSign mode (n1 != n2) n3 else mode = 2)
    | .fin .., .fin .., .inf c => infRes F c
    | x, y, z =>
      let s (v : FVal) : Bool := match v with
        | .fin n _ _ => n
        | .inf n => n
        | .nan _ => false
      let p := s x != s y
      match z with
      | .inf c => if c = p then infRes F p else nanRes F true
      | _ => infRes F p

/-! ### Comparison (R120, R121) -/

/-- The order of two values; `none` where one is a NaN. Zeros of either sign are equal. -/
def fCompare (x y : FVal) : Option Ordering :=
  match x, y with
  | .nan _, _ => none
  | _, .nan _ => none
  | .inf a, .inf b => some (if a = b then .eq else if a then .lt else .gt)
  | .inf a, .fin .. => some (if a then .lt else .gt)
  | .fin .., .inf b => some (if b then .gt else .lt)
  | .fin n1 m1 e1, .fin n2 m2 e2 =>
    let d := (dyAdd (sgn n1 m1) e1 (-(sgn n2 m2)) e2).1
    some (if d < 0 then .lt else if d = 0 then .eq else .gt)

/-- Is x below y, with -0 below +0? -/
def fLess (F : FloatFmt) (x y : Nat) : Bool :=
  match fCompare (fDecode F x) (fDecode F y) with
  | some .lt => true
  | some .eq => fSign F x && !fSign F y
  | _ => false

/-- minimumNumber and maximumNumber (R120). -/
def fMinMax (F : FloatFmt) (isMax : Bool) (x y : Nat) : FRes :=
  let a := fDecode F x
  let b := fDecode F y
  let nv := if a.isSnan || b.isSnan then fNV else 0
  if a.isNan && b.isNan then { bits := F.canonNan, flags := nv }
  else if a.isNan then { bits := y % 2 ^ F.width, flags := nv }
  else if b.isNan then { bits := x % 2 ^ F.width, flags := nv }
  else { bits := (if fLess F x y != isMax then x else y) % 2 ^ F.width }

/-- The compare conditions of FCMP and VCMP (R121, R196). -/
inductive FCond where
  | eq | lt | le | un | ne
  deriving DecidableEq, Repr

/-- A float compare: its truth and its flags (R121, R196). -/
def fCmp (F : FloatFmt) (c : FCond) (x y : Nat) : Bool × Word :=
  let a := fDecode F x
  let b := fDecode F y
  let snan := a.isSnan || b.isSnan
  match fCompare a b with
  | none =>
    match c with
    | .eq => (false, if snan then fNV else 0)
    | .ne => (true, if snan then fNV else 0)
    | .un => (true, if snan then fNV else 0)
    | .lt => (false, fNV)
    | .le => (false, fNV)
  | some o =>
    match c with
    | .eq => (o = .eq, 0)
    | .ne => (o ≠ .eq, 0)
    | .un => (false, 0)
    | .lt => (o = .lt, 0)
    | .le => (o ≠ .gt, 0)

/-! ### Conversions (R122, R175, R173) -/

/-- R175: a float value converted to format `G`. -/
def fConvert (G : FloatFmt) (mode : Nat) (sat : Bool) (x : FVal) : FRes :=
  match x with
  | .nan q =>
    if G.hasNan then nanRes G q else { bits := 0, flags := fNV }
  | .inf n =>
    if G.hasInf then infRes G n
    else if G.hasNan then { bits := if sat then G.maxBits n else G.canonNan, flags := fNV }
    else { bits := G.maxBits n, flags := fNV }
  | .fin n m e => roundDyadic G mode sat (sgn n m) e n

/-- An exact dyadic rounded to an integer under a mode; with whether it was exact. -/
def roundInt (mode : Nat) (neg : Bool) (m : Nat) (e : Int) : Int × Bool :=
  let (p, q) := dyFrac m e
  let (k, exact) := roundUnits mode neg p q false 0
  (sgn neg k, exact)

/-- A value rounded to an integer within bounds: NaN gives 0, outside gives the nearest bound, both with NV (R122,
R173). -/
def fToInt (mode : Nat) (lo hi : Int) (x : FVal) : Int × Word :=
  match x with
  | .nan _ => (0, fNV)
  | .inf n => (if n then lo else hi, fNV)
  | .fin n m e =>
    let (k, exact) := roundInt mode n m e
    if k < lo then (lo, fNV ||| fNX) else if hi < k then (hi, fNV ||| fNX) else (k, if exact then 0 else fNX)

/-- An integer converted to a float format (R122, R199). -/
def fFromInt (G : FloatFmt) (mode : Nat) (sat : Bool) (k : Int) : FRes := roundDyadic G mode sat k 0 false

/-! ### Functions of a real (R193, R194): an exact value just above a fraction with 320 binary places -/

/-- Binary places of the functions below. -/
def funPlaces : Nat := 320

/-- A bound, in units of 2^-320, of what the truncated series below leave out of e^-x. -/
def funSlack : Nat := 2 ^ 24

/-- ln 2 in units of 2^-p, rounded down term by term: Σ 1 / (k 2^k) for k from `k` down. -/
def ln2Sum (p : Nat) : Nat → Nat
  | 0 => 0
  | k + 1 => 2 ^ p / ((k + 1) * 2 ^ (k + 1)) + ln2Sum p k

def ln2Fix (p : Nat) : Nat := ln2Sum p p

/-- Σ t^j / j! from term `j` on, all in units of 2^-p. -/
def expSum (p t : Nat) : Nat → Nat → Nat → Nat
  | 0, _, _ => 0
  | n + 1, j, term => term + expSum p t n (j + 1) (term * t / ((j + 1) * 2 ^ p))

/-- e^(t / 2^p) in units of 2^-p for 0 ≤ t < 2^p, rounded down. -/
def expFix (p t : Nat) : Nat := expSum p t 90 0 (2 ^ p)

/-- 2^(f / 2^p) in units of 2^-p for 0 ≤ f < 2^p, rounded down. -/
def exp2Fix (p f : Nat) : Nat := expFix p (f * ln2Fix p / 2 ^ p)

/-- Σ z^(2j+1) / (2j+1) in units of 2^-p. -/
def atanhSum (p zz : Nat) : Nat → Nat → Nat → Nat
  | 0, _, _ => 0
  | n + 1, j, pow => pow / (2 * j + 1) + atanhSum p zz n (j + 1) (pow * zz / 2 ^ p)

/-- ln (a / b) in units of 2^-p for a / b from 1 to 3/2, rounded down. -/
def lnFix (p a b : Nat) : Nat :=
  let z := 2 ^ p * (a - b) / (a + b)
  2 * atanhSum p (z * z / 2 ^ p) 140 0 z

/-- The whole and fractional parts, in units of 2^-p, of |x| / ln 2 (the exponent of e^|x| in base 2). -/
def toBase2 (p num den : Nat) : Nat := num * 2 ^ (2 * p) / (den * ln2Fix p)

/-- e^-(num/den) as a fraction over 2^(p + n): its numerator and n; 0 < num/den. -/
def expNeg (p num den : Nat) : Nat × Nat :=
  let t := toBase2 p num den
  let n := t / 2 ^ p + 1
  (exp2Fix p (2 ^ p - 1 - t % 2 ^ p), n)

/-- 1 / x (R194). -/
def fRcp (F : FloatFmt) (mode : Nat) (x : FVal) : FRes := fDiv F mode (.fin false 1 0) x

/-- 1 / √x (R194): zero of either sign gives an infinity of that sign with DZ. -/
def fRsq (F : FloatFmt) (mode : Nat) (x : FVal) : FRes :=
  match x with
  | .nan a => nanRes F a
  | .inf n => if n then nanRes F true else { bits := 0 }
  | .fin n m e =>
    if m = 0 then { bits := F.infBits n, flags := fDZ }
    else if n then nanRes F true
    else
      let (p, q) := dyFrac m e
      let k := rootPlaces q p
      let (r, sticky) := sqrtRat q p k
      roundRat F mode false false r (2 ^ k) sticky

/-- 2^x (R194). An exponent beyond 4,096 in magnitude acts as 4,096: it overflows or underflows every format. -/
def fExp2 (F : FloatFmt) (mode : Nat) (x : FVal) : FRes :=
  match x with
  | .nan a => nanRes F a
  | .inf n => if n then { bits := 0 } else infRes F false
  | .fin n m e =>
    let (p, q) := dyFrac m e
    if m = 0 then roundRat F mode false false 1 1 false
    else if 4096 * q < p then
      (if n then roundRat F mode false false 1 (2 ^ 4096) true else roundRat F mode false false (2 ^ 4096) 1 true)
    else
      let w := p / q
      let f := p % q * 2 ^ funPlaces / q
      if p % q = 0 then (if n then roundRat F mode false false 1 (2 ^ w) false else roundRat F mode false false (2 ^ w) 1 false)
      else if n then roundRat F mode false false (exp2Fix funPlaces (2 ^ funPlaces - f)) (2 ^ (funPlaces + w + 1)) true
      else roundRat F mode false false (exp2Fix funPlaces f * 2 ^ w) (2 ^ funPlaces) true

/-- log₂ x (R194): x is 2^k × y with y in [3/4, 3/2). -/
def fLog2 (F : FloatFmt) (mode : Nat) (x : FVal) : FRes :=
  match x with
  | .nan a => nanRes F a
  | .inf n => if n then nanRes F true else infRes F false
  | .fin n m e =>
    if m = 0 then { bits := F.infBits true, flags := fDZ }
    else if n then nanRes F true
    else
      let l := Nat.log2 m
      let k0 : Int := l + e
      if m = 2 ^ l then roundDyadic F mode false k0 0 false
      else
        let up := 3 * 2 ^ l ≤ 2 * m
        let k := if up then k0 + 1 else k0
        let ln2 := ln2Fix funPlaces
        if up then
          -- y = m / 2^(l+1) below 1: log₂ y is negative
          let frac := lnFix funPlaces (2 ^ (l + 1)) m * 2 ^ funPlaces / ln2
          let v : Int := k * 2 ^ funPlaces - frac
          -- the magnitude of log₂ y is a little above frac, so v lies a little above the true value
          if 0 < v then roundRat F mode false false (v.toNat - 1) (2 ^ funPlaces) true
          else roundRat F mode false true v.natAbs (2 ^ funPlaces) true
        else
          let frac := lnFix funPlaces m (2 ^ l) * 2 ^ funPlaces / ln2
          let v : Int := k * 2 ^ funPlaces + frac
          if 0 ≤ v then roundRat F mode false false v.toNat (2 ^ funPlaces) true
          else roundRat F mode false true (v.natAbs - 1) (2 ^ funPlaces) true

/-- 1 / (1 + e^-x) (R194). -/
def fSig (F : FloatFmt) (mode : Nat) (x : FVal) : FRes :=
  match x with
  | .nan a => nanRes F a
  | .inf n => if n then { bits := 0 } else roundRat F mode false false 1 1 false
  | .fin n m e =>
    if m = 0 then roundRat F mode false false 1 2 false
    else
      let (p, q) := dyFrac m e
      let one := 2 ^ funPlaces
      if 2048 * q < p then
        (if n then roundRat F mode false false 1 (2 ^ 2900) true else roundRat F mode false false (one - 1) one true)
      else
        let (u, k) := expNeg funPlaces p q
        let den := one * 2 ^ k + u + funSlack
        if n then roundRat F mode false false u den true
        else roundRat F mode false false (one * 2 ^ k) den true

/-- tanh x (R194): (1 - e^-2|x|) / (1 + e^-2|x|) with the sign of x; below 2^-40 it lies just under |x|. -/
def fTanh (F : FloatFmt) (mode : Nat) (x : FVal) : FRes :=
  match x with
  | .nan a => nanRes F a
  | .inf n => roundRat F mode false n 1 1 false
  | .fin n m e =>
    if m = 0 then { bits := F.signBit n }
    else
      let (p, q) := dyFrac m e
      let one := 2 ^ funPlaces
      if p * 2 ^ 40 < q then roundRat F mode false n (p * (2 ^ 78 - 1)) (q * 2 ^ 78) true
      else if 2048 * q < p then roundRat F mode false n (one - 1) one true
      else
        let (u, k) := expNeg funPlaces (2 * p) q
        roundRat F mode false n (one * 2 ^ k - u - funSlack) (one * 2 ^ k + u + funSlack) true

/-! ### Scales (R159, R160) -/

/-- An E3M5 scale as a multiple of 2^-7. -/
def scaleUnits (b : Nat) : Nat := if b / 32 % 8 = 0 then b % 32 else (32 + b % 32) * 2 ^ (b / 32 % 8 - 1)

/-- R160: a BF16 band scale: its value, or +0 where it is infinite or a NaN. -/
def bandVal (b : Nat) : FVal :=
  match fDecode (floatFmt 3) b with
  | .fin n m e => .fin n m e
  | _ => .fin false 0 0

/-- The exact product of two values (R163, R178): a NaN of either, and the product of an infinity and zero, is a NaN. -/
def mulVal (x y : FVal) : FVal :=
  match x, y with
  | .fin a m e, .fin b n f => .fin (a != b) (m * n) (e + f)
  | .nan q, y => .nan (q || y.isSnan)
  | x, .nan q => .nan (q || x.isSnan)
  | .inf a, .inf b => .inf (a != b)
  | .inf a, .fin b n _ => if n = 0 then .nan true else .inf (a != b)
  | .fin a m _, .inf b => if m = 0 then .nan true else .inf (a != b)

/-- R177: the least E3M5 code, from `c` up, whose value is at least num / den; 0xFF where none is. -/
def leastScale (num den : Nat) : Nat → Nat → Nat
  | 0, _ => 0xFF
  | n + 1, c => if num * 128 ≤ scaleUnits c * den then c else leastScale num den n (c + 1)

end Sys2Proof.Machine
end

