-- ==== Sys2Proof/Machine/Translate.lean ====
section
/-! DEFINITION. Address translation: the walk, the TLBs, and the checks on an access in their order (R407 to R417, R472,
R473). -/

namespace Sys2Proof.Machine

/-! ### Table entries (R411, R412) -/

def Word.leafBit (w0 : Word) : Bool := w0.getLsbD 1
def pageFmt (w1 : Word) : Nat := Word.field w1 36 4
def pageGeo (w1 : Word) : Nat := Word.field w1 40 2
def pageTag (w1 : Word) : Bool := w1.getLsbD 42
def pageNoalloc (w1 : Word) : Bool := w1.getLsbD 43
def pageRemote (w1 : Word) : Bool := w1.getLsbD 44
def pageDev (w1 : Word) : Nat := Word.field w1 45 12
def frameOf (w0 : Word) : Nat := Word.field w0 16 32 * 2 ^ 16

/-- R411, R412: is a valid entry malformed at its level? -/
def badEntry (lvl : Nat) (w0 w1 : Word) : Bool :=
  Word.field w0 48 16 ≠ 0 || Word.field w0 6 10 ≠ 0 ||
    (if Word.leafBit w0 then
      (lvl ≠ 0 && lvl ≠ 1) || (lvl = 1 && Word.field w0 16 12 ≠ 0) || Word.field w1 57 7 ≠ 0 ||
        (!pageRemote w1 && pageDev w1 ≠ 0) || pageGeo w1 = 3 ||
        (pageGeo w1 ≠ 0 && !(5 ≤ pageFmt w1 && pageFmt w1 ≤ 7))
    else lvl = 0 || w1 ≠ 0 || Word.field w0 40 8 ≠ 0)

/-- What a walk ends in. -/
inductive Walk where
  | leaf (w0 w1 : Word) (big : Bool)
  | bad (code : Nat)
  | ue (pa : Nat) (syn : Word)
  deriving DecidableEq, Repr

/-- R407: the index of a virtual address at a level. -/
def levelIndex (va : Word) (lvl : Nat) : Nat := Word.field va (16 + 12 * lvl) (if lvl = 3 then 4 else 12)

/-- R410: the walk from the table at `t`, reading each entry at its home slice. -/
def State.walkFrom (s : State) (g : Gtid) (va : Word) : Nat → Nat → Walk × State
  | lvl, t =>
    let e := t + 16 * levelIndex va lvl
    match s.reachLine g e false with
    | (some (a, y), s) => (.ue a y, s)
    | (none, s) =>
      let w0 := s.memWord e
      let w1 := s.memWord (e + 8)
      if !w0.getLsbD 0 then (.bad cABSENT, s)
      else if badEntry lvl w0 w1 then (.bad cPERM, s)
      else if Word.leafBit w0 then (.leaf w0 w1 (lvl = 1), s)
      else match lvl with
        | 0 => (.bad cPERM, s)
        | l + 1 => s.walkFrom g va l (frameOf w0)

/-- R9, R407. -/
def canonical (va : Word) : Bool := Word.sextFrom 56 va = va

/-- R407, R410: the whole walk; a root outside local HBM is no table. -/
def State.walk (s : State) (g : Gtid) (root : Nat) (va : Word) : Walk × State :=
  if !canonical va then (.bad cABSENT, s)
  else if root / 2 ^ 40 ≠ 0 then (.bad cPERM, s)
  else s.walkFrom g va 3 (root / 2 ^ 16 * 2 ^ 16)

/-! ### TLBs (R416) -/

def tlbSpine (t : Task) : Nat := 8 * t.die + t.rowNo
def tlbBc (t : Task) : Nat := 32 + 16 * t.die + t.bcNo
def tlbExch (die : Nat) : Nat := 96 + die
def tlbColl (die : Nat) : Nat := 100 + die

/-- The stream TLB of an engine (0 MX, 1 QR, 2 CP) of a share context. -/
def tlbStream (t : Task) (core e : Nat) : Nat :=
  104 + 3 * (2 * (8 * (8 * t.die + t.rowNo) + core) + (if t.isFiller then 1 else 0)) + e

/-- R416: the entries of a TLB. -/
def tlbSize (k : Nat) : Nat := if k < 32 then 256 + 4096 else if k < 96 then 512 else if k < 104 then 64 else 16

/-- The die a TLB stands on. -/
def tlbDie (k : Nat) : Nat :=
  if k < 32 then k / 8 else if k < 96 then (k - 32) / 16 else if k < 100 then k - 96 else if k < 104 then k - 100
  else (k - 104) / 384

def TlbEntry.covers (e : TlbEntry) (asid : Nat) (va : Word) : Bool :=
  e.asid = asid && e.page = va.toNat / (if e.big then 2 ^ 28 else 2 ^ 16)

def TlbEntry.pa (e : TlbEntry) (va : Word) : Nat := frameOf e.w0 + va.toNat % (if e.big then 2 ^ 28 else 2 ^ 16)

/-- A leaf enters a TLB; a full one loses its oldest. -/
def State.fillTlb (s : State) (k : Nat) (e : TlbEntry) : State :=
  { s with tlbs := Tbl.set [] s.tlbs k ((e :: (Tbl.get [] s.tlbs k).filter (· ≠ e)).take (tlbSize k)) }

/-- The translation of one address through a TLB: a leaf, or a fault. -/
def State.lookup (s : State) (k : Nat) (g : Gtid) (asid root : Nat) (va : Word) : Except Walk TlbEntry × State :=
  match (Tbl.get [] s.tlbs k).find? fun e => e.covers asid va && canonical va with
  | some e => (.ok e, s)
  | none =>
    match s.walk g root va with
    | (.leaf w0 w1 big, s) =>
      let e : TlbEntry := { asid := asid, big := big, page := va.toNat / (if big then 2 ^ 28 else 2 ^ 16), w0 := w0, w1 := w1 }
      (.ok e, s.fillTlb k e)
    | (w, s) => (.error w, s)

/-! ### Checks on an access (R413 to R415) -/

/-- The kinds of access of R414. -/
inductive Access where
  | fetch | load | store | rmw
  deriving DecidableEq, Repr

def Access.permits (a : Access) (w0 : Word) : Bool :=
  match a with
  | .fetch => w0.getLsbD 4
  | .load => w0.getLsbD 2
  | .store => w0.getLsbD 3
  | .rmw => w0.getLsbD 2 && w0.getLsbD 3

def Access.writes (a : Access) : Bool := a = .store || a = .rmw

/-- R415: the GROUPS bit of a task's unit. -/
def groupBit (t : Task) : Nat := if t.isRow then 8 * t.die + t.rowNo else 32 + t.die

/-- A run of an access on one page: virtual start, length, physical start, leaf. -/
structure Seg where
  va : Word
  n : Nat
  pa : Nat
  w0 : Word
  w1 : Word
  acc : Word := 0                                -- the first address of the access (R132)
  deriving DecidableEq, Repr

/-- The pages an access of `n` bytes touches: start and length of the run on each, ascending (fuel: the pages). -/
def pageRuns (va : Word) (n : Nat) : Nat → List (Word × Nat)
  | 0 => []
  | fuel + 1 =>
    if n = 0 then []
    else
      let k := min n (2 ^ 16 - va.toNat % 2 ^ 16)
      (va, k) :: pageRuns (va + BitVec.ofNat 64 k) (n - k) fuel

/-- The runs of an access of `n` bytes at `va`. -/
def runsOf (va : Word) (n : Nat) : List (Word × Nat) := pageRuns va n (n / 2 ^ 16 + 2)

/-- A fault of an access at a page, as the syllable raises it. -/
def accessFault (a : Access) (unit : Nat) (va : Word) (code : Nat) : Raised :=
  { unit := unit, code := code, write := a.writes, va := va }

/-- R413, step 2: each touched page is walked, then its permission and its group are checked. -/
def State.segsOf (s : State) (k : Nat) (g : Gtid) (a : Access) (unit bit : Nat) :
    List (Word × Nat) → Except Raised (List Seg) × State
  | [] => (.ok [], s)
  | (va, n) :: rest =>
    let t := s.task g
    match s.lookup k g t.asid t.root va with
    | (.error (.bad c), s) => (.error (accessFault a unit va c), s)
    | (.error (.ue pa y), s) => (.error { accessFault a unit va cMEMUE with detail := memueDetail pa y }, s)
    | (.error (.leaf ..), s) => (.error (accessFault a unit va cABSENT), s)
    | (.ok e, s) =>
      if !a.permits e.w0 then (.error (accessFault a unit va cPERM), s)
      else if !e.w1.getLsbD bit then (.error (accessFault a unit va cGROUP), s)
      else
        match s.segsOf k g a unit bit rest with
        | (.error r, s) => (.error r, s)
        | (.ok l, s) => (.ok ({ va := va, n := n, pa := e.pa va, w0 := e.w0, w1 := e.w1 } :: l), s)

/-- The attributes of a leaf: every field but the frame (R413). -/
def Seg.attrs (x : Seg) : Word × Word := (x.w0 &&& 0xFFFF00000000FFFF, x.w1)

/-- R413, step 3, R133: the first page whose attributes differ from the lowest page's. -/
def misaligned (l : List Seg) : Option Seg :=
  match l with
  | [] => none
  | x :: r => r.find? fun y => y.attrs ≠ x.attrs

/-- R413, steps 2 and 3, for one access. -/
def State.translate (s : State) (k : Nat) (g : Gtid) (a : Access) (unit : Nat) (va : Word) (n : Nat) :
    Except Raised (List Seg) × State :=
  match s.segsOf k g a unit (groupBit (s.task g)) (runsOf va n) with
  | (.error r, s) => (.error r, s)
  | (.ok l, s) =>
    match misaligned l with
    | some y => (.error (accessFault a unit y.va cALIGN), s)
    | none => (.ok (l.map fun x => { x with acc := va }), s)

/-! ### Where an access may go (R387, R441, R447, R472, R473, R477) -/

/-- Does a task's access reach the control-block address? Only the slice counters' page of block 0 and page 0 of the
Collator block (R387, R441). -/
def taskBlockOk (pa : Nat) : Bool :=
  windowOf pa = .die &&
    ((pa / 2 ^ 24 % 16 = 0 && pa % 2 ^ 24 / 2 ^ 16 = 1) || (pa / 2 ^ 24 % 16 = 1 && pa % 2 ^ 24 / 2 ^ 16 = 0) ||
      4 ≤ pa / 2 ^ 24 % 16)

/-- R413, step 4: is a local physical address one that a task's access may reach, tile memories apart? -/
def reachable (pa : Nat) : Bool := windowOf pa = .hbm || taskBlockOk pa

/-! ### The walk and invalidation steps (R410, R417, R420, R421) -/

/-- Drops the entries of the TLBs of a die that a test covers. -/
def State.dropTlb (s : State) (die : Nat) (p : TlbEntry → Bool) : State :=
  { s with tlbs := (s.tlbs.map fun e => if tlbDie e.1 = die then (e.1, e.2.filter fun x => !p x) else e).filter fun e => tlbDie e.1 ≠ die || !e.2.isEmpty }

/-- R420: does the running command of a die have number `n`? -/
def State.tlbCmd (s : State) (die n : Nat) : Bool :=
  !(s.reg (dieReg die 0 0x8000)).getLsbD 63 && Word.field (s.reg (dieReg die 0 0x8000)) 0 2 = n

/-- R421, command 1: every translation of the die's TLBs. -/
def execTlbInvalidateAll (die : Nat) (s : State) : Out :=
  .next (if s.tlbCmd die 1 then s.dropTlb (die % 4) fun _ => true else s)

/-- R421, command 2: one ASID. -/
def execTlbInvalidateAsid (die : Nat) (s : State) : Out :=
  .next (if s.tlbCmd die 2 then s.dropTlb (die % 4) fun e => e.asid = Word.field (s.reg (dieReg die 0 0x8008)) 0 16 else s)

/-- Does a leaf's page meet a range of bytes from `va`, its low 16 bits ignored? -/
def TlbEntry.meets (e : TlbEntry) (va : Word) (len : Nat) : Bool :=
  let lo := va.toNat / 2 ^ 16 * 2 ^ 16
  let size := if e.big then 2 ^ 28 else 2 ^ 16
  len ≠ 0 && e.page * size < lo + len && lo < e.page * size + size

/-- R421, command 3: one ASID over a range. -/
def execTlbInvalidateRange (die : Nat) (s : State) : Out :=
  .next (if s.tlbCmd die 3 then
    s.dropTlb (die % 4) fun e => e.asid = Word.field (s.reg (dieReg die 0 0x8008)) 0 16 &&
      e.meets (s.reg (dieReg die 0 0x8010)) (s.reg (dieReg die 0 0x8018)).toNat
    else s)

/-- R421: DONE is set when every access that may have used a dropped translation has performed: nothing stands in a network, at
a home or on its way to one, no store of a Spine is still to be registered, and no remote store is unacknowledged. -/
def execTlbInvalidateDone (die : Nat) (s : State) : Out :=
  let r := dieReg die 0 0x8000
  let c := Word.field (s.reg r) 0 2
  let asid := Word.field (s.reg (dieReg die 0 0x8008)) 0 16
  let p (e : TlbEntry) : Bool :=
    c = 1 || (c = 2 && e.asid = asid) ||
      (c = 3 && e.asid = asid && e.meets (s.reg (dieReg die 0 0x8010)) (s.reg (dieReg die 0 0x8018)).toNat)
  .next (if (s.reg r).getLsbD 63 || !s.netIdle || s.l1d.any (fun e => !e.2.pend.isEmpty) || s.tasks.any (fun e => e.2.remoteOut.any fun x => x.2 ≠ 0) then s else (s.dropTlb (die % 4) p).setReg r (s.reg r ||| 0x8000000000000000))

end Sys2Proof.Machine
end

