-- ==== Sys2Proof/Machine/Home.lean ====
section
/-! DEFINITION. What a request does at its home: reads, writes, atomics, tagged accesses, bins; the waiters of a word; and
the answer to whoever asked (R138 to R141, R145 to R148, R328, R338 to R341, R372, R377 to R381). -/

namespace Sys2Proof.Machine

/-! ### Atomics (R138) -/

/-- R138: the new value of the low `w` bits. -/
def AmoOp.apply (op : AmoOp) (w old v cmp : Nat) : Nat :=
  let sg (x : Nat) : Int := (BitVec.ofNat w x).toInt
  match op with
  | .fadd => (old + v) % 2 ^ w
  | .swap => v
  | .cas => if old = cmp then v else old
  | .min => if sg v < sg old then v else old
  | .max => if sg old < sg v then v else old
  | .minu => if v < old then v else old
  | .maxu => if old < v then v else old
  | .and => old &&& v
  | .or => old ||| v
  | .xor => old ^^^ v

/-! ### Tags (R145) -/

/-- The tag an instruction waits for. -/
def TagOp.needs (op : TagOp) : Option Bool :=
  match op with
  | .ldfe | .ldff => some true
  | .stef => some false
  | _ => none

/-- The tag afterwards. -/
def TagOp.after (op : TagOp) : Bool :=
  match op with
  | .ldfe | .sete => false
  | _ => true

/-- Does it write data? -/
def TagOp.stores (op : TagOp) : Bool :=
  match op with
  | .stef | .stff => true
  | _ => false

def TagOp.loads (op : TagOp) : Bool :=
  match op with
  | .ldfe | .ldff => true
  | _ => false

/-! ### Bins (R338, R340, R341) -/

/-- The physical address of slot word `j` (0 or 1) of slot `i` of the bin whose header is at `h`. -/
def slotAddr (h i j : Nat) : Nat := h + 16 + 16 * i + 8 * j

/-- Does slot `i` lie in the header's tile memory? -/
def slotIn (h i : Nat) : Bool := h % 2 ^ 19 + 16 + 16 * i + 16 ≤ 2 ^ 19

/-- R340: BINAPP's step at the tile memory: its result and the state, or PERM. -/
def State.binAppend (s : State) (h : Nat) (r0 r1 : Word) : HomeRes × State :=
  let w := s.memWord h
  let cnt := Word.field w 0 16
  if cnt < Word.field w 16 16 then
    if !slotIn h cnt then (.bad cPERM, s)
    else
      let s := (s.homeWrite none (slotAddr h cnt 0) 8 r0.toNat).homeWrite none (slotAddr h cnt 1) 8 r1.toNat
      let s := (s.setTag (slotAddr h cnt 0) true).setTag (slotAddr h cnt 1) true
      (.val (BitVec.ofNat 64 cnt), s.homeWrite none h 8 (w + 1).toNat)
  else
    let r := min (Word.field w 32 16 + 1) 0xFFFF
    let hint := Word.field w 48 8 ≠ 0 && r = Word.field w 48 8
    let s := s.homeWrite none h 8 (w.toNat - Word.field w 32 16 * 2 ^ 32 + r * 2 ^ 32)
    (.val (BitVec.ofNat 64 (2 ^ 63 + (if hint then 2 ^ 62 else 0) + Word.field w 56 2 * 2 ^ 56 + r * 2 ^ 32)), s)

/-- R341: BINCLR's step. -/
def State.binClear (s : State) (h : Nat) (set : Bool) (hdr : Word) : HomeRes × State :=
  let w := s.memWord h
  let cnt := Word.field w 0 16
  if cnt ≠ 0 && !slotIn h (cnt - 1) then (.bad cPERM, s)
  else
    let s := (List.range cnt).foldl (fun s i => (s.setTag (slotAddr h i 0) false).setTag (slotAddr h i 1) false) s
    let keep : Word := 0x03FF0000FFFF0000
    let new := if set then (hdr &&& keep) ||| (w &&& 0xFC00000000000000) else w &&& 0xFFFF0000FFFF0000
    (.val w, s.homeWrite none h 8 new.toNat)

/-! ### Answers -/

/-- The status word of a reply message: 0 done, else the fault code (log entry 20). -/
def HomeRes.code (r : HomeRes) : Nat :=
  match r with
  | .val _ => 0
  | .ue .. => cMEMUE
  | .bad c => c

/-- The payload of a reply message: the value, or the detail of MEMUE. -/
def HomeRes.word (r : HomeRes) : Word :=
  match r with
  | .val w => w
  | .ue pa y => memueDetail pa y
  | .bad _ => 0

/-- The type of the reply to a request (R526). -/
def replyType (op : HomeOp) : Nat :=
  match op with
  | .read => 0x03
  | _ => 0x05

/-- What a task's request met reaches the task: as one reply for each of its words. -/
def State.replyTask (s : State) (g : Gtid) (k : Nat) (r : Req) (x : HomeRes) (ys : List HomeRes) : State :=
  let rep (k : Nat) (x : HomeRes) : Reply := { gtid := g, part := k, parks := r.parks, res := x, va := r.va, redo := r.redo }
  { s with replies := s.replies ++ rep k x :: (r.tail.zip ys).map fun e => rep e.1.k e.2 }

/-- An answer goes back: through the networks by the way the request came, to a thread of the home's own BC at once, to a peer
as a reply message, kept in the die's replay cache (R326, R328, R471, R531). -/
def State.answerReq (s : State) (r : Req) (x : HomeRes) (ys : List HomeRes := []) : State :=
  match r.org with
  | .task g k => if r.back.isEmpty then s.replyTask g k r x ys else s.putRep { req := r, res := x, tail := ys, legs := r.back }
  | .xamo _ => s.putRep { req := r, res := x, legs := r.back }
  | .peer die src seq =>
    let s := s.send die (replyType r.op) 1 src (seq.setWidth 64) (BitVec.ofNat 64 x.code) (leBytes x.word.toNat 8) .none
    let m := ((s.tx src).unacked.getLast?).map (·.msg)
    let c := Tbl.get [] s.fab.cache die
    let c := c.map fun e => if e.src = src && e.seq = seq then { e with reply := m } else e
    { s with fab := { s.fab with cache := Tbl.set [] s.fab.cache die c } }

/-! ### Performing (R372) -/

/-- The task a request acts for. -/
def Req.gtid (r : Req) : Gtid :=
  match r.org with
  | .task g _ => g
  | _ => 0

/-- The counter of atomics or tagged waits of the home slice (R388). -/
def State.countAt (s : State) (pa w : Nat) : State := if windowOf pa = .hbm then s.bumpReg (sliceCounter pa w) else s

/-- One attempt at a tagged request: none where its condition does not hold (R145, R147). -/
def State.tryTagged (s : State) (r : Req) (op : TagOp) (v : Word) : Option (HomeRes × State) :=
  if op.needs = some (!s.tag r.pa) then none
  else
    let old := s.memWord r.pa
    let s := s.recall r.pa none
    let s := if op.stores then s.homeWrite none r.pa 8 v.toNat else s
    let s := if op.stores then s else s.dirtyAtom r.pa
    some (.val (if op.loads then old else 0), s.setTag r.pa op.after)

/-- R147: one pass over the waiters, in order of arrival: those of the word that succeed leave. -/
def State.passOnce (s : State) (word : Nat) : List Req → List Req → State × List Req
  | kept, [] => (s, kept)
  | kept, r :: rs =>
    match r.op with
    | .tagged op v =>
      if wordAddr r.pa ≠ word then s.passOnce word (kept ++ [r]) rs
      else match s.tryTagged r op v with
        | none => s.passOnce word (kept ++ [r]) rs
        | some (x, s) => (s.answerReq r x).passOnce word kept rs
    | _ => s.passOnce word (kept ++ [r]) rs

/-- R147: passes until one in which no waiter succeeds (fuel: the waiters). -/
def State.passes (s : State) (word : Nat) : Nat → State
  | 0 => s
  | n + 1 =>
    let (s', kept) := s.passOnce word [] s.waits
    if kept.length = s.waits.length then s else { s' with waits := kept }.passes word n

/-- R147: after a tag changed. -/
def State.tagChanged (s : State) (pa : Nat) : State := s.passes (wordAddr pa) (s.waits.length + 1)

/-- Bits an access of `bytes` uses of a word. -/
def maskBytes (n : Nat) (w : Word) : Nat := w.toNat % 2 ^ (8 * n)

/-- A request performs on its word, whole: its answer, or none while it waits for a tag (R372, R145). -/
def State.performOp (s : State) (r : Req) : Option HomeRes × State :=
  match r.op with
  | .read => (some (.val (BitVec.ofNat 64 (s.memRead r.pa r.bytes))), s)
  | .write v => (some (.val 0), s.homeWrite none r.pa r.bytes (maskBytes r.bytes v))
  | .amo op v c =>
    let old := s.memRead r.pa r.bytes
    let new := op.apply (8 * r.bytes) old (maskBytes r.bytes v) (maskBytes r.bytes c)
    (some (.val (BitVec.ofNat 64 old)), (s.homeWrite none r.pa r.bytes new).countAt r.pa 5)
  | .tagged op v =>
    match s.tryTagged r op v with
    | some (x, s) => (some x, s)
    | none => (none, { s with waits := s.waits ++ [r] }.countAt r.pa 6)
  | .binapp a b => let (x, s) := s.binAppend r.pa a b; (some x, s)
  | .binclr set h => let (x, s) := s.binClear r.pa set h; (some x, s)

def HomeOp.isWrite (op : HomeOp) : Bool :=
  match op with
  | .write _ => true
  | _ => false

/-- R133: is another word of the same store uncorrectable, so that no byte of it is written? -/
def State.mateBad (s : State) (r : Req) : Bool := r.op.isWrite && r.mates.any fun a => (s.line a).held || s.errAt a = 2

/-- A request performs at its home (R372): an uncorrectable word answers MEMUE (R385). -/
def State.performReq (s : State) (r : Req) : Option HomeRes × State :=
  match s.reachLine r.gtid r.pa r.noalloc with
  | (some (a, y), s) => (some (.ue a y), s)
  | (none, s) => if s.mateBad r then (some (.val 0), s) else s.performOp r

/-- The further words of a request perform, in order. -/
def State.performTail (s : State) (r : Req) : List Tail → List HomeRes × State
  | [] => ([], s)
  | t :: l =>
    let (x, s) := s.performReq { r with pa := t.pa, bytes := t.bytes, op := t.op, tail := [] }
    let (xs, s) := s.performTail r l
    (x.getD (.val 0) :: xs, s)

/-- The words whose tags a bin request may have changed (R340, R341). -/
def State.binWords (s : State) (r : Req) : List Nat :=
  match r.op with
  | .tagged .. => [wordAddr r.pa]
  | .binapp .. => let i := Word.field (s.memWord r.pa) 0 16; [slotAddr r.pa i 0, slotAddr r.pa i 1]
  | .binclr .. =>
    ((List.range (Word.field (s.memWord r.pa) 0 16)).map fun i => [slotAddr r.pa i 0, slotAddr r.pa i 1]).flatten
  | _ => []

/-- A request performs, the further words of its access with it, its answer goes back, and the waiters of a word whose tag it changed are tried
(R132, R147, R372). -/
def State.serveReq (s : State) (r : Req) : State :=
  let words := s.binWords r
  match s.performReq r with
  | (none, s) => s
  | (some x, s) =>
    let (ys, s) := s.performTail r r.tail
    words.foldl (fun s w => s.tagChanged w) (s.answerReq r x ys)

/-! ### The steps -/

def State.queue (s : State) (k : Nat) : List Req := Tbl.get [] s.queues k

/-- The occupancy counters of a slice follow its queue (R388). -/
def State.countQueue (s : State) (k : Nat) : State :=
  if k % 32 < 16 then
    let w (i : Nat) : Nat := dieReg (k / 32) 0 (0x10000 + 128 * (k % 32) + 8 * i)
    let n := BitVec.ofNat 64 (min 64 (s.queue k).length)
    let dt := s.cycle - Tbl.get 0 s.slcLast k
    let s := s.setReg (w 9) (s.reg (w 9) + s.reg (w 7) * BitVec.ofNat 64 dt)
    let s := { s.setReg (w 7) n with slcLast := Tbl.set 0 s.slcLast k s.cycle }
    if s.reg (w 8) < n then s.setReg (w 8) n else s
  else s

/-- A request enters the queue of its home (R372). -/
def State.enqueue (s : State) (r : Req) : State :=
  let k := homeKey r.pa
  { s with queues := Tbl.set [] s.queues k (s.queue k ++ [r]) }.countQueue k

/-- Has the home of an address a free entry? A slice's queue holds 64 (R372). -/
def State.homeFree (s : State) (pa : Nat) : Bool := windowOf pa = .tile || (s.queue (homeKey pa)).length < 64

/-- R372: a home performs the first request of its queue, whole. -/
def execHomeAccess (key : Nat) (s : State) : Out :=
  match s.queue key with
  | [] => .next s
  | r :: rest => .next ({ s with queues := Tbl.set [] s.queues key rest }.countQueue key |>.serveReq r)

/-- R391: a pending word of a row's L1D is registered at its home. -/
def execRegistration (row pa : Nat) (s : State) : Out := .next (s.registerWord row pa)

/-- R392: the L1D evicts a word: an owned one goes home and its registration ends, a pending one is registered first. -/
def execL1dEvict (row pa : Nat) (s : State) : Out := .next (s.l1Evict row pa)

/-! ### Slice maintenance (R374, R387) -/

/-- Does the running maintenance command of a die have number `n` and cover the line? -/
def State.slCmd (s : State) (pa n : Nat) : Bool :=
  let rd (o : Nat) := s.reg (dieReg (paDie pa) 0 o)
  let lo := (rd 8).toNat / 128 * 128
  windowOf pa = .hbm && !(rd 0).getLsbD 63 && Word.field (rd 0) 0 2 = n && (rd 0x10).toNat ≠ 0 &&
    lo ≤ pa && pa / 128 * 128 < lo + (rd 0x10).toNat

/-- The lines a running command still has to serve. -/
def State.slLeft (s : State) (die : Nat) : List Nat :=
  (s.lines.filter fun e =>
    let pa := e.1 * 128
    paDie pa = die && e.2.resident &&
      ((s.slCmd pa 1 && e.2.holders.isEmpty && !e.2.held) ||
        (s.slCmd pa 2 && e.2.holders.isEmpty && !e.2.held && !e.2.old.isEmpty) || (s.slCmd pa 3 && e.2.held))).map fun e => e.1 * 128

/-- R374: is it the turn of a line at its home? The lines of a home are served in ascending order, and a line takes its entry
behind every access to it that is queued. -/
def State.slTurn (s : State) (pa : Nat) : Bool :=
  !(s.queue (homeKey pa)).any (fun r => r.pa / 128 = pa / 128) &&
    (s.slLeft (paDie pa)).all fun a => homeSlice a ≠ homeSlice pa || pa / 128 ≤ a / 128

/-- R374, command 1 on one line: written back and invalidated, unless pinned or held. -/
def execSliceWritebackInvalidate (pa : Nat) (s : State) : Out :=
  let l := s.line pa
  .next (if s.slCmd pa 1 && s.slTurn pa && l.resident && l.holders.isEmpty && !l.held then
    let s := (s.countServed pa).writeBackLine pa
    if (s.line pa).held then s else (s.forgetLine pa).setLine pa { s.line pa with resident := false }
  else s)

/-- R374, command 2 on one line: written back, resident still; pinned and held lines are skipped. -/
def execSliceWriteback (pa : Nat) (s : State) : Out :=
  let l := s.line pa
  .next (if s.slCmd pa 2 && s.slTurn pa && l.resident && l.holders.isEmpty && !l.held then (s.countServed pa).writeBackLine pa else s)

/-- R385, command 3 on one line: a held line is dropped. -/
def execSliceDropHeld (pa : Nat) (s : State) : Out :=
  .next (if s.slCmd pa 3 && s.slTurn pa && (s.line pa).held then (s.countServed pa).dropLine pa else s)

/-- R374: DONE reads 1 once the last line of the range has been served. -/
def execSliceMaintDone (die : Nat) (s : State) : Out :=
  let r := dieReg (die % 4) 0 0
  .next (if (s.reg r).getLsbD 63 || !(s.slLeft (die % 4)).isEmpty then s else s.setReg r (s.reg r ||| 0x8000000000000000))

/-- R388: slcclr: every counter of the die is zero; the two that read what is so now (pinned, qcur) stay. -/
def execSliceCounterClear (die : Nat) (s : State) : Out :=
  .next ((List.range 16).foldl (fun s sl =>
    (List.range 11).foldl (fun s w =>
      let r (w : Nat) : Nat := dieReg (die % 4) 0 (0x10000 + 128 * sl + 8 * w)
      if w = 4 || w = 7 then s else s.setReg (r w) (if w = 8 then s.reg (r 7) else 0))
      { s with slcLast := Tbl.set 0 s.slcLast (32 * (die % 4) + sl) s.cycle })
    { s with slcClr := Tbl.set 0 s.slcClr (die % 4) s.cycle })

end Sys2Proof.Machine
end

