-- ==== Sys2Proof/Machine/View.lean ====
section
/-! DEFINITION. What a control-block register reads as, where its value follows other state (R388, R454, R478, R499, R539), and
the reads and writes of control blocks by tasks (R387, R441, R446, R473). -/

namespace Sys2Proof.Machine

/-- The offset of a control-block address in its block, and the block. -/
def blkOf (pa : Nat) : Nat := pa / 2 ^ 24 % 16
def offOf (pa : Nat) : Nat := pa % 2 ^ 24

/-- R478: no slot of the die is bound, no route is active or saved, the exchange engine holds no operation, nothing is
pinned. -/
def State.quietDie (s : State) (die : Nat) : Bool :=
  let c := Tbl.get {} s.coll die
  !(s.tasks.any fun e => e.2.st ≠ .absent && e.2.st ≠ .queued && e.2.st ≠ .preempted && e.2.st ≠ .retired && e.2.place ≠ .none &&
      (match e.2.place with | .row d _ _ => d | .bc d _ _ => d | .inbox d _ => d | .none => 4) = die) &&
    c.active.isNone && c.saved.isEmpty && (s.xchOf die).ops.isEmpty &&
    !(s.lines.any fun e => paDie (e.1 * 128) = die && !e.2.holders.isEmpty) &&
    (s.reg (dieReg die 3 0x18)).getLsbD 63

/-- The GTID a slot-table entry names, by its address: word 7 of an entry is the task's live watchdog count (R454). -/
def State.slotCount (s : State) (pa : Nat) : Word :=
  (Tbl.get {} s.tasks (s.reg (pa / 64 * 64 + 8)).toNat).wdCount

/-- The value a read of a register gives. -/
def State.view (s : State) (pa : Nat) : Word :=
  let r := s.reg pa
  let off := offOf pa
  let die := paDie pa
  match windowOf pa with
  | .die =>
    if blkOf pa = 0 && 0x10000 ≤ off && off < 0x10800 then
      let k := 32 * die + off % 0x800 / 128
      if off % 128 = 72 then r + s.reg (pa - 16) * BitVec.ofNat 64 (s.cycle - Tbl.get 0 s.slcLast k)
      else if off % 128 = 80 then BitVec.ofNat 64 (s.cycle - Tbl.get 0 s.slcClr die)
      else r
    else if blkOf pa = 2 && 0x4000 ≤ off && off < 0x9000 && off % 64 = 56 then
      (if s.reg (pa / 64 * 64) = 0 then 0 else s.slotCount pa)
    else if blkOf pa = 3 && off = 0x20 then (if s.quietDie die then 1 else 0)
    else r
  | .io =>
    if blkOf pa = 0 && pa / 2 ^ 38 % 2 = 0 && off = 0x2000 then Config.serial
    else if blkOf pa = 3 && pa / 2 ^ 38 % 2 = 0 && 0x100000 ≤ off && off < 0x180000 then
      if off % 128 < 64 then 0
      else if off % 128 = 64 then
        let dev := (off - 0x100000) / 128
        r ||| (if (s.keyOf dev false).isSome then 8 else 0) ||| (if (s.keyOf dev true).isSome then 16 else 0)
      else r
    else r
  | _ => r

/-- A task's load of `n` bytes from a control block it may reach (R387, R441, R473). -/
def State.blockRead (s : State) (pa n : Nat) : Word :=
  let w := if 4 ≤ blkOf pa then 0 else s.view (pa / 8 * 8)
  BitVec.ofNat 64 (w.toNat / 2 ^ (8 * (pa % 8)) % 2 ^ (8 * n))

/-- A task's store to page 0 of the Collator block: only hintq takes it, its bytes in their places (R441, R446). -/
def State.blockWrite (s : State) (g : Gtid) (pa n : Nat) (v : Nat) : State :=
  if blkOf pa = 1 && offOf pa / 8 = 0 then
    s.push (.hintPost (paDie pa) g (BitVec.ofNat 64 (v % 2 ^ (8 * n) * 2 ^ (8 * (pa % 8)))))
  else s

end Sys2Proof.Machine
end

