-- ==== Sys2Proof/Machine/Mem.lean ====
section
/-! DEFINITION. Memory accesses of the Spine and of binning threads: the access itself in one shared operation per kind,
then the syllables of MEM, AMO, SYNC and TAG (R129 to R148, R321 to R336, R391 to R395, R403, R404). -/

namespace Sys2Proof.Machine

/-! ### Registers outside a syllable -/

def State.putInt (s : State) (g : Gtid) (d : BitVec 6) (v : Word) : State :=
  s.modTask g fun t => { t with r := Tbl.set 0 t.r d.toNat v }

/-- The register bytes `lo` to `lo + n - 1` of a 256-byte register replaced by the little-endian bytes of `v`. -/
def putBytes (r : BitVec 8192) (lo n v : Nat) : BitVec 8192 :=
  let m := (2 ^ (8 * n) - 1) * 2 ^ (8 * lo)
  BitVec.ofNat 8192 ((r.toNat &&& (2 ^ 8192 - 1 - m)) + v % 2 ^ (8 * n) * 2 ^ (8 * lo))

/-- Bits `[lo + w - 1 : lo]` of a register. -/
def vecBits (r : BitVec 8192) (lo w : Nat) : Nat := r.toNat / 2 ^ lo % 2 ^ w

/-- The register with those bits replaced. -/
def putBits (r : BitVec 8192) (lo w v : Nat) : BitVec 8192 :=
  let m := (2 ^ w - 1) * 2 ^ lo
  BitVec.ofNat 8192 ((r.toNat &&& (2 ^ 8192 - 1 - m)) + v % 2 ^ w * 2 ^ lo)

def State.putVec (s : State) (g : Gtid) (d : Nat) (h : BitVec 8192 → BitVec 8192) : State :=
  s.modTask g fun t => { t with vec := { t.vec with v := Tbl.set 0 t.vec.v d (h (Tbl.get 0 t.vec.v d)) } }

/-! ### Elements of a page (R161 to R163) -/

/-- The base of the block scales and of the band scales in a unit of 64 KiB (R162). -/
def scaleBase (fmt : Nat) : Nat := if fmt = 7 then 0xE000 else 0xF000
def bandBase (fmt : Nat) : Nat := if fmt = 7 then 0xFC00 else 0xFF00

/-- The exact value of an element whose bits are `raw`, at a physical address of a page of format `fmt` and geometry `geo`,
`hi` for the upper nibble: the element, its block scale and its band scale (R163); integers as exact values. -/
def State.elemVal (s : State) (fmt geo pa : Nat) (hi : Bool) (raw : Nat) : FVal :=
  let w := fmtBits fmt
  if isIntCode fmt then
    let k := (BitVec.ofNat w raw).toInt
    .fin (k < 0) k.natAbs 0
  else
    let x := fDecode (floatFmt fmt) raw
    if geo = 0 then x
    else
      let base := pa / 2 ^ 16 * 2 ^ 16
      let j := pa % 2 ^ 16 * 8 / w + (if hi then 1 else 0)
      let blk : FVal := .fin false (scaleUnits (s.memByte (base + scaleBase fmt + j / 16)).toNat) (-7)
      let x := mulVal x blk
      if geo = 1 then x
      else mulVal x (bandVal (s.memRead (base + bandBase fmt + 2 * (j / (if fmt = 7 then 16384 else 8192))) 2))

/-- The words that hold the scales of elements at some physical addresses of a page (R162, R163). -/
def scaleWords (fmt geo : Nat) (pas : List Nat) : List Nat :=
  if geo = 0 || !(5 ≤ fmt && fmt ≤ 7) then []
  else
    let j (pa : Nat) : Nat := pa % 2 ^ 16 * 8 / fmtBits fmt
    let base (pa : Nat) : Nat := pa / 2 ^ 16 * 2 ^ 16
    ((pas.map fun pa => (base pa + scaleBase fmt + j pa / 16) / 8 * 8) ++
      (if geo = 1 then [] else pas.map fun pa => (base pa + bandBase fmt + 2 * (j pa / (if fmt = 7 then 16384 else 8192))) / 8 * 8)).dedup

/-- The scales are read at their homes: the first that is uncorrectable (R290, R385). -/
def State.scalesBad (s : State) (g : Gtid) (noalloc : Bool) : List Nat → Option (Nat × Word) × State
  | [] => (none, s)
  | a :: r =>
    match s.reachLine g a noalloc with
    | (some e, s) => (some e, s)
    | (none, s) => s.scalesBad g noalloc r

/-- The stored bits of an element at a physical address. -/
def State.rawElem (s : State) (fmt pa : Nat) (hi : Bool) : Nat :=
  if fmtBits fmt = 4 then (s.memByte pa).toNat / (if hi then 16 else 1) % 16 else s.memRead pa (fmtBits fmt / 8)

/-- The element at a physical address. -/
def State.pageElem (s : State) (fmt geo pa : Nat) (hi : Bool) : FVal := s.elemVal fmt geo pa hi (s.rawElem fmt pa hi)

/-- R176: a converted element: RNE, saturated, no flag. -/
def convertTo (G : Nat) (x : FVal) : Nat :=
  if isIntCode G then
    let w := fmtBits G
    ((BitVec.ofInt w (fToInt 0 (-(2 ^ (w - 1))) (2 ^ (w - 1) - 1) x).1)).toNat
  else (fConvert (floatFmt G) 0 true x).bits

/-! ### The end of an access -/

/-- The value of consecutive parts, the first lowest. -/
def joinParts : List (Nat × Option Word) → Nat
  | [] => 0
  | (n, w) :: r => (w.getD 0).toNat % 2 ^ (8 * n) + 2 ^ (8 * n) * joinParts r

/-- A loaded value extended as the instruction says (R130). -/
def extendTo (bytes : Nat) (sx : Bool) (v : Nat) : Word :=
  if sx then Word.sextFrom (8 * bytes) (BitVec.ofNat 64 v) else BitVec.ofNat 64 (v % 2 ^ (8 * bytes))

/-- R215, LDVT: element (r, c) becomes element `r` of memory row `c`; the rows stand one after another in `v`. -/
def putColumns (old : BitVec 8192) (rows cols w v : Nat) : BitVec 8192 :=
  (List.range (rows * cols)).foldl (fun r i =>
    putBits r (i * w) w (v / 2 ^ (i % cols * (rows * w) + i / cols * w))) old

/-- Writes the result of a completed access (R130, R215, R217). -/
def State.putResult (s : State) (g : Gtid) (d : MemDest) (v : Nat) (len : Nat) : State :=
  match d with
  | .none => s
  | .got va n => s.modTask g fun t => { t with got := t.got ++ [(va, n, v)] }
  | .int d n sx => s.putInt g d (extendTo n sx v)
  | .vec d => s.putVec g d fun r => putBytes r 0 len v
  | .vecT d rows cols w => s.putVec g d fun r => putColumns r rows cols w v
  | .conv d tr rows cols vs elems =>
    let w := fmtBits vs
    s.putVec g d fun r =>
      (List.range (rows * cols)).foldl (fun r i =>
        let k := if tr then i % cols * rows + i / cols else i
        match elems[k]? with
        | none => r
        | some e =>
          putBits r (i * w) w (convertTo vs (s.elemVal e.fmt e.geo e.pa e.hi (v / 2 ^ e.bit % 2 ^ fmtBits e.fmt)))) r

/-- A syllable that has read words of a descriptor is executed again, alone, with them. -/
def MemOp.again (m : MemOp) : List Redo :=
  match m.dest with
  | .got .. => [m.redo]
  | _ => []

/-- The access of a task completes: its result is written, an acquire invalidates, the task goes on (R134, R136, R326). -/
def State.finishAccess (s : State) (g : Gtid) (m : MemOp) : State :=
  let s := s.modTask g fun t => { t with memOp := none, redo := t.redo ++ m.again }
  let s := s.putResult g m.dest (joinParts m.parts) ((m.parts.map (·.1)).sum)
  let t := s.task g
  let s := if m.acquire && t.isRow then s.selfInvalidate (tlbSpine t) else s
  s.modTask g fun t => (((t.release .reply).release .tag).release .status).release .release

/-- A part of a task's access meets a fault after its syllable has issued: the syllable alone is executed again on a resume;
word 3 gives the access's lowest address on the part's page (R133, R322, R352). -/
def State.failAccess (s : State) (g : Gtid) (k code : Nat) (detail : Word) : State :=
  match (s.task g).memOp with
  | none => s
  | some m =>
    let t := s.task g
    let r : Raised := { unit := if t.isRow then 0 else 6, code := code, write := m.isWrite, va := m.vas.getD k m.va, detail := detail }
    let s := s.modTask g fun t =>
      ((({ t with memOp := none, got := [], redo := t.redo ++ [m.redo] }.release .reply).release .tag).release .status).release .release
    if t.isRow then s.takeRowFault g 8 r m.redo.addr false else s.takeBcFault g r m.redo.addr false

/-- The scales that a converting load reads with its elements: the first that is uncorrectable (R163, R385). -/
def State.convBad (s : State) (g : Gtid) (m : MemOp) : Option (Nat × Word) × State :=
  match m.dest with
  | .conv _ _ _ _ _ elems => s.scalesBad g false ((elems.map fun e => scaleWords e.fmt e.geo [e.pa]).flatten.dedup)
  | _ => (none, s)

/-- A part of a task's access has its value (R326). -/
def State.fillPart (s : State) (g : Gtid) (k : Nat) (v : Word) : State :=
  match (s.task g).memOp with
  | none => s
  | some m =>
    match m.parts[k]? with
    | none => s
    | some p =>
      let m := { m with parts := m.parts.set k (p.1, some v) }
      if m.parts.all fun p => p.2.isSome then
        match s.convBad g m with
        | (some (a, y), s) => s.failAccess g k cMEMUE (memueDetail a y)
        | (none, s) => s.finishAccess g m
      else s.modTask g fun t => { t with memOp := some m }

/-! ### Starting an access -/

/-- The unit number of the scalar syllables of the unit that executes (R580). -/
def State.memUnit (s : State) : Nat := if s.onBc then 6 else 0

def State.memTlb (s : State) : Nat := if s.onBc then tlbBc (s.task s.curGtid) else tlbSpine (s.task s.curGtid)

/-- Cuts runs of physical bytes at aligned words: the requests of an access (R323). -/
def wordsOf (pa n : Nat) : Nat → List (Nat × Nat)
  | 0 => []
  | fuel + 1 =>
    if n = 0 then []
    else
      let k := min n (8 - pa % 8)
      (pa, k) :: wordsOf (pa + k) (n - k) fuel

/-- The parts of an access: physical address, bytes, and its page, word by word. -/
def partsOf (l : List Seg) : List (Nat × Nat × Seg) :=
  (l.map fun x => (wordsOf x.pa x.n (x.n / 8 + 2)).map fun p => (p.1, p.2, x)).flatten

/-- Where an access of a thread goes. -/
inductive Reach where
  | here                                         -- its own tile memory, local HBM or a block
  | move (bc : Nat)                              -- another BC of the die (R330)
  | remote (dev : Nat)
  | bad                                          -- PERM
  deriving DecidableEq, Repr

/-- R135, R330, R387, R413 step 4: where one page of an access lies. -/
def placeOf (t : Task) (x : Seg) : Reach :=
  if pageRemote x.w1 then .remote (pageDev x.w1)
  else if windowOf x.pa = .tile then
    (if t.isRow || paDie x.pa ≠ t.die then .bad else if paBc x.pa = t.bcNo then .here else .move (paBc x.pa))
  else if reachable x.pa then .here
  else .bad

def Seg.isTile (x : Seg) : Bool := !pageRemote x.w1 && windowOf x.pa = .tile

/-- The first page that an access may not reach: one out of reach, or, beside tile memory, one elsewhere than the first
(R330). -/
def badSeg (t : Task) (l : List Seg) : Option Seg :=
  match l.find? fun x => placeOf t x = .bad with
  | some x => some x
  | none =>
    match l with
    | [] => none
    | x :: r => if l.any Seg.isTile then r.find? fun y => placeOf t y ≠ placeOf t x || y.isTile ≠ x.isTile else none

/-- Where the pages of an access lie, as one place. -/
def reachOf (t : Task) (l : List Seg) : Reach :=
  if (badSeg t l).isSome then .bad
  else match l with
    | [] => .here
    | x :: r => if r.all fun y => placeOf t y = placeOf t x then placeOf t x else .here

/-- Does the access touch a control block? -/
def inBlock (l : List Seg) : Bool := l.any fun x => !pageRemote x.w1 && windowOf x.pa = .die

/-- R330, R331: the bundle must migrate: neither syllable executes. -/
def State.mustMigrate (s : State) (bc : Nat) : State := s.modCurTask fun t => { t with migTo := some bc }

/-- The syllable that runs, for executing it again alone: on a thread with the registers it reads (R77). -/
def State.redoOf (s : State) (i : Instr) : Redo :=
  let t := s.rdTask
  { addr := s.curAddr, instr := i, vDests := s.vDests,
    before := if s.onBc then some ⟨t.r, t.p, t.fmode, t.vshape, t.vcarry, t.vec⟩ else none }

/-- The destination of a loaded register on a thread: none where the V syllable of the bundle writes it (R77, R325). -/
def State.keptDest (s : State) (d : MemDest) : MemDest :=
  match d with
  | .int r _ _ => if s.onBc && s.vDests.contains r.toNat then .none else d
  | .vec r => if s.onBc && s.vDests.contains (64 + r) then .none else d
  | .vecT r _ _ _ => if s.onBc && s.vDests.contains (64 + r) then .none else d
  | .conv r _ _ _ _ _ => if s.onBc && s.vDests.contains (64 + r) then .none else d
  | .none | .got .. => d

/-- The task waits for the parts of an access (R324, R344). -/
def State.await (s : State) (i : Instr) (d : MemDest) (parts : List Nat) (acq : Bool) (va : Word) (wr : Bool) (c : Cause)
    (vas : List Word := []) : State :=
  let m : MemOp := { dest := s.keptDest d, parts := parts.map fun n => (n, none), acquire := acq, va := va, vas := vas, isWrite := wr,
                     redo := s.redoOf i }
  s.modCurTask fun t => { t with memOp := some m }.hold c

/-- R404, step 1 and R394: earlier stores of the context perform; is anything outstanding but to `dev`? -/
def State.storesDone (s : State) (g : Gtid) (dev : Option Nat) : Bool :=
  let t := s.task g
  t.unacked = 0 && t.remoteOut.all fun e => some e.1 = dev || e.2 = 0

/-- What a task waits for while a syllable is outstanding that waits for earlier stores (R41, R344). -/
def releaseCause (i : Instr) : Cause :=
  match i with
  | .stef _ | .stff _ => .tag
  | .xresv _ | .xresvCfg _ | .xresvEnd _ | .xdisp _ | .xcomb _ => .status
  | _ => .release

/-- R394: a release: pending stores are registered; a failed remote store raises its MEMUE in its place (R530); while an
earlier store is outstanding, or one has failed, the syllable waits and is executed again. -/
def State.release (s : State) (i : Instr) (dev : Option Nat) (h : State → State) : State :=
  let g := s.curGtid
  let t := s.task g
  let s := if t.isRow then s.drainStores (tlbSpine t) g else s
  match t.remoteFail with
  | some (d, va) =>
    (s.modTask g fun t => { t with remoteFail := none }).raise
      { unit := s.memUnit, code := cMEMUE, write := true, va := va, detail := d }
  | none =>
    if s.storesDone g dev && (s.task g).redo = t.redo then h s
    else s.modTask g fun t => { t with retry := some (s.redoOf i) }.hold (releaseCause i)

/-- The acquire of the Spine: every unowned copy of the row's L1D is dropped (R393). -/
def State.acquire (s : State) : State :=
  let t := s.task s.curGtid
  if t.isRow then s.selfInvalidate (tlbSpine t) else s

/-! ### Remote requests (R135, R403, R404; field layouts: log entry 20) -/

/-- The operation code of an atomic message, and of a release write. -/
def homeOpCode (op : HomeOp) : Nat :=
  match op with
  | .amo o _ _ => (match o with
    | .fadd => 0 | .swap => 1 | .cas => 2 | .min => 3 | .max => 4 | .minu => 5 | .maxu => 6 | .and => 7 | .or => 8 | .xor => 9)
  | .tagged o _ => (match o with
    | .ldfe => 16 | .ldff => 17 | .stef => 18 | .stff => 19 | .sete => 20 | .setf => 21)
  | .write _ => 32
  | _ => 0

/-- The operands an atomic message carries. -/
def homeOpWords (op : HomeOp) : List Word :=
  match op with
  | .amo _ v c => [v, c]
  | .tagged _ v => [v, 0]
  | .write v => [v, 0]
  | _ => [0, 0]

/-- A store that a task does not wait for leaves for a device (R324, R404). -/
def State.countRemote (s : State) (g : Gtid) (dev : Nat) : State :=
  s.modTask g fun t => { t with remoteOut := Tbl.set 0 t.remoteOut dev (Tbl.get 0 t.remoteOut dev + 1) }

def homeOpBytes (op : HomeOp) : List Byte := ((homeOpWords op).map fun w => leBytes w.toNat 8).flatten

/-- One word of a task's access as a message to a peer; `parks` where the task waits for the answer of an atomic. -/
def State.sendPart (s : State) (g : Gtid) (dev k : Nat) (va : Word) (pa n : Nat) (op : HomeOp) (parks : Bool := true) : State :=
  let t := s.task g
  match op with
  | .read => s.send t.die 0x02 0 dev (BitVec.ofNat 64 pa) (BitVec.ofNat 64 n) [] (.part g k)
  | .write v => (s.countRemote g dev).send t.die 0x01 0 dev (BitVec.ofNat 64 pa) (BitVec.ofNat 64 n) (leBytes v.toNat n) (.store g va)
  | op =>
    let w3 := BitVec.ofNat 64 (n + 256 * homeOpCode op)
    if parks then s.send t.die 0x04 0 dev (BitVec.ofNat 64 pa) w3 (homeOpBytes op) (.part g k)
    else (s.countRemote g dev).send t.die 0x04 0 dev (BitVec.ofNat 64 pa) w3 (homeOpBytes op) (.store g va)

/-- R404, R533: flush markers on every path to the device, then the release write: of STL, of an AMO, STEF or STFF, which a
reply answers. -/
def State.sendRelease (s : State) (g : Gtid) (dev pa n : Nat) (op : HomeOp) : State :=
  let t := s.task g
  let tag := BitVec.ofNat 64 s.fab.relTag
  let s := { s with fab := { s.fab with relTag := s.fab.relTag + 1 } }
  let np := ((s.xchOf t.die).paths dev).1.length
  let s := (List.range np).foldl (fun s i => s.send t.die 0x06 0 dev tag 0 [] .none (psel := i + 1)) s
  s.send t.die 0x07 0 dev tag (BitVec.ofNat 64 np) (leBytes pa 8 ++ leBytes (n + 256 * homeOpCode op) 8 ++ homeOpBytes op) (.part g 0)
    (asks := !op.isWrite)

/-! ### Loads -/

/-- Do two parts of an access lie in one line of one access (R132)? -/
def sameLine (x y : Nat × Nat × Seg) : Bool := x.1 / 128 = y.1 / 128 && x.2.2.acc = y.2.2.acc && !pageRemote x.2.2.w1

/-- R132: an access to several words of one line reads them all at one time: their copies are filled anew. -/
def State.freshLines (s : State) (row : Nat) (ps : List (Nat × Nat × Seg)) : State :=
  (ps.filter fun x => ps.any fun y => y.1 ≠ x.1 && sameLine x y).foldl (fun s x => s.dropCopy row x.1) s

/-- The bytes of a Spine load in the L1D or at their homes, low address first; an uncorrectable word ends it (R385,
R391). -/
def State.spineRead (s : State) (g : Gtid) (row : Nat) : List (Nat × Nat × Seg) → Except (Word × Nat × Word) Nat × State
  | [] => (.ok 0, s)
  | (pa, n, x) :: r =>
    let (v, s) := if windowOf pa = .hbm then s.l1Load row g pa (pageNoalloc x.w1) else (.ok (s.blockRead (pa / 8 * 8) 8), s)
    match v with
    | .error (a, y) => (.error (x.va, a, y), s)
    | .ok w =>
      match s.spineRead g row r with
      | (.error y, s) => (.error y, s)
      | (.ok hi, s) => (.ok (w.toNat / 2 ^ (8 * (pa % 8)) % 2 ^ (8 * n) + 2 ^ (8 * n) * hi), s)

/-- A part of an access: its number, physical address, bytes, page and operation. -/
structure Part where
  k : Nat
  pa : Nat
  n : Nat
  seg : Seg
  op : HomeOp
  deriving DecidableEq, Repr

def Part.sameLine (x y : Part) : Bool := x.pa / 128 = y.pa / 128 && x.seg.acc = y.seg.acc && !pageRemote x.seg.w1

/-- Adjacent parts of one access in one line stand together (R132). -/
def groupParts : List Part → List (List Part)
  | [] => []
  | x :: r =>
    match groupParts r with
    | (y :: g) :: gs => if x.sameLine y then (x :: y :: g) :: gs else [x] :: (y :: g) :: gs
    | gs => [x] :: gs

/-- The parts of one line of a thread's access leave for their homes (R323): a block is reached at once, a remote page by
messages. -/
def State.sendGroup (s : State) (g : Gtid) (parks : Bool) (rd : Option Redo) (all : List Part) : List Part → State
  | [] => s
  | p :: r =>
    if pageRemote p.seg.w1 then
      (p :: r).foldl (fun s p => s.sendPart g (pageDev p.seg.w1) p.k p.seg.va p.pa p.n p.op parks) s
    else
      let s := if parks then s else s.modTask g fun t => { t with unacked := t.unacked + r.length + 1 }
      if windowOf p.pa = .die then
        (p :: r).foldl (fun s p =>
          let rep (s : State) (v : Word) : State :=
            { s with replies := s.replies ++ [{ gtid := g, part := p.k, parks := parks, res := .val v }] }
          match p.op with
          | .write v => rep (s.blockWrite g p.pa p.n v.toNat) 0
          | _ => rep s (s.blockRead p.pa p.n)) s
      else
        let t := s.task g
        s.sendBc (16 * t.die + t.bcNo)
          { org := .task g p.k, pa := p.pa, bytes := p.n, op := p.op, parks := parks, noalloc := pageNoalloc p.seg.w1, va := p.seg.va, redo := rd,
            mates := if p.op.isWrite then (all.filter fun q => q.seg.acc = p.seg.acc).map (·.pa) else [],
            tail := r.map fun q => { k := q.k, pa := q.pa, bytes := q.n, op := q.op } }

/-- The parts of an access with their numbers. -/
def numberParts (l : List (Nat × Nat × Seg × HomeOp)) : List Part :=
  ((List.range l.length).zip l).map fun e => { k := e.1, pa := e.2.1, n := e.2.2.1, seg := e.2.2.2.1, op := e.2.2.2.2 }

/-- The requests of a thread's access enter the queue of its BC (R323, R326). -/
def State.sendReqs (s : State) (g : Gtid) (parks : Bool) (rd : Option Redo) (l : List (Nat × Nat × Seg × HomeOp)) : State :=
  let ps := numberParts l
  (groupParts ps).foldl (fun s x => s.sendGroup g parks rd ps x) s

/-- The whole access translated, run by run of its rows (R321). -/
def State.translateAll (s : State) (a : Access) : List (Word × Nat) → Except Raised (List Seg) × State
  | [] => (.ok [], s)
  | (va, n) :: r =>
    match s.translate s.memTlb s.curGtid a s.memUnit va n with
    | (.error e, s) => (.error e, s)
    | (.ok l, s) =>
      match s.translateAll a r with
      | (.error e, s) => (.error e, s)
      | (.ok l', s) => (.ok (l ++ l'), s)

/-- The checks of an access, then what follows for the place it reaches (R321, R330, R413). -/
def State.access (s : State) (a : Access) (runs : List (Word × Nat)) (h : State → List Seg → Reach → State) : State :=
  match s.translateAll a runs with
  | (.error r, s) => s.raise r
  | (.ok l, s) =>
    match reachOf (s.task s.curGtid) l with
    | .bad => s.raise (accessFault a s.memUnit (((badSeg (s.task s.curGtid) l).map (·.va)).getD 0) cPERM)
    | .move bc => s.mustMigrate bc
    | p => h s l p

/-- A load of `n` bytes at `va` into an integer register (R130, R134, R135, R324). -/
def State.loadInt (s : State) (i : Instr) (va : Word) (d : BitVec 6) (n : Nat) (sx acq : Bool) : State :=
  s.access .load [(va, n)] fun s l p =>
    let g := s.curGtid
    let ps := partsOf l
    let wait (s : State) : State :=
      s.await i (.int d n sx) (ps.map (·.2.1)) acq va false (if s.onBc then .reply else .release) (ps.map (·.2.2.va))
    match p with
    | .remote dev => ((List.range ps.length).zip ps).foldl (fun s kp => s.sendPart g dev kp.1 kp.2.2.2.va kp.2.1 kp.2.2.1 .read) (wait s)
    | _ =>
      if s.onBc then (wait s).sendReqs g true none (ps.map fun p => (p.1, p.2.1, p.2.2, .read))
      else
        let row := tlbSpine (s.task g)
        match (s.freshLines row ps).spineRead g row ps with
        | (.error (a, pa, y), s) => s.raise { unit := s.memUnit, code := cMEMUE, va := a, detail := memueDetail pa y }
        | (.ok v, s) =>
          let s := s.wrInt d (extendTo n sx v)
          if acq then s.acquire else s

/-- R429, R570: words of `va` on read as loads of the unit that executes: one load of `n` bytes for each of `count` words. Where
they have to be asked for, the syllable waits, and is executed again with them. -/
def State.readWords (s : State) (i : Instr) (va : Word) (n count : Nat) (h : State → Nat → State) : State :=
  let g := s.curGtid
  match (s.task g).got.find? fun x => x.1 = va && x.2.1 = n * count with
  | some x => h s x.2.2
  | none =>
    s.access .load ((List.range count).map fun i => (va + BitVec.ofNat 64 (n * i), n)) fun s l _ =>
      let ps := partsOf l
      let row := tlbSpine (s.task g)
      let wait (s : State) : State :=
        s.await i (.got va (n * count)) (ps.map (·.2.1)) false va false (if s.onBc then .reply else .status) (ps.map (·.2.2.va))
      if s.onBc then (wait s).sendReqs g true none (ps.map fun p => (p.1, p.2.1, p.2.2, .read))
      else
        match s.spineRead g row (ps.filter fun p => !pageRemote p.2.2.w1) with
        | (.error (a, pa, y), s) => s.raise { unit := s.memUnit, code := cMEMUE, va := a, detail := memueDetail pa y }
        | (.ok v, s) =>
          if !(ps.any fun p => pageRemote p.2.2.w1) then h s v
          else
            (((List.range ps.length).zip ps).foldl (fun (x : Nat × State) kp =>
              let (k, pa, b, y) := kp
              if pageRemote y.w1 then (x.1, x.2.sendPart g (pageDev y.w1) k y.va pa b .read)
              else (x.1 / 2 ^ (8 * b), x.2.fillPart g k (BitVec.ofNat 64 (x.1 % 2 ^ (8 * b))))) (v, wait s)).2

/-! ### Stores -/

/-- The value of part bytes cut from a stored value, with their requests. -/
def storeOps (v : Nat) : List (Nat × Nat × Seg) → List (Nat × Nat × Seg × HomeOp)
  | [] => []
  | (pa, n, x) :: r => (pa, n, x, .write (BitVec.ofNat 64 (v % 2 ^ (8 * n)))) :: storeOps (v / 2 ^ (8 * n)) r

/-- A Spine's plain store enters the row's L1D (R391). One that spans words of a line is registered at once, whole (R132). -/
def State.spineStore (s : State) (i : Instr) (g : Gtid) (l : List Seg) (v : Nat) : State :=
  let row := tlbSpine (s.task g)
  let ps := partsOf l
  (storeOps v ps).foldl (fun s o =>
    match o.2.2.2 with
    | .write w =>
      let p : L1Pend := { g := g, mask := 0, data := 0, va := o.2.2.1.va, redo := some (s.redoOf i), noalloc := pageNoalloc o.2.2.1.w1 }
      if windowOf o.1 = .die then s.blockWrite g o.1 o.2.1 w.toNat
      else if ps.any fun y => y.1 ≠ o.1 && sameLine y (o.1, o.2.1, o.2.2.1) then
        let s := (s.l1Bound row o.1).l1Pend row o.1 o.2.1 w.toNat p
        if ps.any fun y => o.1 < y.1 && sameLine y (o.1, o.2.1, o.2.2.1) then s else s.registerLine row o.1 g
      else s.l1Store row o.1 o.2.1 w.toNat p
    | _ => s) s

/-- A plain store of the low `n` bytes of a value (R130, R134, R391, R403). -/
def State.storeInt (s : State) (i : Instr) (va : Word) (n : Nat) (v : Word) : State :=
  s.access .store [(va, n)] fun s l p =>
    let g := s.curGtid
    let ops := storeOps v.toNat (partsOf l)
    match p with
    | .remote dev => ops.foldl (fun s o => s.sendPart g dev 0 o.2.2.1.va o.1 o.2.1 o.2.2.2) s
    | _ =>
      if inBlock l && l.any (fun x => blkOf x.pa = 0) then s.raise (accessFault .store s.memUnit va cPERM)
      else if s.onBc then s.sendReqs g false (some (s.redoOf i)) ops
      else s.spineStore i g l v.toNat

/-- R136, STL: the release, then the release write, complete when it has performed. -/
def State.storeRelease (s : State) (i : Instr) (va : Word) (n : Nat) (v : Word) : State :=
  s.access .store [(va, n)] fun s l p =>
    let g := s.curGtid
    match l with
    | [] => s
    | x :: _ =>
      match p with
      | .remote dev =>
        s.release i (some dev) fun s =>
          (s.await i .none [8] false va true (if s.onBc then .reply else .release)).sendRelease g dev x.pa n (.write v)
      | _ =>
        if windowOf x.pa = .die && blkOf x.pa = 0 then s.raise (accessFault .store s.memUnit va cPERM)
        else
          s.release i none fun s =>
            if s.onBc then (s.await i .none [n] false va true .reply).sendReqs g true none (storeOps v.toNat (partsOf l))
            else (s.spineStore i g l v.toNat).registerLine (tlbSpine (s.task g)) x.pa g

/-! ### Atomics and tagged accesses at the home -/

/-- One request of the Spine or of a thread at a word's home, whose reply goes to register `d` (R138, R145). The Spine's own
pending stores of the line perform first, and the row's L1D gives the word up (R139, R395). A release write to a peer goes
behind its markers (R404). -/
def State.homeOp (s : State) (i : Instr) (va : Word) (n : Nat) (op : HomeOp) (d : MemDest) (acq rel : Bool) (c : Cause)
    (x : Seg) (p : Reach) : State :=
  let g := s.curGtid
  let t := s.task g
  let r : Req := { org := .task g 0, pa := x.pa, bytes := n, op := op, noalloc := pageNoalloc x.w1, va := va }
  match p with
  | .remote dev =>
    let s := s.await i d [n] acq va true (if s.onBc then .reply else c)
    if rel then s.sendRelease g dev x.pa n op else s.sendPart g dev 0 va x.pa n op
  | _ =>
    if windowOf x.pa = .die then s.raise (accessFault .rmw s.memUnit va cPERM)
    else if s.onBc then (s.await i d [n] acq va true .reply).sendBc (16 * t.die + t.bcNo) r
    else
      let row := tlbSpine t
      let s := s.registerLine row x.pa g
      let w := s.l1 row x.pa
      let s := s.setL1 row x.pa { w with copy := none, owned := false }
      (s.await i d [n] acq va true c).sendReq t.die (spineStation t.rowNo) r

/-! ### MEM (R130 to R136) -/

/-- Execution of a load of MEM. -/
def State.memLoad (s : State) (i : Instr) (f : FmtM) (n : Nat) (sx : Bool) : Out :=
  s.guarded f.g fun s => s.loadInt i (s.ea f) f.d n sx false

def State.memStore (s : State) (i : Instr) (f : FmtM) (n : Nat) : Out :=
  s.guarded f.g fun s => s.storeInt i (s.ea f) n (s.rdInt f.d)

/-- R130. -/
def execLd8 (f : FmtM) (s : State) : Out := s.memLoad (.ld8 f) f 1 false
/-- R130. -/
def execLd8sx (f : FmtM) (s : State) : Out := s.memLoad (.ld8sx f) f 1 true
/-- R130. -/
def execLd16 (f : FmtM) (s : State) : Out := s.memLoad (.ld16 f) f 2 false
/-- R130. -/
def execLd16sx (f : FmtM) (s : State) : Out := s.memLoad (.ld16sx f) f 2 true
/-- R130. -/
def execLd32 (f : FmtM) (s : State) : Out := s.memLoad (.ld32 f) f 4 false
/-- R130. -/
def execLd32sx (f : FmtM) (s : State) : Out := s.memLoad (.ld32sx f) f 4 true
/-- R130. -/
def execLd64 (f : FmtM) (s : State) : Out := s.memLoad (.ld64 f) f 8 false
/-- R130. -/
def execSt8 (f : FmtM) (s : State) : Out := s.memStore (.st8 f) f 1
/-- R130. -/
def execSt16 (f : FmtM) (s : State) : Out := s.memStore (.st16 f) f 2
/-- R130. -/
def execSt32 (f : FmtM) (s : State) : Out := s.memStore (.st32 f) f 4
/-- R130. -/
def execSt64 (f : FmtM) (s : State) : Out := s.memStore (.st64 f) f 8

/-- FLAGS[2] of LDA, STL and AMO: the width in bytes (R84, R130). -/
def widthOf (f : FmtM) : Nat := if f.flags.getLsbD 2 then 4 else 8

/-- R140, R146: an address that is not a multiple of the width raises ATOMAL, before translation (R413). -/
def State.aligned (s : State) (va : Word) (n : Nat) (wr : Bool) (h : State → State) : State :=
  if va.toNat % n = 0 then h s else s.raise { unit := s.memUnit, code := cATOMAL, write := wr, va := va }

/-- R130, R136, LDA: an acquire. -/
def execLda (f : FmtM) (s : State) : Out :=
  s.guarded f.g fun s =>
    s.aligned (s.ea f) (widthOf f) false fun s => s.loadInt (.lda f) (s.ea f) f.d (widthOf f) false true

/-- R130, R136, STL: a release. -/
def execStl (f : FmtM) (s : State) : Out :=
  s.guarded f.g fun s =>
    s.aligned (s.ea f) (widthOf f) true fun s => s.storeRelease (.stl f) (s.ea f) (widthOf f) (s.rdInt f.d)

/-! ### AMO (R138 to R141) -/

/-- R138 to R140: INDEX names the operand, D the old value and, for CAS, the compare value. -/
def State.amo (s : State) (i : Instr) (f : FmtM) (op : AmoOp) : Out :=
  s.guarded f.g fun s =>
    let n := widthOf f
    let va := s.rdInt f.base + f.disp.signExtend 64
    s.aligned va n true fun s =>
      s.access .rmw [(va, n)] fun s l p =>
        match l with
        | [] => s
        | x :: _ =>
          let go (s : State) : State :=
            s.homeOp i va n (.amo op (s.rdInt f.index) (s.rdInt f.d)) (.int f.d n false) (f.flags.getLsbD 0) (f.flags.getLsbD 1) .release x p
          if f.flags.getLsbD 1 then
            s.release i (match p with | .remote d => some d | _ => none) go
          else go s

/-- R138. -/
def execAmoFadd (f : FmtM) (s : State) : Out := s.amo (.amoFadd f) f .fadd
/-- R138. -/
def execAmoSwap (f : FmtM) (s : State) : Out := s.amo (.amoSwap f) f .swap
/-- R138. -/
def execAmoCas (f : FmtM) (s : State) : Out := s.amo (.amoCas f) f .cas
/-- R138. -/
def execAmoMin (f : FmtM) (s : State) : Out := s.amo (.amoMin f) f .min
/-- R138. -/
def execAmoMax (f : FmtM) (s : State) : Out := s.amo (.amoMax f) f .max
/-- R138. -/
def execAmoMinu (f : FmtM) (s : State) : Out := s.amo (.amoMinu f) f .minu
/-- R138. -/
def execAmoMaxu (f : FmtM) (s : State) : Out := s.amo (.amoMaxu f) f .maxu
/-- R138. -/
def execAmoAnd (f : FmtM) (s : State) : Out := s.amo (.amoAnd f) f .and
/-- R138. -/
def execAmoOr (f : FmtM) (s : State) : Out := s.amo (.amoOr f) f .or
/-- R138. -/
def execAmoXor (f : FmtM) (s : State) : Out := s.amo (.amoXor f) f .xor

/-! ### TAG (R145, R146) -/

/-- R145, R146: the test, the data access and the tag update at the word's home. -/
def State.taggedOp (s : State) (i : Instr) (f : FmtM) (op : TagOp) : Out :=
  s.guarded f.g fun s =>
    let va := s.ea f
    let a : Access := if op.loads || op = .stef then .rmw else .store
    s.aligned va 8 (a.writes) fun s =>
      s.access a [(va, 8)] fun s l p =>
        match l with
        | [] => s
        | x :: _ =>
          if !pageTag x.w1 then s.raise (accessFault a s.memUnit va cPERM)
          else
            let d : MemDest := if op.loads then .int f.d 8 false else .none
            let v := if op.stores then s.rdInt f.d else 0
            let go (s : State) : State := s.homeOp i va 8 (.tagged op v) d op.loads op.stores .tag x p
            if op.stores then s.release i (match p with | .remote d => some d | _ => none) go
            else if (op = .sete || op = .setf) && s.onBc then s.sendReqs s.curGtid false (some (s.redoOf i)) [(x.pa, 8, x, .tagged op 0)]
            else go s

/-- R145. -/
def execLdfe (f : FmtM) (s : State) : Out := s.taggedOp (.ldfe f) f .ldfe
/-- R145. -/
def execLdff (f : FmtM) (s : State) : Out := s.taggedOp (.ldff f) f .ldff
/-- R145. -/
def execStef (f : FmtM) (s : State) : Out := s.taggedOp (.stef f) f .stef
/-- R145. -/
def execStff (f : FmtM) (s : State) : Out := s.taggedOp (.stff f) f .stff
/-- R145. -/
def execSete (f : FmtM) (s : State) : Out := s.taggedOp (.sete f) f .sete
/-- R145. -/
def execSetf (f : FmtM) (s : State) : Out := s.taggedOp (.setf f) f .setf

/-! ### SYNC (R136, R137, R142 to R144, R373) -/

/-- R136. -/
def execFenceAcq (f : FmtA) (s : State) : Out := s.guarded f.g fun s => s.acquire

/-- R136. -/
def execFenceRel (f : FmtA) (s : State) : Out := s.guarded f.g fun s => s.release (.fenceRel f) none id

/-- R136: FENCE.REL, then FENCE.ACQ. -/
def execFence (f : FmtA) (s : State) : Out := s.guarded f.g fun s => s.release (.fence f) none fun s => s.acquire

/-- The lines of a range of virtual addresses up to the end of the address space, and whether the range passes it (R142, R143). -/
def lineCount (a l : Word) : Nat × Bool :=
  if l = 0 then (0, false)
  else
    let last := min (a.toNat + l.toNat - 1) (2 ^ 64 - 1)
    (last / 128 - a.toNat / 128 + 1, 2 ^ 64 < a.toNat + l.toNat)

/-- A quiet translation of one address: the leaf, without its permissions (R143). -/
def State.peekLeaf (s : State) (k : Nat) (g : Gtid) (va : Word) : Option TlbEntry × State :=
  match s.lookup k g (s.task g).asid (s.task g).root va with
  | (.ok e, s) => (some e, s)
  | (.error _, s) => (none, s)

/-- The physical lines of a range: none for a line that is unmapped, on a no-allocate or remote page, or outside local HBM
(fuel: the lines). -/
def State.pinLines (s : State) (k : Nat) (g : Gtid) (va : Word) : Nat → List (Option Nat) × State
  | 0 => ([], s)
  | n + 1 =>
    let (e, s) := s.peekLeaf k g va
    let pa := match e with
      | none => none
      | some e => if pageNoalloc e.w1 || pageRemote e.w1 || windowOf (e.pa va) ≠ .hbm then none else some (e.pa va)
    let (l, s) := s.pinLines k g (va + 128) n
    (pa :: l, s)

/-- The holder number of a launch is its serial, that of a die's residency holder 2^40 and the die. -/
def State.isHeldBy (s : State) (pa h : Nat) : Bool := (s.line pa).holders.contains h

/-- Lines a holder pins, on the whole module. -/
def State.heldLines (s : State) (h : Nat) : Nat := (s.lines.filter fun e => e.2.holders.contains h).length

/-- Pinned lines of the set of an address (R373). -/
def State.pinnedIn (s : State) (pa : Nat) : Nat :=
  (s.lines.filter fun e =>
    !e.2.holders.isEmpty && paDie (e.1 * 128) = paDie pa && homeSlice (e.1 * 128) = homeSlice pa && lineSet (e.1 * 128) = lineSet pa).length

/-- A holder takes a line: the line becomes resident, where its set has a way for it, and pinned (R371, R373). -/
def State.pinLine (s : State) (h pa : Nat) : State :=
  if s.isHeldBy pa h then s
  else
    let s := s.touchLine pa false
    let l := s.line pa
    let s := s.setLine pa { l with holders := l.holders ++ [h] }
    if l.holders.isEmpty then s.bumpReg (sliceCounter pa 4) else s

/-- A holder gives a line up. -/
def State.unpinLine (s : State) (h pa : Nat) : State :=
  if !s.isHeldBy pa h then s
  else
    let l := s.line pa
    let s := s.setLine pa { l with holders := l.holders.filter (· ≠ h) }
    if l.holders.length = 1 then s.setReg (sliceCounter pa 4) (s.reg (sliceCounter pa 4) - 1) else s

/-- R143: would a set hold more than 12 pinned lines? Pins are tried one after another on a copy of the state. -/
def State.waysFail (s : State) (h : Nat) : List Nat → Bool
  | [] => false
  | pa :: r =>
    if (s.line pa).holders.isEmpty && 12 ≤ s.pinnedIn pa then true else (s.pinLine h pa).waysFail h r

/-- R143: pins every line or none: the lowest status that applies, and the state. -/
def State.pinRange (s : State) (h : Nat) (quota : Nat) (lines : List (Option Nat)) : Nat × State :=
  let found := (lines.filterMap id).eraseDups
  let new := found.filter fun pa => !s.isHeldBy pa h
  let lost := (lines.filter (·.isNone)).length
  if quota < 128 * (s.heldLines h + new.length + lost) then (1, s)
  else if s.waysFail h new then (2, s)
  else if lost ≠ 0 then (3, s)
  else (0, new.foldl (fun s pa => s.pinLine h pa) s)

/-- The pin quota of the launch of a task (R143, R450). -/
def State.quotaOf (s : State) (launch : Nat) : Nat :=
  match Tbl.get none s.sched.launches launch with
  | some l => l.quota
  | none => 0

/-- A status that a thread parks for comes as a reply; the Spine has it when the syllable is done (R143, R324). -/
def State.statusTo (s : State) (i : Instr) (d : BitVec 6) (v : Word) : State :=
  let s := s.modCurTask fun t => { t with got := [] }
  if s.onBc then
    let g := s.curGtid
    let s := s.await i (.int d 8 false) [8] false 0 false .reply
    { s with replies := s.replies ++ [{ gtid := g, part := 0, parks := true, res := .val v }] }
  else s.wrInt d v

/-- R143, PIN. -/
def execPin (f : FmtA) (s : State) : Out :=
  s.guarded f.g fun s =>
    let g := s.curGtid
    let a := s.rdInt f.sa
    let l := s.rdInt f.sb
    let h := (s.task g).launch
    let (n, past) := lineCount a l
    let (lines, s) := s.pinLines s.memTlb g (a &&& ~~~127) n
    let (st, s) := s.pinRange h (s.quotaOf h) (if past then lines ++ [none] else lines)
    s.statusTo (.pin f) f.d (BitVec.ofNat 64 st)

/-- The physical lines of a range that the launch holds, unmapped ones skipped. -/
def State.unpinLines (s : State) (k : Nat) (g : Gtid) (h : Nat) (va : Word) : Nat → List Nat × State
  | 0 => ([], s)
  | n + 1 =>
    let (e, s) := s.peekLeaf k g va
    let (l, s) := s.unpinLines k g h (va + 128) n
    match e with
    | none => (l, s)
    | some e => (if !pageRemote e.w1 && windowOf (e.pa va) = .hbm && s.isHeldBy (e.pa va) h then e.pa va :: l else l, s)

/-- R144, UNPIN: bytes released. -/
def execUnpin (f : FmtA) (s : State) : Out :=
  s.guarded f.g fun s =>
    let g := s.curGtid
    let a := s.rdInt f.sa
    let h := (s.task g).launch
    let (l, s) := s.unpinLines s.memTlb g h (a &&& ~~~127) (lineCount a (s.rdInt f.sb)).1
    let l := l.eraseDups
    let s := l.foldl (fun s pa => s.unpinLine h pa) s
    s.statusTo (.unpin f) f.d (BitVec.ofNat 64 (128 * l.length))

end Sys2Proof.Machine
end

