-- ==== Sys2Proof/Machine/Slots.lean ====
section
/-! DEFINITION. The slot tables of the dies, the context that holds a row, and the threads of a binning core (R19, R312,
R331, R358, R454, R458). -/

namespace Sys2Proof.Machine

/-- The slot entry of a row context: rslot(r, x) (R447). -/
def rslotReg (die row x : Nat) : Nat := dieReg die 2 (0x4000 + 64 * (2 * row + x))

/-- The slot entry of a binning slot: bslot(b, k) (R447). -/
def bslotReg (die bc k : Nat) : Nat := dieReg die 2 (0x5000 + 64 * (16 * bc + k))

/-- The slot entry of a place, if it is a slot. -/
def Place.reg (p : Place) : Option Nat :=
  match p with
  | .row d r fil => some (rslotReg d r (if fil then 1 else 0))
  | .bc d b k => some (bslotReg d b k)
  | _ => Option.none

/-- Writes the words of an entry from word `i` on. -/
def State.putEntry (s : State) (base : Nat) : Nat → List Word → State
  | _, [] => s
  | i, w :: r => (s.setReg (base + 8 * i) w).putEntry base (i + 1) r

/-- The entry of a place holds a task's bind record; an entry without one is free. -/
def State.writeSlot (s : State) (p : Place) (ws : List Word) : State :=
  match p.reg with
  | none => s
  | some b => s.putEntry b 0 ws

/-- R454: the entry is free. -/
def State.freeSlot (s : State) (p : Place) : State := s.writeSlot p (List.replicate 8 0)

/-- The task bound in a row context, if one is. -/
def State.rowTask (s : State) (die row : Nat) (fil : Bool) : Option Gtid :=
  (List.find? (fun e => e.2.place = .row die row fil) s.tasks).map fun e => BitVec.ofNat 64 e.1

/-- The task in the other context of a task's row. -/
def State.partner (s : State) (t : Task) : Option Gtid :=
  match t.place with
  | .row d r fil => s.rowTask d r (!fil)
  | _ => none

/-- R509: does the power limiter admit filler work on a row? -/
def State.admits (s : State) (die row : Nat) : Bool := s.pow.admitted.contains (8 * die + row) && !s.pow.tripped

/-- R19, R358, R458: does a task's context hold its row? The filler's does while ACTIVE is set, or, while the limiter admits
filler work, where no primary is bound. -/
def State.holdsRow (s : State) (t : Task) : Bool :=
  match t.place with
  | .row _ _ false => !t.fillActive
  | .row d r true =>
    match s.rowTask d r false with
    | none => s.admits d r
    | some g => (s.task g).fillActive
  | _ => false

/-- The task in a slot of a BC. -/
def State.slotTask (s : State) (die bc k : Nat) : Option Gtid :=
  (List.find? (fun e => e.2.place = .bc die bc k) s.tasks).map fun e => BitVec.ofNat 64 e.1

/-- The key of a BC of the module. -/
def bcKey (die bc : Nat) : Nat := 16 * die + bc

/-- The free slot of lowest number among the usable slots of a BC (R312). -/
def State.freeBcSlot (s : State) (die bc : Nat) : Option Nat :=
  (List.range (Tbl.get 16 s.sched.modes die)).find? fun k => (s.slotTask die bc k).isNone

/-- Does the task hold a slot, or an inbox entry? -/
def Task.bound (t : Task) : Bool :=
  match t.place with
  | .none => false
  | _ => true

/-! ### Withholding (R508, R510) -/

/-- The class of a task: 0 urgent, 1 normal, 2 background, 3 filler (R451). -/
def State.classOf (s : State) (t : Task) : Nat :=
  match Tbl.get none s.sched.launches t.launch with
  | some l => l.cls
  | none => 1

/-- R508: does the limiter withhold issue of a kind (0 row, 1 binning core, 2 engine) from a task? -/
def State.withheld (s : State) (kind : Nat) (t : Task) : Bool := s.pow.tripped || s.pow.held.contains (kind, s.classOf t)

end Sys2Proof.Machine
end

