-- ==== Sys2Proof/Machine/Binning.lean ====
section
/-! DEFINITION. The binning core: replies and wakes, migration, SPAWN, BINAPP, BINCLR; the same replies and satisfied
waits on the Spine (R42, R136, R147, R152, R323 to R341, R459). -/

namespace Sys2Proof.Machine

/-! ### Replies (R322, R324, R326) -/

/-- The first reply for a task, and the others. -/
def takeReplyOf (g : Gtid) : List Reply → Option (Reply × List Reply)
  | [] => none
  | r :: l =>
    if r.gtid = g then some (r, l)
    else match takeReplyOf g l with
      | none => none
      | some (x, l') => some (x, r :: l')

/-- A reply reaches its task: a part of the access it waits for, or the end of a request it does not wait for. -/
def State.deliver (s : State) (r : Reply) : State :=
  let g := r.gtid
  if r.parks then
    match r.res with
    | .val v => s.fillPart g r.part v
    | .ue pa y => s.failAccess g r.part cMEMUE (memueDetail pa y)
    | .bad c => s.failAccess g r.part c 0
  else
    let s := s.modTask g fun t => { t with unacked := t.unacked - 1 }
    match r.res with
    | .ue pa y =>
      let s := s.modTask g fun t => { t with redo := t.redo ++ r.redo.toList }
      s.takeBcFault g { unit := 6, code := cMEMUE, write := true, va := r.va, detail := memueDetail pa y }
        ((r.redo.map (·.addr)).getD 0) false
    | _ => s

/-- R326: a reply reaches its thread; one to a thread out of its slot waits for the restore (R43). -/
def execBcReply (g : Gtid) (s : State) : Out :=
  .next (if (s.task g).isRow || !(s.task g).bound then s
  else match takeReplyOf g s.replies with
    | none => s
    | some (r, l) => { s with replies := l }.deliver r)

/-- Is the wait of a task for its earlier stores over (R136, R394)? -/
def State.retryReady (s : State) (g : Gtid) : Bool := (s.task g).retry.isSome && s.storesDone g none

/-- R42, R136, R147: the wait of a task is satisfied: a reply reaches a row task, or the earlier stores a release waits
for are done and its syllable may execute. -/
def execWaitSatisfied (g : Gtid) (s : State) : Out :=
  .next (if !(s.task g).bound then s
  else match (if (s.task g).isRow then takeReplyOf g s.replies else none) with
  | some (r, l) => { s with replies := l }.deliver r
  | none =>
    if s.retryReady g || ((s.task g).retry.isSome && (s.task g).remoteFail.isSome) then
      s.modTask g fun t => { t with redo := t.redo ++ t.retry.toList, retry := none }.release .release |>.release .tag |>.release .status
    else s)

/-! ### Wakes and service replies -/

/-- R335, R336: a wake message: a thread parked on a translation fault on the die of the register is ready again, and its
record needs no resume. -/
def State.wake (s : State) (die : Nat) (g : Gtid) : State :=
  let t := s.task g
  if !t.isRow && t.die = die && t.bound && t.causes.contains .translation then
    { s with faultHeld := s.faultHeld.filter fun f => f.gtid ≠ g || !f.wakes }.modTask g fun t => t.release .translation
  else s

/-- R336: firmware writes a GTID to the wake register of the die where the thread stands. -/
def execBwake (g : Gtid) (s : State) : Out := .next (s.wake (s.task g).die g)

/-- R459: the reply of a service. -/
def State.syscValue (s : State) (q : SyscReq) : Word :=
  let t := s.task q.gtid
  match q.svc with
  | 0 => q.arg
  | 1 => t.startTick
  | 2 => t.wdLimit - t.wdCount
  | 3 => s.reg (dieReg 0 2 (0x2000 + 8 * (q.arg.toNat % 1024)))
  | _ => BitVec.allOnes 64

/-- R152, R459: the scheduler core answers a SYSC: the reply goes to S(D), and the task goes on. A reply to a task out of
its slot waits for the restore. -/
def execSyscReply (g : Gtid) (s : State) : Out :=
  .next (match s.syscs.find? fun q => q.gtid = g with
  | none => s
  | some q =>
    if !(s.task g).bound then s
    else
      let v := s.syscValue q
      let s := { s with syscs := s.syscs.filter fun x => x.gtid ≠ g }
      (match q.d with
       | some d => s.putInt g d v
       | none => s).modTask g fun t => t.release .sysc)

/-! ### Migration (R330 to R334) -/

/-- R37, R38: the vector registers that a packet carries. -/
def Task.carriedVecs (t : Task) : List Nat :=
  (((List.range 8).filter fun i => Word.field t.vcarry (8 * i + 7) 1 = 1).map fun i => Word.field t.vcarry (8 * i) 7).filter
    (· < 256 / t.bcMode)

def State.inboxOf (s : State) (die bc : Nat) : List Gtid := Tbl.get [] s.sched.inbox (bcKey die bc)

def State.setInbox (s : State) (die bc : Nat) (l : List Gtid) : State :=
  { s with sched := { s.sched with inbox := Tbl.set [] s.sched.inbox (bcKey die bc) l } }

/-- R333: does another thread of the same core wait to migrate since an earlier cycle? -/
def State.earlierMigration (s : State) (g : Gtid) : Bool :=
  let t := s.task g
  s.tasks.any fun e => e.1 ≠ g.toNat && e.2.causes.contains .migration && e.2.migAt < t.migAt &&
    (match e.2.place, t.place with
     | .bc d b _, .bc d' b' _ => d = d' && b = b'
     | _, _ => false)

/-- R331, R332, R376: may the thread's packet be sent? Four cycles after its bundle would have issued at the earliest, with an
entry of the inbox free, and every earlier request of the thread acknowledged. -/
def State.migrateReady (s : State) (g : Gtid) : Bool :=
  let t := s.task g
  match t.place, t.migTo with
  | .bc d _ _, some b =>
    t.causes.contains .migration && t.migAt + 4 ≤ s.cycle && t.unacked = 0 && (s.inboxOf d b).length < 16 && !s.earlierMigration g
  | _, _ => false

/-- R332: the beats of a thread's packet. -/
def Task.packetBeats (t : Task) : Nat := 13 + 4 * t.carriedVecs.length

/-- R331, R332: the packet is sent: the source slot is free, and only the carried vector registers travel. Its last beat
arrives after the network's six stages (R375), and the thread is ready 16 cycles later. -/
def execMigrationSend (g : Gtid) (s : State) : Out :=
  .next (if !s.migrateReady g then s
  else
    let t := s.task g
    match t.migTo with
    | none => s
    | some b =>
      let s := (s.freeSlot t.place).setInbox t.die b (s.inboxOf t.die b ++ [g])
      s.modTask g fun t =>
        { t with place := .inbox t.die b, migTo := none, fetched := none, migAt := s.cycle + t.packetBeats + 6,
                 readyAt := s.cycle + t.packetBeats + 22,
                 vec := { t.vec with v := t.vec.v.filter fun e => t.carriedVecs.contains e.1 } })

/-- R331: the owner takes the first packet of its inbox into a free slot, where the thread is ready. -/
def execMigrationArrive (g : Gtid) (s : State) : Out :=
  .next (match (s.task g).place with
  | .inbox d b =>
    match s.inboxOf d b with
    | [] => s
    | h :: rest =>
      if h ≠ g || s.cycle < (s.task g).migAt then s
      else match s.freeBcSlot d b with
        | none => s
        | some k =>
          let s := (s.setInbox d b rest).writeSlot (.bc d b k) (s.task g).slotRec
          s.modTask g fun t => { t with place := .bc d b k, lastIssue := 0 }.release .migration
  | _ => s)

/-! ### SPAWN (R339, R47) -/

/-- The launch of a task. -/
def State.launchOf (s : State) (g : Gtid) : Option Launch := Tbl.get none s.sched.launches (s.task g).launch

def State.setLaunch (s : State) (l : Launch) : State :=
  { s with sched := { s.sched with launches := Tbl.set none s.sched.launches l.serial (some l) } }

/-- R20: the identifier of task `i` of a launch. -/
def gtidOf (serial i : Nat) : Gtid := BitVec.ofNat 64 (serial * 2 ^ 24 + i)

/-- R339: the new task: the spawner's mode, space and gang; its arguments; all else at its bind value (R29). -/
def spawnedTask (t : Task) (entry : Word) (args : List Word) : Task :=
  { st := .queued, isRow := false, launch := t.launch, gang := t.gang, asid := t.asid, root := t.root, bcMode := t.bcMode,
    vshape := vshapeBc, pc := entry &&& ~~~15, wdLimit := t.wdLimit, startTick := t.startTick,
    r := ((List.range args.length).zip args).foldl (fun r iw => Tbl.set 0 r iw.1 iw.2) [] }

/-- R339, R394: a release, then the new task takes the next index of its launch and queues on the die. -/
def execSpawn (f : FmtA) (s : State) : Out :=
  s.guarded f.g fun s =>
    s.release (.spawn f) none fun s =>
      let g := s.curGtid
      let t := s.task g
      let n := (f.mod.extractLsb' 0 5).toNat
      let args := (List.range n).map fun i => s.rdInt (BitVec.ofNat 6 (f.sb.toNat + i))
      match s.launchOf g with
      | none => s.statusTo (.spawn f) f.d 0
      | some l =>
        let q := Tbl.get [] s.sched.spawns t.die
        if 0xFFFFFF ≤ l.nextIndex then s.statusTo (.spawn f) f.d 0
        else if 256 ≤ q.length then s.statusTo (.spawn f) f.d 1
        else
          let new := gtidOf l.serial l.nextIndex
          let child := spawnedTask t (s.rdInt f.sa) args
          let gs := ((List.range l.gangs.length).zip l.gangs).map fun e =>
            if e.1 = t.gang then { e.2 with tasks := e.2.tasks ++ [new] } else e.2
          let s := s.setLaunch { l with nextIndex := l.nextIndex + 1, gangs := gs }
          let s := s.setTask new child
          let s := { s with sched := { s.sched with spawns := Tbl.set [] s.sched.spawns t.die (q ++ [new]) } }
          s.statusTo (.spawn f) f.d new

/-! ### BINAPP, BINCLR (R340, R341) -/

/-- PERM that is no translation fault (R340). -/
def binPerm (s : State) (va : Word) : State := s.raise { unit := s.memUnit, code := cPERM, write := true, va := va, hard := true }

/-- R340: the checks on a bin's header, then the request to the tile memory. -/
def State.binOp (s : State) (i : Instr) (d : BitVec 6) (h : Word) (op : HomeOp) : State :=
  s.aligned h 16 true fun s =>
    s.access .rmw [(h, 8)] fun s l p =>
      match l, p with
      | x :: _, .here =>
        if windowOf x.pa = .tile then
          (s.await i (.int d 8 false) [8] false h true .reply).sendBc (bcKey (s.task s.curGtid).die (s.task s.curGtid).bcNo)
            { org := .task s.curGtid 0, pa := x.pa, bytes := 8, op := op, va := h }
        else binPerm s h
      | _, _ => binPerm s h

/-- R340. -/
def execBinapp (f : FmtA) (s : State) : Out :=
  s.guarded f.g fun s => s.binOp (.binapp f) f.d (s.rdInt f.sa) (.binapp (s.rdInt f.sb) (s.rdInt (f.sb + 1)))

/-- R341. -/
def execBinclr (f : FmtA) (s : State) : Out :=
  s.guarded f.g fun s => s.binOp (.binclr f) f.d (s.rdInt f.sa) (.binclr (f.mod.getLsbD 0) (s.rdInt f.sb))

end Sys2Proof.Machine
end

