-- ==== Sys2Proof/Machine/Bulk.lean ====
section
/-! DEFINITION. Accesses of engines to memory: HBM and tile memories, line by line, each part whole at its home (R132, R290,
R371, R372, R383, R385, R392). -/

namespace Sys2Proof.Machine

/-- May an engine's access go to the page? -/
def Seg.plain (x : Seg) : Bool := !pageRemote x.w1 && (windowOf x.pa = .hbm || windowOf x.pa = .tile)

/-- The runs of a physical range in each 128-byte line (fuel: the lines). -/
def lineRuns (pa n : Nat) : Nat → List (Nat × Nat)
  | 0 => []
  | fuel + 1 =>
    if n = 0 then []
    else
      let k := min n (128 - pa % 128)
      (pa, k) :: lineRuns (pa + k) (n - k) fuel

/-- The words that a range touches. -/
def wordsIn (pa n : Nat) : List Nat := (List.range ((pa + n - 1) / 8 - pa / 8 + 1)).map fun i => (pa / 8 + i) * 8

/-- The words of a range whose unit of ECC it covers in part: an atom of HBM, a word of an SRAM array (R371, R383). -/
def State.partWords (s : State) (pa n : Nat) : List Nat :=
  (wordsIn pa n).filter fun a =>
    let u := if (s.cellOf a).array < 0x100 then 8 else 32
    a / u * u < pa || pa + n < a / u * u + u

/-- Reads a run within a line: its value, or the uncorrectable word. -/
def State.lineRead (s : State) (g : Gtid) (pa n : Nat) (noalloc : Bool) : Except (Nat × Word) Nat × State :=
  match s.reachWords g pa noalloc (wordsIn pa n) with
  | (some e, s) => (.error e, s)
  | (none, s) => (.ok (s.memRead pa n), s)

/-- Stores the low `n` bytes of a value at their homes, word by word (fuel: the words). -/
def State.putRun (s : State) (pa n v : Nat) : Nat → State
  | 0 => s
  | fuel + 1 =>
    if n = 0 then s
    else
      let k := min n (8 - pa % 8)
      (s.homeWrite none pa k (v % 2 ^ (8 * k))).putRun (pa + k) (n - k) (v / 2 ^ (8 * k)) fuel

/-- Writes a run within a line. One that covers all 128 bytes clears the line's error (R385). -/
def State.lineWrite (s : State) (g : Gtid) (pa n v : Nat) (noalloc : Bool) : Except (Nat × Word) Unit × State :=
  if windowOf pa = .hbm && n = 128 then
    let s := s.touchLine pa noalloc
    (.ok (), (s.setLine pa { s.line pa with held := false }).putRun pa n v 16)
  else
    match s.fetchLine g pa noalloc with
    | (some e, s) => (.error e, s)
    | (none, s) =>
      match s.checkWords g (if (s.line pa).held then [pa] else s.partWords pa n) with
      | (some (a, y), s) => (.error (ueAddr a, y), s)
      | (none, s) => (.ok (), s.putRun pa n v (n / 8 + 2))

/-- Reads the runs of an access, low address first. -/
def State.readRuns (s : State) (g : Gtid) (noalloc : Bool) : List (Nat × Nat) → Except (Nat × Word) Nat × State
  | [] => (.ok 0, s)
  | (pa, n) :: r =>
    match s.lineRead g pa n noalloc with
    | (.error e, s) => (.error e, s)
    | (.ok v, s) =>
      match s.readRuns g noalloc r with
      | (.error e, s) => (.error e, s)
      | (.ok w, s) => (.ok (v + 2 ^ (8 * n) * w), s)

def State.writeRuns (s : State) (g : Gtid) (noalloc : Bool) (v : Nat) : List (Nat × Nat) → Except (Nat × Word) Unit × State
  | [] => (.ok (), s)
  | (pa, n) :: r =>
    match s.lineWrite g pa n (v % 2 ^ (8 * n)) noalloc with
    | (.error e, s) => (.error e, s)
    | (.ok _, s) => s.writeRuns g noalloc (v / 2 ^ (8 * n)) r

/-- The runs of translated segments, and whether their pages allocate. -/
def segRuns (l : List Seg) : List (Nat × Nat) := (l.map fun x => lineRuns x.pa x.n (x.n / 128 + 2)).flatten

def segNoalloc (l : List Seg) : Bool := (l.head?.map fun x => pageNoalloc x.w1).getD false

/-- MEMUE of an engine's access. -/
def ueFault (a : Access) (unit : Nat) (va : Word) (e : Nat × Word) : Raised :=
  { accessFault a unit va cMEMUE with detail := memueDetail e.1 e.2 }

/-- R413: the pages of an engine's access, through TLB `k`. -/
def State.enginePages (s : State) (k : Nat) (g : Gtid) (a : Access) (unit : Nat) (va : Word) (n : Nat) :
    Except Raised (List Seg) × State :=
  match s.translate k g a unit va n with
  | (.error r, s) => (.error r, s)
  | (.ok l, s) =>
    match l.find? fun x => !x.plain with
    | some x => (.error (accessFault a unit x.va cPERM), s)
    | none => (.ok l, s)

/-- An engine's read of `n` bytes: their value and their pages. -/
def State.bulkRead (s : State) (k : Nat) (g : Gtid) (unit : Nat) (va : Word) (n : Nat) : Except Raised (Nat × List Seg) × State :=
  if n = 0 then (.ok (0, []), s)
  else match s.enginePages k g .load unit va n with
    | (.error r, s) => (.error r, s)
    | (.ok l, s) =>
      match s.readRuns g (segNoalloc l) (segRuns l) with
      | (.error e, s) => (.error (ueFault .load unit va e), s)
      | (.ok v, s) => (.ok (v, l), s)

/-- An engine's write of the low `n` bytes of a value. -/
def State.bulkWrite (s : State) (k : Nat) (g : Gtid) (unit : Nat) (va : Word) (n v : Nat) : Except Raised Unit × State :=
  if n = 0 then (.ok (), s)
  else match s.enginePages k g .store unit va n with
    | (.error r, s) => (.error r, s)
    | (.ok l, s) =>
      match s.writeRuns g (segNoalloc l) v (segRuns l) with
      | (.error e, s) => (.error (ueFault .store unit va e), s)
      | (.ok _, s) => (.ok (), s)

end Sys2Proof.Machine
end

