-- ==== Sys2Proof/Machine/Cells.lean ====
section
/-! DEFINITION. The arithmetic of the matrix array: the layout of a plane, what a cell adds to a partial sum, and a
whole result row (R218 to R225, R179). -/

namespace Sys2Proof.Machine

/-! ### Exact sums -/

/-- The exact sum of two values: a NaN or infinities of opposite sign give a NaN; an exact zero is +0 unless both terms are
-0 (R225). -/
def addVal (x y : FVal) : FVal :=
  match x, y with
  | .nan q, y => .nan (q || y.isSnan)
  | x, .nan q => .nan (q || x.isSnan)
  | .inf a, .inf b => if a = b then .inf a else .nan true
  | .inf a, .fin .. => .inf a
  | .fin .., .inf b => .inf b
  | .fin n1 m1 e1, .fin n2 m2 e2 =>
    let (m, e) := dyAdd (sgn n1 m1) e1 (sgn n2 m2) e2
    .fin (if m = 0 then m1 = 0 && m2 = 0 && n1 && n2 else m < 0) m.natAbs e

/-- The neutral term of a sum. -/
def noTerm : FVal := .fin true 0 0

def sumVals (l : List FVal) : FVal := l.foldl addVal noTerm

/-- The value of a scale, exact (R159). -/
def scaleVal (b : Nat) : FVal := .fin false (scaleUnits b) (-7)

def oneVal : FVal := .fin false 1 0

/-! ### Planes (R220 to R223) -/

/-- R220: elements a cell latches. -/
def kOf (fmt : Nat) : Nat :=
  match fmt with
  | 1 => 1
  | 2 => 4
  | 3 => 16
  | 4 => 16
  | 7 => 64
  | _ => 32

/-- R221: bytes of a weight row. -/
def weightLen (fmt : Nat) : Nat := 4 * kOf fmt * fmtBits fmt

/-- Bytes of one row's metadata, and scales of one row (R222, R223). -/
def metaLen (fmt : Nat) (sp : Bool) : Nat := if sp then 8 * kOf fmt else 0
def scaleCount (fmt : Nat) (sp : Bool) : Nat := (if sp then 64 else 32) * kOf fmt / 16

/-- R223: bytes of the auxiliary image. -/
def auxLen (fmt : Nat) (sp : Bool) (geo : Nat) : Nat :=
  32 * metaLen fmt sp + (if geo = 0 then 0 else 32 * scaleCount fmt sp) + (if geo = 2 then 2 else 0)

/-- R234: the beats of a tile. -/
def tileBeats (fmt : Nat) (sp : Bool) (geo : Nat) : Nat := (32 * weightLen fmt + auxLen fmt sp geo + 511) / 512

/-- The bytes of beat `b`: the weights end at a beat. -/
def beatLen (fmt : Nat) (sp : Bool) (geo b : Nat) : Nat := min 512 (32 * weightLen fmt + auxLen fmt sp geo - 512 * b)

/-- The parts of weight rows that beat `b` holds: row, first byte, bytes. -/
def beatRows (fmt b : Nat) : List (Nat × Nat × Nat) :=
  let l := weightLen fmt
  if 512 * b < 32 * l then
    if l < 512 then [(2 * b, 0, 256), (2 * b + 1, 0, 256)] else [(512 * b / l, 512 * b % l, 512)]
  else []

def Plane.row (p : Plane) (j : Nat) : BitVec 8192 := Tbl.get 0 p.w j

/-- Sets byte `q` of the auxiliary image of a plane (R223). -/
def Plane.putAux (p : Plane) (q : Nat) (b : Byte) : Plane :=
  let ml := metaLen p.fmt p.sp
  let sc := scaleCount p.fmt p.sp
  if q < 32 * ml then
    let old : BitVec 4096 := Tbl.get 0 p.metaRows (q / ml)
    let new := (old &&& ~~~((0xFF : BitVec 4096) <<< (8 * (q % ml)))) ||| (b.setWidth 4096 <<< (8 * (q % ml)))
    { p with metaRows := Tbl.set 0 p.metaRows (q / ml) new }
  else
    let q := q - 32 * ml
    if p.geo ≠ 0 && q < 32 * sc then { p with scale := Tbl.set 0 p.scale (256 * (q / sc) + q % sc) b }
    else if p.geo = 2 && q = 32 * sc then { p with band := (p.band &&& 0xFF00) ||| b.setWidth 16 }
    else if p.geo = 2 && q = 32 * sc + 1 then { p with band := (p.band &&& 0x00FF) ||| (b.setWidth 16 <<< 8) }
    else p

/-- Byte `q` of the auxiliary image. -/
def Plane.auxByte (p : Plane) (q : Nat) : Nat :=
  let ml := metaLen p.fmt p.sp
  let sc := scaleCount p.fmt p.sp
  if q < 32 * ml then (Tbl.get 0 p.metaRows (q / ml)).toNat / 2 ^ (8 * (q % ml)) % 256
  else
    let q := q - 32 * ml
    if p.geo ≠ 0 && q < 32 * sc then (Tbl.get 0 p.scale (256 * (q / sc) + q % sc)).toNat
    else p.band.toNat / (if q - 32 * sc = 0 then 1 else 256) % 256

def Plane.putAuxBytes (p : Plane) (q v : Nat) : Nat → Plane
  | 0 => p
  | n + 1 => (p.putAux q (BitVec.ofNat 8 v)).putAuxBytes (q + 1) (v / 256) n

def Plane.auxBytes (p : Plane) (q : Nat) : Nat → Nat
  | 0 => 0
  | n + 1 => p.auxByte q + 256 * p.auxBytes (q + 1) n

/-- Writes `n` bytes of a value at byte `o` of weight row `j`; the row's first bytes clear what the format does not use. -/
def Plane.putRow (p : Plane) (j o n v : Nat) : Plane :=
  let old := if o = 0 then 0 else (p.row j).toNat % 2 ^ (8 * o)
  { p with w := Tbl.set 0 p.w j (BitVec.ofNat 8192 (old + v % 2 ^ (8 * n) * 2 ^ (8 * o))) }

/-- A plane takes beat `b` of a tile of its own attributes. -/
def Plane.putBeat (p : Plane) (b v : Nat) : Plane :=
  if 512 * b < 32 * weightLen p.fmt then
    ((beatRows p.fmt b).foldl (fun (a : Plane × Nat) r => (a.1.putRow r.1 r.2.1 r.2.2 a.2, a.2 / 2 ^ (8 * r.2.2))) (p, v)).1
  else p.putAuxBytes (512 * b - 32 * weightLen p.fmt) v (beatLen p.fmt p.sp p.geo b)

/-- Beat `b` of the tile a plane holds. -/
def Plane.beat (p : Plane) (b : Nat) : Nat :=
  if 512 * b < 32 * weightLen p.fmt then
    ((beatRows p.fmt b).foldr (fun r a => (p.row r.1).toNat / 2 ^ (8 * r.2.1) % 2 ^ (8 * r.2.2) + 2 ^ (8 * r.2.2) * a) 0)
  else p.auxBytes (512 * b - 32 * weightLen p.fmt) (beatLen p.fmt p.sp p.geo b)

/-- A plane takes the attributes that come with a tile's first beat (R219, R242). -/
def Plane.begin (p : Plane) (fmt : Nat) (sp : Bool) (geo : Nat) : Plane :=
  { p with fmt := fmt, sp := sp, geo := geo, band := 0x3F80, metaRows := [] }

/-! ### One row through the array (R224) -/

/-- A streamed row: its bytes and its scales. -/
structure ARow where
  bytes : Nat
  scale : Nat → FVal := fun _ => oneVal
  band : Nat := 0x3F80                           -- its BF16 word
  spare : Nat → FVal := fun _ => oneVal          -- a plane's scales of blocks beyond those it has

/-- The accumulation format: FP64, INT32 or FP32. -/
def accFmt (fmt : Nat) : Nat := if fmt = 1 then 1 else if fmt = 8 then 9 else 2

/-- The bits of element `p`. -/
def elemBits (w v p : Nat) : Nat := v / 2 ^ (p * w) % 2 ^ w

/-- The position within its group of kept element `q` of weight row `j` (R222). -/
def Plane.keptAt (p : Plane) (j q : Nat) : Nat := (Tbl.get 0 p.metaRows j).toNat / 2 ^ (2 * q) % 4

/-- The terms of cell (i, j): the A element and the latched element that multiply, by index (R221, R222, R224). -/
def Plane.pairs (p : Plane) (sparse : Bool) (i j : Nat) : List (Nat × Nat) :=
  let k := kOf p.fmt
  (List.range k).map fun q => (if sparse then 4 * ((i * k + q) / 2) + p.keptAt j (i * k + q) else i * k + q, i * k + q)

/-- The block of a term: its 16 consecutive logical positions. -/
def blockOf (sparse : Bool) (q : Nat) : Nat := if sparse then q / 8 else q / 16

/-- R160, R225: is a band scale infinite or a NaN? -/
def bandBad (b : Nat) : Bool := b / 128 % 256 = 255

/-- What a cell of a float plane other than FP64 adds: the exact sum of its scaled blocks. -/
def Plane.cellSum (p : Plane) (a : ARow) (sparse : Bool) (i j : Nat) : FVal :=
  let k := kOf p.fmt
  let w := fmtBits p.fmt
  let F := floatFmt p.fmt
  let b0 := blockOf sparse (i * k)
  let b1 := blockOf sparse (i * k + k - 1)
  let scaled := 5 ≤ p.fmt && p.fmt ≤ 7
  let ts := p.pairs sparse i j
  sumVals ((List.range (b1 + 1 - b0)).map fun n =>
    let b := b0 + n
    let es := (ts.filter fun t => blockOf sparse t.2 = b).map fun t =>
      (fDecode F (elemBits w a.bytes t.1), fDecode F (elemBits w (p.row j).toNat t.2))
    let e := sumVals (es.map fun x => mulVal x.1 x.2)
    if !scaled then e
    else if bandBad a.band || (p.geo = 2 && bandBad p.band.toNat) then
      (if es.any fun x => x.1.isNan || x.2.isNan then .nan true else .fin false 0 0)
    else
      let sb := if p.geo = 0 then oneVal
        else if scaleCount p.fmt p.sp ≤ b then a.spare b
        else scaleVal (Tbl.get 0 p.scale (256 * j + b)).toNat
      let bb := if p.geo = 2 then bandVal p.band.toNat else oneVal
      mulVal e (mulVal (mulVal (a.scale b) sb) (mulVal (bandVal a.band) bb)))

/-- The partial sum that leaves cell (i, j), from the one that enters it. -/
def Plane.cell (p : Plane) (a : ARow) (sparse : Bool) (i j ps : Nat) : Nat :=
  let w := fmtBits p.fmt
  if p.fmt = 1 then
    (p.pairs sparse i j).foldl (fun ps t =>
      (fFma (floatFmt 1) 0 (fDecode (floatFmt 1) (elemBits w a.bytes t.1)) (fDecode (floatFmt 1) (elemBits w (p.row j).toNat t.2))
        (fDecode (floatFmt 1) ps)).bits) ps
  else if p.fmt = 8 then
    (BitVec.ofInt 32 ((p.pairs sparse i j).foldl (fun (n : Int) t =>
      n + (BitVec.ofNat 8 (elemBits w a.bytes t.1)).toInt * (BitVec.ofNat 8 (elemBits w (p.row j).toNat t.2)).toInt) ps)).toNat
  else (fConvert (floatFmt 2) 0 false (addVal (fDecode (floatFmt 2) ps) (p.cellSum a sparse i j))).bits

/-- R225: a result of an accumulation format is never -0. -/
def noMinusZero (P x : Nat) : Nat := if P ≠ 9 && x = 2 ^ (fmtBits P - 1) then 0 else x

/-- Result column `j` of a row: the partial sum through cell rows 0 to 31, from +0. -/
def Plane.column (p : Plane) (a : ARow) (sparse : Bool) (j : Nat) : Nat :=
  noMinusZero (accFmt p.fmt) ((List.range 32).foldl (fun ps i => p.cell a sparse i j ps) 0)

/-- The 32 results of a row. -/
def Plane.results (p : Plane) (a : ARow) (sparse : Bool) : List Nat := (List.range 32).map fun j => p.column a sparse j

/-! ### The streaming port (R230) -/

/-- A result as a value. -/
def resultVal (P bits : Nat) : FVal :=
  if P = 9 then (let k := (BitVec.ofNat 32 bits).toInt; .fin (k < 0) k.natAbs 0) else fDecode (floatFmt P) bits

/-- The range of an integer output format. -/
def outRange (fmt : Nat) : Int × Int := (-(2 ^ (fmtBits fmt - 1) : Int), 2 ^ (fmtBits fmt - 1) - 1)

/-- R230: the stored element for a result, without ACC. -/
def portConvert (ofmt : Nat) (scale : BitVec 32) (P y : Nat) : Nat :=
  let x := mulVal (resultVal P y) (fDecode (floatFmt 2) scale.toNat)
  if isIntCode ofmt then (BitVec.ofInt (fmtBits ofmt) (fToInt 0 (outRange ofmt).1 (outRange ofmt).2 x).1).toNat
  else (fConvert (floatFmt ofmt) 0 true x).bits

/-- R230: the stored element for a result added to the destination's. -/
def portAdd (ofmt : Nat) (scale : BitVec 32) (P y old : Nat) : Nat :=
  let v := resultVal P y
  let x := mulVal v (fDecode (floatFmt 2) scale.toNat)
  if isIntCode ofmt then
    let o := (BitVec.ofNat (fmtBits ofmt) old).toInt
    let k := match v with
      | .nan _ => 0
      | .inf n => if n then (outRange ofmt).1 else (outRange ofmt).2
      | _ => (fToInt 0 (outRange ofmt).1 (outRange ofmt).2 (addVal (.fin (o < 0) o.natAbs 0) x)).1
    (BitVec.ofInt (fmtBits ofmt) k).toNat
  else (fConvert (floatFmt ofmt) 0 true (addVal (fDecode (floatFmt ofmt) old) x)).bits

end Sys2Proof.Machine
end

