-- ==== Sys2Proof/Machine/Engine.lean ====
section
/-! DEFINITION. What the engines of a core share: their command queues, the dependence tokens, and the push of an
instruction that has retired (R71, R83, R305 to R308). -/

namespace Sys2Proof.Machine

/-! ### Numbers of engines (R305): V 0, MX 1, QR 2, CP 3, XE 4 -/

def engineNo : Engine → Nat
  | .v => 0
  | .mx => 1
  | .qr => 2
  | .cp => 3
  | .xe => 4

/-- The engine that executes a syllable (R71). -/
def EngOp.engine (o : EngOp) : Nat :=
  match o with
  | .mldb | .mswap | .mring | .mma | .mmas | .gmma | .mzero | .mdrain | .mstream => 1
  | .qcfg | .qtri | .qapply | .qang | .qrot | .qsolve | .qgain | .qldt | .qstt => 2
  | .cp | .cpg | .cps | .cpd | .cpf | .cpw | .cpq | .arrv | .waitb => 3
  | _ => 4

/-! ### Queues (R305, R306) -/

/-- Queue from engine `i` to engine `j`. -/
def queueKey (i j : Nat) : Nat := 5 * i + j

/-- The engines a pop mask names: [44] V, [45] MX, [46] QR, [47] CP (R70). -/
def popsOf (f : FmtE) : List Nat := (List.range 4).filter fun i => f.pop.getLsbD i

/-- The engine a push goes to (R71). -/
def pushOf (f : FmtE) : Option Nat := if f.push = 0 then none else some (f.push.toNat - 1)

/-- R306: does every queue an instruction of engine `e` pops hold a token? -/
def Share.canPop (h : Share) (e : Nat) (f : FmtE) : Bool := (popsOf f).all fun i => Tbl.get 0 h.tokens (queueKey i e) ≠ 0

/-- R306: one token from every queue, in one step. -/
def Share.takePops (h : Share) (e : Nat) (f : FmtE) : Share :=
  { h with tokens := (popsOf f).foldl (fun t i => Tbl.set 0 t (queueKey i e) (Tbl.get 0 t (queueKey i e) - 1)) h.tokens }

def Share.duesOf (h : Share) (e : Nat) : List Due := Tbl.get [] h.dues e

/-- An executed instruction of engine `e` owes its push. -/
def Share.owe (h : Share) (e seq : Nat) (f : FmtE) (retired : Bool) : Share :=
  match pushOf f with
  | none => h
  | some d => { h with dues := Tbl.set [] h.dues e (h.duesOf e ++ [{ seq := seq, dest := d, retired := retired }]) }

/-- An instruction retires: its push is due (R306). -/
def Share.retire (h : Share) (e seq : Nat) : Share :=
  { h with dues := Tbl.set [] h.dues e ((h.duesOf e).map fun d => if d.seq = seq then { d with retired := true } else d) }

/-- R306: the pushes of an engine that come next on their queues, and whose instructions have retired. -/
def readyDues : List Nat → List Due → List Due
  | _, [] => []
  | met, d :: r => if met.contains d.dest then readyDues met r else (if d.retired then [d] else []) ++ readyDues (d.dest :: met) r

/-- The pushes of engine `e` that may come next: MX pushes in the order of all its instructions (R237). -/
def Share.nextDues (h : Share) (e : Nat) : List Due :=
  if e = 1 then ((h.duesOf e).take 1).filter (·.retired) else readyDues [] (h.duesOf e)

/-- Is there room for a push of engine `e`? -/
def Share.hasRoom (h : Share) (e : Nat) (d : Due) : Bool := Tbl.get 0 h.tokens (queueKey e d.dest) < 16

/-- R306: does a push of the engine wait on a full queue? -/
def Share.pushWaits (h : Share) (e : Nat) : Bool := (h.nextDues e).any fun d => !h.hasRoom e d

/-- R306: a push that is due and has room is performed. -/
def Share.pushOne (h : Share) (e : Nat) : Share :=
  match (h.nextDues e).find? (h.hasRoom e) with
  | none => h
  | some d =>
    { h with dues := Tbl.set [] h.dues e ((h.duesOf e).erase d),
             tokens := Tbl.set 0 h.tokens (queueKey e d.dest) (Tbl.get 0 h.tokens (queueKey e d.dest) + 1) }

/-! ### Commands -/

/-- R59, R308, R358: the engines of a core serve the context of a task in a row, unless a fault of an earlier cycle has stopped
them. -/
def State.engineOn (s : State) (g : Gtid) (c : Nat) : Bool :=
  (match (s.task g).place with | .row .. => true | _ => false) && c < 8 && (!(s.share g c).stopped || (s.share g c).stopAt = s.cycle)

/-! The pipes of a core's engines, each of which works for one context in a cycle: the primary's steps come first (R358). -/

def pipeComp : Nat := 0
def pipeLoad : Nat := 1
def pipeMxStart : Nat := 2
def pipeXe : Nat := 3

/-- The pipe works for this context in cycle `now`. -/
def Share.usePipe (h : Share) (p now : Nat) : Share := { h with usedAt := Tbl.set 0 h.usedAt p (now + 1) }

/-- R358: has the pipe worked for the other context of the row in this cycle? -/
def State.pipeTaken (s : State) (g : Gtid) (c p : Nat) : Bool :=
  match s.partner (s.task g) with
  | none => false
  | some q => Tbl.get 0 (s.share q c).usedAt p = s.cycle + 1

/-- R306: may engine `e` start an instruction? No push of its own waits, and the limiter does not withhold it (R508). -/
def State.engineFree (s : State) (g : Gtid) (c e : Nat) : Bool :=
  s.engineOn g c && !(s.share g c).pushWaits e && !s.withheld 2 (s.task g)

/-- An engine syllable's operands as its core reads them (R70, R241, R264, R292). -/
def State.cmdOf (s : State) (op : EngOp) (f : FmtE) : Cmd :=
  { op := op, f := f, addr := s.curAddr, a := s.opA f, b := s.opB f, c := s.opC f, time := s.issueTime f,
    qcfg := s.rdShare.qcfg, seq := (s.share s.curGtid s.curCore).seq }

/-- The queue of engine `e` on a share (R307, R541). -/
def Share.cmds (h : Share) (e : Nat) : List Cmd :=
  match e with
  | 1 => h.mxq
  | 2 => h.qrq
  | 3 => h.cpq
  | 4 => h.xeq
  | _ => []

/-- A command is accepted by its engine, in order of execution, and its push is owed. -/
def Share.accept (h : Share) (cmd : Cmd) : Share :=
  let h := { h with seq := h.seq + 1 }.owe cmd.op.engine cmd.seq cmd.f false
  match cmd.op.engine with
  | 1 => { h with mxq := h.mxq ++ [cmd] }
  | 2 => { h with qrq := h.qrq ++ [cmd] }
  | 3 => { h with cpq := h.cpq ++ [cmd] }
  | _ => { h with xeq := h.xeq ++ [cmd] }

/-- R241, R264, R541: a core executes a syllable of an engine: its command enters the engine's queue. -/
def State.issueCmd (s : State) (cmd : Cmd) : State := s.modCurShare fun h => h.accept cmd

/-! ### The command stage of the copy engine (R292, R306) -/

/-- A command that has taken its pops: a copy enters the issue buffer, a wait retires. -/
def Share.stageOut (h : Share) (cmd : Cmd) : Share :=
  if cmd.op.isCopy then { h with copies := h.copies ++ [{ cmd := cmd }] } else h.retire 3 cmd.seq

/-- R306: the copy engine's commands take their pops in order, while the issue buffer has an entry for a copy (R292) (fuel: the
commands). -/
def Share.pumpCp (h : Share) : Nat → Share
  | 0 => h
  | n + 1 =>
    match h.cpq with
    | [] => h
    | cmd :: rest =>
      if h.stopped || h.pushWaits 3 || !h.canPop 3 cmd.f || (cmd.op.isCopy && 1024 ≤ h.copies.length) then h
      else (({ h with cpq := rest }.takePops 3 cmd.f).stageOut cmd).pumpCp n

/-- The command stage takes the pops that are there. -/
def State.pumpStage (s : State) (g : Gtid) (c : Nat) : State := s.modShare g c fun h => h.pumpCp h.cpq.length

/-! ### VTOK (R83) and TOKEN_PUSH (R306) -/

/-- R83: VTOK's pops, which the bundle has waited for (R349); its push is due when this bundle's V syllable has retired,
which is within the bundle. -/
def execVtok (f : FmtE) (s : State) : Out :=
  s.guarded f.g fun s =>
    s.modCurShare fun h =>
      if h.canPop 0 f then { h.takePops 0 f with seq := h.seq + 1 }.owe 0 h.seq f true else h

/-- R237, R306: a retired instruction of engine `e` pushes its token; commands of the copy stage that waited go on. -/
def execTokenPush (g : Gtid) (c : Nat) (e : Engine) (s : State) : Out :=
  .next ((s.modShare g c fun h => h.pushOne (engineNo e)).pumpStage g c)

end Sys2Proof.Machine
end

