-- ==== Sys2Proof/Machine/Names.lean ====
section
/-! DEFINITION. The share registers a per-core syllable names, and the check of the filler bank (R30, R31, R228, R266). -/

namespace Sys2Proof.Machine

/-- A register of a share, by file and number. -/
inductive ShareReg where
  | a (n : Nat)
  | p (n : Nat)
  | v (n : Nat)
  | m (n : Nat)
  | z (n : Nat)
  | t (n : Nat)
  deriving DecidableEq, Repr

/-- What a field names, by its role. -/
def roleNames (k : Role) (r : BitVec 6) : List ShareReg :=
  match k with
  | .int => [.a r.toNat]
  | .pred => [.p r.toNat]
  | .vec => [.v r.toNat]
  | .vec2 => [.v r.toNat, .v (r.toNat + 1)]
  | .mask => [.m r.toNat]
  | .none => []
  | .sel => []

/-- What an operand of an engine syllable names: an a register, unless FSEL makes it an s register. -/
def eNames (k : EUse) (r : BitVec 6) (isS : Bool) : List ShareReg :=
  match k with
  | .none => []
  | _ => if isS then [] else [.a r.toNat]

/-- The third source of a vector syllable, where it is an a or a v register (R186). -/
def cNames (cu : CUse) (f : FmtV) : List ShareReg :=
  if f.cfile = 1 then [.a f.vc.toNat]
  else if f.cfile = 0 && cu = .c then [.v f.vc.toNat]
  else []

/-- The registers named by the fields of a signature, guard included. -/
def sigNames : Sig → List ShareReg
  | .a d sa sb _ sbs f =>
    .p f.g.gp.toNat :: (roleNames d f.d ++ roleNames sa f.sa ++ (if sbs && f.mod.getLsbD 15 then [] else roleNames sb f.sb))
  | .i d sa f => .p f.g.gp.toNat :: (roleNames d f.d ++ roleNames sa f.sa)
  | .b sa _ _ f => .p f.g.gp.toNat :: roleNames sa f.sa
  | .m d _ ix f =>
    .p f.g.gp.toNat :: (roleNames d f.d ++ [.a f.base.toNat] ++
      (if f.ix || (ix = .stride && f.flags.getLsbD 0) then [.a f.index.toNat] else []))
  | .v vd va vb cu _ _ _ _ f =>
    .p f.g.gp.toNat :: (roleNames vd f.vd ++ roleNames va f.va ++
      (if cu = .b && f.cfile ≠ 0 then [] else roleNames vb f.vb) ++ cNames cu f ++ [.m f.mask.toNat])
  | .e ea eb ec _ _ _ _ _ f =>
    .p f.g.gp.toNat :: (eNames ea f.opa (f.fsel.getLsbD 2) ++ eNames eb f.opb (f.fsel.getLsbD 1) ++
      eNames ec f.opc (f.fsel.getLsbD 0) ++ (if f.isAt && !f.ats then [.a f.atreg.toNat] else []))
  | .l f => [.p f.g.gp.toNat, .a f.d.toNat]

/-- The tile field MOD[7:5] of MMA, MMAS and MDRAIN. -/
def tileField (f : FmtE) : Nat := (f.mod.extractLsb' 5 3).toNat

/-- The accumulator tiles and triangular registers an engine syllable names (R228, R245, R248, R249, R266). -/
def tileNames : Instr → List ShareReg
  | .mma f => if (f.mod.extractLsb' 3 2).toNat = 2 then [] else [.z (tileField f)]
  | .mmas f => if (f.mod.extractLsb' 3 2).toNat = 2 then [] else [.z (tileField f)]
  | .mdrain f => [.z (tileField f)]
  | .mzero f => ((List.range 8).filter fun i => f.mod.getLsbD i).map .z
  | .qtri f => [.t (f.mod.toNat % 4)]
  | .qapply f => [.t (f.mod.toNat % 4)]
  | .qang f => [.t (f.mod.toNat % 4)]
  | .qrot f => [.t (f.mod.toNat % 4)]
  | .qsolve f => [.t (f.mod.toNat % 4)]
  | .qgain f => [.t (f.mod.toNat % 4)]
  | .qldt f => [.t (f.mod.toNat % 4)]
  | .qstt f => [.t (f.mod.toNat % 4)]
  | _ => []

/-- The predicate that SEL selects by (R112). -/
def selNames : Instr → List ShareReg
  | .mSel f => [.p (f.mod.toNat % 32)]
  | _ => []

/-- Every share register a per-core syllable names. -/
def namesOf (i : Instr) : List ShareReg :=
  (match i.sig with
   | none => []
   | some k => sigNames k) ++ tileNames i ++ selNames i

/-- R31: may a filler task name the register? -/
def ShareReg.fillerOk : ShareReg → Bool
  | .a n => 24 ≤ n
  | .p n => n = 0 || 24 ≤ n
  | .v n => 56 ≤ n
  | .m n => n = 0
  | .z n => n = 7
  | .t _ => false

/-- R30: is the register of the bank a primary gives up? -/
def ShareReg.inBank : ShareReg → Bool
  | .a n => 24 ≤ n
  | .p n => 24 ≤ n
  | .v n => 56 ≤ n
  | .m _ => false
  | .z n => n = 7
  | .t _ => false

/-- R30, R31: does a per-core syllable name a register outside its task's bank? -/
def State.outsideBank (s : State) (i : Instr) : Bool :=
  let t := s.task s.curGtid
  s.onCore &&
    (if t.isFiller then (namesOf i).any fun r => !r.fillerOk
     else if t.gaveBank then (namesOf i).any fun r => r.inBank
     else false)

end Sys2Proof.Machine
end

