-- ==== Sys2Proof/Machine/Flags.lean ====
section
/-! DEFINITION. fmode: the rounding mode and saturation an instruction takes from it, and the sticky flags it sets
(R35, R36, R172 to R174). -/

namespace Sys2Proof.Machine

/-- fmode of the executing context as it stood before the bundle. -/
def State.fmode (s : State) : Word := if s.onCore then s.rdShare.fmode else s.rdTask.fmode

/-- R172: the rounding mode of a field coded as RMODE; code 7 takes fmode.RM. -/
def State.roundMode (s : State) (code : Nat) : Nat := if code = 7 then s.fmode.toNat % 8 else code

/-- fmode.SAT. -/
def State.saturates (s : State) : Bool := s.fmode.getLsbD 3

/-- R173, R174: sticky flags are ORed into the fmode of the executing context, with the bundle's results. -/
def State.orFlags (s : State) (w : Word) : State :=
  let s := { s with flagAcc := s.flagAcc ||| w }
  if s.onCore then s.modCurShare fun h => { h with fmode := h.fmode ||| w }
  else s.modCurTask fun t => { t with fmode := t.fmode ||| w }

/-- A float result into an integer register, zero-extended, with its flags (R120). -/
def State.wrFloat (s : State) (d : BitVec 6) (r : FRes) : State := (s.wrInt d (BitVec.ofNat 64 r.bits)).orFlags r.flags

end Sys2Proof.Machine
end

