-- ==== Sys2Proof/Machine/Vec.lean ====
section
/-! DEFINITION. Vector registers, masks and shapes, and the scheme of a vector instruction: its checks, its operands, and
the writing of its result under a mask (R27, R28, R33, R34, R77, R182 to R188). -/

namespace Sys2Proof.Machine

/-! ### Registers of the executing unit -/

/-- Bytes of a vector register (R182). -/
def State.regBytes (s : State) : Nat := if s.onBc then 256 else 1024

def State.rdVecFile (s : State) : VecFile := if s.onCore then s.rdShare.vec else s.rdTask.vec

def State.rdVec (s : State) (n : Nat) : BitVec 8192 := Tbl.get 0 s.rdVecFile.v n

/-- Mask register `n` as stored; m0 reads as all ones (R27). -/
def State.rdMask (s : State) (n : Nat) : BitVec 2048 := if n = 0 then BitVec.allOnes 2048 else Tbl.get 0 s.rdVecFile.m n

/-- vshape as the bundle reads it (R33, R212). -/
def State.vshapeNow (s : State) : Word := if s.onCore then s.rdShare.vshape else s.rdTask.vshape

def State.modVecFile (s : State) (h : VecFile → VecFile) : State :=
  if s.onCore then s.modCurShare fun x => { x with vec := h x.vec } else s.modCurTask fun t => { t with vec := h t.vec }

/-- Writes a vector register; a binning thread keeps in mind that its V syllable did (R77). -/
def State.wrVec (s : State) (n : Nat) (v : BitVec 8192) : State :=
  let s := s.modVecFile fun x => { x with v := Tbl.set 0 x.v n v }
  if s.onBc && s.curV then { s with vDests := (64 + n) :: s.vDests } else s

/-- Writes a mask; m0 keeps its value (R27). -/
def State.wrMask (s : State) (n : Nat) (v : BitVec 2048) : State :=
  if n = 0 then s else s.modVecFile fun x => { x with m := Tbl.set 0 x.m n v }

def State.wrVshape (s : State) (w : Word) : State :=
  if s.onCore then s.modCurShare fun x => { x with vshape := w }
  else { s with vDests := vshapeDest :: s.vDests }.modCurTask fun t => { t with vshape := w }

/-- The number of a vector register from its field and its XT bit (R62). -/
def vecNo (r : BitVec 6) (xt : Bool) : Nat := r.toNat + (if xt then 64 else 0)

/-! ### Shapes (R33, R34) -/

def shapeRows (w : Word) : Nat := Word.field w 0 12
def shapeCols (w : Word) : Nat := Word.field w 12 12
def shapeFmt (w : Word) : Nat := Word.field w 24 4

/-- R34: is a shape valid for registers of `reg` bytes? -/
def shapeValid (w : Word) (reg : Nat) : Bool :=
  1 ≤ shapeRows w && 1 ≤ shapeCols w && fmtBits (shapeFmt w) ≠ 0 &&
    shapeRows w * shapeCols w * fmtBits (shapeFmt w) ≤ 8 * reg

/-- What a vector instruction works on: its effective format, element width, shape and register size. -/
structure VCtx where
  fmt : Nat
  w : Nat
  rows : Nat
  cols : Nat
  reg : Nat
  deriving DecidableEq, Repr

/-- The number of elements. -/
def VCtx.n (c : VCtx) : Nat := c.rows * c.cols

/-- R184: the effective format of a FMT field. -/
def State.effFmt (s : State) (fmt : BitVec 4) : Nat := if fmt = 0 then shapeFmt s.vshapeNow else fmt.toNat

def State.vctx (s : State) (fmt : BitVec 4) : VCtx :=
  { fmt := s.effFmt fmt, w := fmtBits (s.effFmt fmt), rows := shapeRows s.vshapeNow, cols := shapeCols s.vshapeNow,
    reg := s.regBytes }

/-- R184: the checks of a vector instruction in their order, `accept` for its formats, `wide` the formats it reads or
writes, `fits` its own SHAPE condition; then its effect. -/
def State.checked (s : State) (c : VCtx) (accept : Bool) (wide : List Nat) (fits : Bool) (h : State → State) : State :=
  if !shapeValid s.vshapeNow c.reg then s.raiseCode 0 cSHAPE
  else if !accept then s.raiseCode 0 cILLOP
  else if wide.any (fun f => 8 * c.reg < c.n * fmtBits f) || !fits then s.raiseCode 0 cSHAPE
  else h s

/-! ### Operands (R186) -/

/-- Element `i` of a register, `w` bits wide (R183). -/
def elem (r : BitVec 8192) (w i : Nat) : Nat := vecBits r (i * w) w

/-- The scalar register VC (R186). -/
def State.scalarC (s : State) (f : FmtV) : Word := if f.cfile = 2 then s.rdCarried f.vc else s.rdInt f.vc

def State.vecA (s : State) (f : FmtV) : BitVec 8192 := s.rdVec (vecNo f.va (f.xt.getLsbD 2))
def State.vecB (s : State) (f : FmtV) : BitVec 8192 := s.rdVec (vecNo f.vb (f.xt.getLsbD 1))

/-- R186: element `i` of operand A. -/
def State.opAe (s : State) (f : FmtV) (w i : Nat) : Nat := elem (s.vecA f) w i

/-- R186: element `i` of operand B: a vector, or a scalar at every position. -/
def State.opBe (s : State) (f : FmtV) (w i : Nat) : Nat :=
  if f.cfile = 0 then elem (s.vecB f) w i else (s.scalarC f).toNat % 2 ^ w

/-- R186: element `i` of operand C. -/
def State.opCe (s : State) (f : FmtV) (w i : Nat) : Nat :=
  if f.cfile = 0 then elem (s.rdVec (vecNo f.vc (f.xt.getLsbD 0))) w i else (s.scalarC f).toNat % 2 ^ w

def State.dest (f : FmtV) : Nat := vecNo f.vd (f.xt.getLsbD 3)

/-- The write mask, or the mask an entry selects by. -/
def State.maskOf (s : State) (f : FmtV) : BitVec 2048 := s.rdMask f.mask.toNat

/-! ### Writing results -/

/-- Writes the elements at the positions below `n` that `sel` selects; the flags of those positions are collected
(R174, R185). -/
def writeElems (old : BitVec 8192) (w : Nat) (sel : Nat → Bool) (op : Nat → FRes) (n : Nat) : BitVec 8192 × Word :=
  (List.range n).foldl (fun a i => if sel i then let r := op i; (putBits a.1 (i * w) w r.bits, a.2 ||| r.flags) else a) (old, 0)

/-- R185, R187: an element-wise result into VD under the write mask. -/
def State.elementwise (s : State) (f : FmtV) (c : VCtx) (op : Nat → FRes) : State :=
  let (r, fl) := writeElems (s.rdVec (State.dest f)) c.w (s.maskOf f).getLsbD op c.n
  (s.wrVec (State.dest f) r).orFlags fl

/-- Writes listed elements of width `w` of a register. -/
def putElems (old : BitVec 8192) (w : Nat) (l : List (Nat × Nat)) : BitVec 8192 :=
  l.foldl (fun r e => putBits r (e.1 * w) w e.2) old

/-- A signed element (R156). -/
def signedElem (w v : Nat) : Int := (BitVec.ofNat w v).toInt

/-- An integer as an element of `w` bits. -/
def wrapElem (w : Nat) (v : Int) : Nat := (BitVec.ofInt w v).toNat

end Sys2Proof.Machine
end

