-- ==== Sys2Proof/Machine/Scratch.lean ====
section
/-! DEFINITION. The scratchpad: its bytes, its partition, its ECC; the loads and stores of the M slot, and the vector loads
and stores of both kinds of unit (R214 to R217, R275 to R281, R383, R384). -/

namespace Sys2Proof.Machine

/-! ### The scratchpad of a share (R275, R276, R280) -/

/-- The size of a scratchpad in bytes. -/
def spBytes : Nat := 2 ^ 21

def Share.spByte (h : Share) (o : Nat) : Byte := Tbl.get 0 h.spm o

/-- The little-endian value of `n` bytes from an offset on. -/
def Share.spRead (h : Share) (o : Nat) : Nat → Nat
  | 0 => 0
  | n + 1 => (h.spByte o).toNat + 256 * h.spRead (o + 1) n

def Share.spWrite (h : Share) (o : Nat) : Nat → Nat → Share
  | 0, _ => h
  | n + 1, v => ({ h with spm := Tbl.set 0 h.spm o (BitVec.ofNat 8 v) } : Share).spWrite (o + 1) n (v / 256)

/-- R280: is an offset's bank in the partition that spfill describes? -/
def inPartition (spfill : Word) (o : Nat) : Bool :=
  Word.field spfill 0 6 ≤ o / 2 ^ 15 && o / 2 ^ 15 < Word.field spfill 0 6 + Word.field spfill 8 6

/-- R280: may the task reach the byte at an offset? -/
def spOk (t : Task) (h : Share) (o : Nat) : Bool :=
  o < spBytes && (if t.isFiller then inPartition h.spfill o else !(t.gaveBank && inPartition h.spfill o))

/-- R280: may the task reach `n` bytes from an offset on? (The banks of their first and last byte, and any between.) -/
def spPermitted (t : Task) (h : Share) (o n : Nat) : Bool :=
  n = 0 || (o + n ≤ spBytes && (List.range ((o + n - 1) / 2 ^ 15 - o / 2 ^ 15 + 1)).all fun i => spOk t h ((o / 2 ^ 15 + i) * 2 ^ 15))

/-! ### Its ECC (R383 to R387) -/

/-- R384: the array of a scratchpad. -/
def spArray (t : Task) (c : Nat) : Nat := 8 * t.rowNo + c

def spSite (t : Task) (g : Gtid) (c o : Nat) (y : Word) : ErrSite :=
  { die := t.die, array := spArray t c, sub := 0, loc := o / 8 * 8, syndrome := y, gtid := g }

/-- Where a word of a scratchpad is stored (R384). -/
def spCell (t : Task) (c o : Nat) : Cellar := { die := t.die, array := spArray t c, sub := 0, loc := o }

/-- One word of a scratchpad as an access finds it: a flipped bit is corrected in place, more are uncorrectable. -/
def State.spCheckWord (s : State) (g : Gtid) (c o : Nat) : Option Word × State :=
  let t := s.task g
  let k := flipKey (spCell t c o)
  match popcount64 (Tbl.get 0 s.flips k) with
  | 0 => (none, s)
  | 1 =>
    let (y, s) := s.drawFree
    (none, { s with flips := Tbl.set 0 s.flips k 0 }.noteCorrectable (spSite t g c o y))
  | _ =>
    let (y, s) := s.drawFree
    (some y, s.noteUncorrectable (spSite t g c o y) false)

/-- The words that `n` bytes from an offset on touch, read: the syndrome of the first that is uncorrectable. -/
def State.spCheck (s : State) (g : Gtid) (c : Nat) : List Nat → Option Word × State
  | [] => (none, s)
  | o :: r =>
    match s.spCheckWord g c o with
    | (some y, s) => (some y, s)
    | (none, s) => s.spCheck g c r

/-- The aligned words that hold `n` bytes from an offset on. -/
def spWords (o n : Nat) : List Nat := if n = 0 then [] else (List.range ((o + n - 1) / 8 - o / 8 + 1)).map fun i => (o / 8 + i) * 8

/-- R55: MEMUE of a scratchpad word: no physical address. Word 3 holds the offset of the access (DESIGN CHOICE, log entry 10). -/
def spFault (unit o : Nat) (y : Word) : Raised :=
  { unit := unit, code := cMEMUE, spad := true, va := BitVec.ofNat 64 o, detail := memueDetail 0 y }

/-- R280: the fault of an access that its partition forbids. -/
def spPerm (unit o : Nat) (wr : Bool) : Raised :=
  { unit := unit, code := cPERM, write := wr, spad := true, va := BitVec.ofNat 64 o }

/-! ### Bank ports (R275 to R277) -/

/-- The bank rows of 2,048 bytes that `n` bytes from an offset on touch. -/
def bankRows (o n : Nat) : List Nat := if n = 0 then [] else (List.range ((o + n - 1) / 2048 - o / 2048 + 1)).map fun i => o / 2048 + i

/-- A bank's read or write port, in its core; the contexts of a core share its banks. -/
def bankPort (t : Task) (c bank : Nat) (wr : Bool) : Nat := (tlbSpine t * 8 + c) * 128 + 2 * bank + wr.toNat

/-- An access notes the bank rows it uses, by port. -/
def State.claim (s : State) (t : Task) (c o n : Nat) (wr : Bool) : State :=
  match s.spClaims with
  | none => s
  | some l => { s with spClaims := some (l ++ (bankRows o n).map fun r => 16 * bankPort t c (r / 16) wr + r % 16) }

/-- The first cycle in which a port is free, reckoned from this one. -/
def State.portFrom (s : State) (p : Nat) : Nat := max s.cycle (Tbl.get 0 s.spBusy p)

/-- R275: each port is taken for one cycle for every bank row of it that the access used. -/
def State.takePorts (s : State) : State :=
  let l := (s.spClaims.getD []).dedup
  { s with spClaims := none, spBusy := l.foldl (fun t k => Tbl.set 0 t (k / 16) (max s.cycle (Tbl.get 0 t (k / 16)) + 1)) s.spBusy }

/-- Does the access under way need a port that is taken? -/
def State.portTaken (s : State) : Bool := (s.spClaims.getD []).any fun k => s.cycle < Tbl.get 0 s.spBusy (k / 16)

/-- R276, R277: a step of an engine that meets a port taken in this cycle does nothing in it, and is tried again. -/
def State.contend (s : State) (h : State → State) (lose : State → State := id) : State :=
  let t := h { s with spClaims := some [] }
  if t.portTaken then lose s else t.takePorts

/-- An access that another one of the same step repeats: its bank rows are not noted. -/
def State.unclaimed {α : Type} (s : State) (h : State → α × State) : α × State :=
  let (a, t) := h { s with spClaims := none }
  (a, { t with spClaims := s.spClaims })

/-! ### Reads and writes -/

/-- Reads `n` bytes of core `c`'s scratchpad for unit `u`. -/
def State.spLoad (s : State) (g : Gtid) (c u o n : Nat) : Except Raised Nat × State :=
  if !spPermitted (s.task g) (s.share g c) o n then (.error (spPerm u o false), s)
  else
    let s := s.claim (s.task g) c o n false
    match s.spCheck g c (spWords o n) with
    | (some y, s) => (.error (spFault u o y), s)
    | (none, s) => (.ok ((s.share g c).spRead o n), s)

/-- Writes the low `n` bytes of a value, each touched word with its ECC. -/
def State.spPut (s : State) (g : Gtid) (c o n v : Nat) : State :=
  let s := (s.claim (s.task g) c o n true).modShare g c fun h => h.spWrite o n v
  (spWords o n).foldl (fun s w => s.storedWord (spCell (s.task g) c w)) s

/-- The same, permitted or not. -/
def State.spStore (s : State) (g : Gtid) (c u o n v : Nat) : Except Raised Unit × State :=
  if !spPermitted (s.task g) (s.share g c) o n then (.error (spPerm u o true), s) else (.ok (), s.spPut g c o n v)

/-! ### LDS, STS (R281) -/

/-- FLAGS[1:0]: the width in bytes. -/
def spWidth (f : FmtM) : Nat := 8 / 2 ^ (f.flags.extractLsb' 0 2).toNat

/-- R281. -/
def execLds (f : FmtM) (s : State) : Out :=
  s.guarded f.g fun s =>
    match s.spLoad s.curGtid s.curCore 1 (s.ea f).toNat (spWidth f) with
    | (.error r, s) => s.raise r
    | (.ok v, s) => s.wrInt f.d (extendTo (spWidth f) (f.flags.getLsbD 2) v)

/-- R281. -/
def execSts (f : FmtM) (s : State) : Out :=
  s.guarded f.g fun s =>
    match s.spStore s.curGtid s.curCore 1 (s.ea f).toNat (spWidth f) (s.rdInt f.d).toNat with
    | (.error r, s) => s.raise r
    | (.ok _, s) => s

/-! ### The rows of a vector access (R214, R215) -/

/-- D with its bit 6 (R214). -/
def vecOf (f : FmtM) : Nat := vecNo f.d (f.flags.getLsbD 3)

/-- T: the row stride, `l` the default. -/
def State.strideOf (s : State) (f : FmtM) (l : Nat) : Word := if f.flags.getLsbD 0 then s.rdInt f.index else BitVec.ofNat 64 l

/-- The start of row `r` (R215). -/
def State.rowAt (s : State) (f : FmtM) (l r : Nat) : Word := s.ea f + BitVec.ofNat 64 r * s.strideOf f l

/-- The memory rows of an access: how many, and the elements in each; LDVT's rows are the register's columns. -/
def VCtx.memRows (c : VCtx) (tr : Bool) : Nat × Nat := if tr then (c.cols, c.rows) else (c.rows, c.cols)

/-- Starts of the rows, each with its length. -/
def State.rowRuns (s : State) (f : FmtM) (c : VCtx) (tr : Bool) : List (Word × Nat) :=
  let l := (c.memRows tr).2 * c.w / 8
  (List.range (c.memRows tr).1).map fun r => (s.rowAt f l r, l)

/-- R184, R214: the checks of a vector access: rows of a 4-bit format are whole bytes. -/
def State.vecAccess (s : State) (tr : Bool) (h : State → VCtx → State) : State :=
  let c := s.vctx 0
  s.checked c true [] ((c.memRows tr).2 * c.w % 8 = 0) fun s => h s c

/-! ### On a matrix core (R216) -/

/-- The rows' bytes, one row after another; the first that faults ends it. -/
def State.spRows (s : State) (g : Gtid) (c : Nat) : List (Word × Nat) → Except Raised Nat × State
  | [] => (.ok 0, s)
  | (a, n) :: r =>
    match s.spLoad g c 1 a.toNat n with
    | (.error e, s) => (.error e, s)
    | (.ok v, s) =>
      match s.spRows g c r with
      | (.error e, s) => (.error e, s)
      | (.ok w, s) => (.ok (v + 2 ^ (8 * n) * w), s)

/-- LDV and LDVT on a core. -/
def State.spVecLoad (s : State) (f : FmtM) (tr : Bool) : Out :=
  s.guarded f.g fun s =>
    s.vecAccess tr fun s c =>
      match s.spRows s.curGtid s.curCore (s.rowRuns f c tr) with
      | (.error e, s) => s.raise e
      | (.ok v, s) =>
        let old := s.rdVec (vecOf f)
        s.wrVec (vecOf f) (if tr then putColumns old c.rows c.cols c.w v else putBits old 0 (c.n * c.w) v)

/-- R215, R216. -/
def execLdv (f : FmtM) (s : State) : Out := s.spVecLoad f false

/-- R215, R216. -/
def execLdvt (f : FmtM) (s : State) : Out := s.spVecLoad f true

/-- STV's rows, in ascending order. -/
def State.spPutRows (s : State) (g : Gtid) (c v : Nat) : List (Word × Nat) → Except Raised Unit × State
  | [] => (.ok (), s)
  | (a, n) :: r =>
    match s.spStore g c 1 a.toNat n (v % 2 ^ (8 * n)) with
    | (.error e, s) => (.error e, s)
    | (.ok _, s) => s.spPutRows g c (v / 2 ^ (8 * n)) r

/-- R215, R216: a fault leaves no byte stored, for the bundle's end takes the whole bundle back (R351). -/
def execStv (f : FmtM) (s : State) : Out :=
  s.guarded f.g fun s =>
    s.vecAccess false fun s c =>
      match s.spPutRows s.curGtid s.curCore (s.rdVec (vecOf f)).toNat (s.rowRuns f c false) with
      | (.error e, s) => s.raise e
      | (.ok _, s) => s

/-! ### On a binning thread (R217) -/

/-- The physical address of byte `o` of a row that lies in some segments. -/
def rowPa : List Seg → Nat → Nat
  | [], _ => 0
  | x :: r, o => if o < x.n then x.pa + o else rowPa r (o - x.n)

/-- The elements of a row of a converting load: `bit` bits of the value stand before the row. -/
def convElems (fmt geo bit cols : Nat) (l : List Seg) : List ConvElem :=
  let w := fmtBits fmt
  (List.range cols).map fun i =>
    { pa := rowPa l (i * w / 8), hi := w = 4 && i % 2 = 1, fmt := fmt, geo := geo, bit := bit + i * w }

/-- What a converting load finds of its rows: their segments, their elements, their bytes. -/
structure ConvRows where
  segs : List Seg := []
  elems : List ConvElem := []
  len : Nat := 0
  deriving DecidableEq, Repr

/-- R217: each row by the format of its own page; `cols` elements a row. `dflt` is the stride without STR, taken from the
first row. -/
def State.convRows (s : State) (f : FmtM) (cols : Nat) (dflt : Option Nat) (acc : ConvRows) : List Nat → Except Raised ConvRows × State
  | [] => (.ok acc, s)
  | r :: rest =>
    let va := s.rowAt f (dflt.getD 0) r
    match s.translate s.memTlb s.curGtid .load s.memUnit va 1 with
    | (.error e, s) => (.error e, s)
    | (.ok l, s) =>
      match l with
      | [] => (.ok acc, s)
      | x :: _ =>
        let fmt := pageFmt x.w1
        if fmtBits fmt = 0 || pageRemote x.w1 then (.error (accessFault .load s.memUnit va cPERM), s)
        else if cols * fmtBits fmt % 8 ≠ 0 then (.error { unit := s.memUnit, code := cSHAPE }, s)
        else
          let n := cols * fmtBits fmt / 8
          match s.translate s.memTlb s.curGtid .load s.memUnit va n with
          | (.error e, s) => (.error e, s)
          | (.ok l, s) =>
            s.convRows f cols (some (dflt.getD n))
              { segs := acc.segs ++ l, elems := acc.elems ++ convElems fmt (pageGeo x.w1) (8 * acc.len) cols l, len := acc.len + n } rest

/-- LDV and LDVT of a thread: it parks until every row has returned (R217, R324). -/
def State.bcVecLoad (s : State) (i : Instr) (f : FmtM) (tr : Bool) : Out :=
  s.guarded f.g fun s =>
    s.vecAccess tr fun s c =>
      let go (s : State) (l : List Seg) (d : MemDest) : State :=
        let ps := partsOf l
        (s.await i d (ps.map (·.2.1)) false (s.ea f) false .reply (ps.map (·.2.2.va))).sendReqs s.curGtid true none
          (ps.map fun p => (p.1, p.2.1, p.2.2, .read))
      if f.flags.getLsbD 1 then
        match s.convRows f (c.memRows tr).2 none {} (List.range (c.memRows tr).1) with
        | (.error e, s) => s.raise e
        | (.ok x, s) =>
          match reachOf (s.task s.curGtid) x.segs with
          | .bad => s.raise (accessFault .load s.memUnit (((badSeg (s.task s.curGtid) x.segs).map (·.va)).getD 0) cPERM)
          | .move bc => s.mustMigrate bc
          | _ => go s x.segs (.conv (vecOf f) tr c.rows c.cols c.fmt x.elems)
      else
        s.access .load (s.rowRuns f c tr) fun s l _ =>
          go s l (if tr then .vecT (vecOf f) c.rows c.cols c.w else .vec (vecOf f))

/-- R215, R217. -/
def execLdvBc (f : FmtM) (s : State) : Out := s.bcVecLoad (.ldvBc f) f false

/-- R215, R217. -/
def execLdvtBc (f : FmtM) (s : State) : Out := s.bcVecLoad (.ldvtBc f) f true

/-- R215, R217: a thread's STV does not park; its rows perform in ascending order. -/
def execStvBc (f : FmtM) (s : State) : Out :=
  s.guarded f.g fun s =>
    s.vecAccess false fun s c =>
      s.access .store (s.rowRuns f c false) fun s l _ =>
        if inBlock l && l.any (fun x => windowOf x.pa = .die && blkOf x.pa = 0) then s.raise (accessFault .store s.memUnit (s.ea f) cPERM)
        else
          s.sendReqs s.curGtid false (some (s.redoOf (.stvBc f))) (storeOps (s.rdVec (vecOf f)).toNat (partsOf l))

end Sys2Proof.Machine
end

