-- ==== Sys2Proof/Machine/Xch.lean ====
section
/-! DEFINITION. The exchange engine's operations: counters, sends, sum-puts, gets, atomics, triggers and the tile
table (R405, R540 to R556, R563 to R565). -/

namespace Sys2Proof.Machine

/-! ### Counters (R544, R545) -/

/-- The die of a counter reference. -/
def refDie (ref : Nat) : Nat := ref / 4096 % 4

def State.counter (s : State) (ref : Nat) : Word := Tbl.get 0 (s.xchOf (refDie ref)).ctr (ref % 4096)

def State.setCounter (s : State) (ref : Nat) (w : Word) : State :=
  s.modXch (refDie ref) fun x => { x with ctr := Tbl.set 0 x.ctr (ref % 4096) w }

def State.counterErr (s : State) (ref : Nat) : Bool := Tbl.get false (s.xchOf (refDie ref)).err (ref % 4096)

def State.setCounterErr (s : State) (ref : Nat) (b : Bool) : State :=
  s.modXch (refDie ref) fun x => { x with err := Tbl.set false x.err (ref % 4096) b }

/-- A credit of `n` goes to a counter (R544): a step of its own. -/
def State.credit (s : State) (ref n : Nat) : State := s.push (.receiveCounterCredit (ref % 16384) n)

/-! ### Descriptors (R546, R547) -/

/-- Bytes of an element of a sum-put. -/
def sumBytes (fmt : Nat) : Nat := if fmt = 1 then 8 else 4

def sumFmtOk (fmt : Nat) : Bool := fmt = 1 || fmt = 2 || fmt = 9

/-- R546: the fields of a send descriptor. -/
def parseSend (w : List Word) : Send :=
  let x (i : Nat) : Word := (w[i]?).getD 0
  { dva := x 0, src := x 1, len := Word.field (x 2) 0 24, ssp := (x 2).getLsbD 24, sum := (x 2).getLsbD 25,
    fmt := Word.field (x 2) 26 4, npeer := Word.field (x 2) 30 4, psel := Word.field (x 2) 34 4,
    pstr := Word.field (x 3) 0 32, rce := (x 3).getLsbD 32, rcn := Word.field (x 3) 33 14, lce := (x 3).getLsbD 47,
    lcn := Word.field (x 3) 48 14 }

/-- R546: the checks that do not concern reserved bits. -/
def Send.ok (d : Send) : Bool :=
  d.npeer ≤ 8 && d.psel ≤ 8 && (if d.sum then sumFmtOk d.fmt && d.len % sumBytes d.fmt = 0 else d.fmt = 0)

/-- R546: is a descriptor valid? `tile` for an entry of the tile table, which has a V bit. -/
def sendValid (w : List Word) (tile : Bool) : Bool :=
  let x (i : Nat) : Word := (w[i]?).getD 0
  Word.field (x 2) 39 25 = 0 && (tile || !(x 2).getLsbD 38) && Word.field (x 3) 62 2 = 0 && (parseSend w).ok

/-- R547: the one-peer descriptor of a control word. -/
def ctlSend (a b c : Word) (ssp : Bool) : Send :=
  { dva := a, src := b, len := Word.field c 0 24, ssp := ssp, sum := c.getLsbD 58, fmt := Word.field c 59 4,
    npeer := 1, psel := Word.field c 54 4, rce := c.getLsbD 24, rcn := Word.field c 25 14, lce := c.getLsbD 39,
    lcn := Word.field c 40 14 }

/-- R563: does the control word of XPUT or XGET raise ILLOP at start? -/
def ctlBad (c : Word) (isGet : Bool) : Bool :=
  c.getLsbD 63 || !(ctlSend 0 0 c false).ok || (isGet && (c.getLsbD 58 || c.getLsbD 24))

/-! ### Operations in progress -/

/-- The die of an operation's engine. -/
def XOp.die (o : XOp) : Nat := o.id % 4

def State.xop (s : State) (id : Nat) : Option XOp := (s.xchOf (id % 4)).ops.find? fun o => o.id = id

/-- An operation stands in its engine as given. -/
def State.putOp (s : State) (o : XOp) : State :=
  s.modXch o.die fun x =>
    if x.ops.any fun y => y.id = o.id then { x with ops := x.ops.map fun y => if y.id = o.id then o else y }
    else { x with ops := x.ops ++ [o] }

def State.dropOp (s : State) (id : Nat) : State := s.modXch (id % 4) fun x => { x with ops := x.ops.filter fun y => y.id ≠ id }

/-- A new operation of die `die`. -/
def State.newOp (s : State) (die : Nat) (g : Gtid) (core : Nat) (k : XKind) (d : Send) (addr : Word) (src : XSource) : XOp × State :=
  let n := (s.xchOf die).nextOp
  ({ id := 4 * n + die % 4, g := g, core := core, kind := k, send := d, addr := addr, src := src },
   s.modXch die fun x => { x with nextOp := n + 1 })

/-- R543: a fault met by an operation: its record, with UNIT 8 and no frame; the task is not frozen, the operation waits. -/
def State.xFault (s : State) (o : XOp) (r : Raised) : State :=
  let rec' := { s.recordOf o.g { r with unit := 8 } 8 o.addr false with die := o.die, core := 0, frame := 0, row := none, xop := some o.id }
  (s.putOp { o with stuck := true, dead := !codeRestarts r.code }).keepRecord rec'

/-- R548: every peer is started, and has answered. -/
def XOp.finished (o : XOp) : Bool :=
  !o.stuck && o.data.isEmpty && o.next = o.send.npeer && o.peers.all (·.left = 0) &&
    (match o.kind with | .put => true | .get _ => true | _ => false)

/-- A finished operation completes by a step of its own. -/
def State.noteDone (s : State) (id : Nat) : State :=
  match s.xop id with
  | none => s
  | some o => if o.finished then s.push (.putComplete o.die) else s

/-! ### Addresses (R542) -/

/-- The pages of an operation's access. -/
def State.xSegs (s : State) (die : Nat) (g : Gtid) (a : Access) (va : Word) (n : Nat) : Except Raised (List Seg) × State :=
  s.segsOf (tlbExch die) g a 8 (groupBit (s.task g)) (runsOf va n)

/-- Pages that must be local: a remote one, or a window that no engine reaches, raises PERM. -/
def State.xLocal (s : State) (die : Nat) (g : Gtid) (a : Access) (va : Word) (n : Nat) : Except Raised (List Seg) × State :=
  match s.xSegs die g a va n with
  | (.error r, s) => (.error r, s)
  | (.ok l, s) =>
    match l.find? fun x => !x.plain with
    | some x => (.error (accessFault a 8 x.va cPERM), s)
    | none => (.ok l, s)

/-- The device that a page names, `none` for this one (R412). -/
def Seg.dev (x : Seg) : Option Nat := if pageRemote x.w1 then some (pageDev x.w1) else none

/-- R542: the device all pages name; the operation raises ALIGN where they differ. -/
def oneDevice (l : List Seg) : Option (Option Nat) :=
  match l with
  | [] => some none
  | x :: r => if r.all fun y => y.dev = x.dev then some x.dev else none

/-- R133, R542: the ALIGN of an operation, at the first page that names another device than its lowest page. -/
def deviceAlign (a : Access) (l : List Seg) : Raised :=
  accessFault a 8 (match l with
    | [] => 0
    | x :: r => ((r.find? fun y => y.dev ≠ x.dev).map (·.va)).getD x.va) cALIGN

/-- Reads local memory for an operation. -/
def State.xRead (s : State) (die : Nat) (g : Gtid) (va : Word) (n : Nat) : Except Raised Nat × State :=
  if n = 0 then (.ok 0, s)
  else match s.xLocal die g .load va n with
    | (.error r, s) => (.error r, s)
    | (.ok l, s) =>
      match s.readRuns g (segNoalloc l) (segRuns l) with
      | (.error e, s) => (.error (ueFault .load 8 va e), s)
      | (.ok v, s) => (.ok v, s)

/-- Writes local memory for an operation. -/
def State.xWrite (s : State) (die : Nat) (g : Gtid) (va : Word) (n v : Nat) : Except Raised Unit × State :=
  if n = 0 then (.ok (), s)
  else match s.xLocal die g .store va n with
    | (.error r, s) => (.error r, s)
    | (.ok l, s) =>
      match s.writeRuns g (segNoalloc l) v (segRuns l) with
      | (.error e, s) => (.error (ueFault .store 8 va e), s)
      | (.ok _, s) => (.ok (), s)

/-- R548: the bytes of a send: from the scratchpad, or from local pages. -/
def State.sendData (s : State) (o : XOp) : Except Raised Nat × State :=
  let d := o.send
  if d.ssp then s.spLoad o.g ((o.core + Word.field d.src 21 3) % 8) 8 (Word.field d.src 0 21) d.len
  else s.xRead o.die o.g d.src d.len

/-! ### Sum-puts (R550) -/

/-- R550: one element of a sum-put. -/
def sumElem (fmt old v : Nat) : Nat :=
  if fmt = 9 then (old + v) % 2 ^ 32
  else (fAdd (floatFmt fmt) 0 (fDecode (floatFmt fmt) old) (fDecode (floatFmt fmt) v)).bits

/-- Elements added one by one. -/
def sumAll (fmt : Nat) : Nat → Nat → Nat → Nat
  | 0, _, _ => 0
  | n + 1, old, v =>
    let m := 2 ^ (8 * sumBytes fmt)
    sumElem fmt (old % m) (v % m) + m * sumAll fmt n (old / m) (v / m)

/-- R548: the runs of a put's destination are written, each where it can be; false where one could not be. -/
def State.writeGood (s : State) (g : Gtid) (v : Nat) : List (Nat × Nat) → Bool × State
  | [] => (true, s)
  | (pa, n) :: r =>
    let w := s.lineWrite g pa n (v % 2 ^ (8 * n)) false
    let x := w.2.writeGood g (v / 2 ^ (8 * n)) r
    (w.1.isOk && x.1, x.2)

/-- R548, R550: the old bytes of the runs of a sum-put, and those runs whose sums can be written, with their places. -/
def State.readGood (s : State) (g : Gtid) (k : Nat) : List (Nat × Nat) → (Nat × List (Nat × Nat × Nat)) × State
  | [] => ((0, []), s)
  | (pa, n) :: r =>
    match s.lineRead g pa n false with
    | (.error _, s) =>
      let x := s.readGood g (k + n) r
      ((2 ^ (8 * n) * x.1.1, x.1.2), x.2)
    | (.ok v, s) =>
      let x := s.readGood g (k + n) r
      ((v + 2 ^ (8 * n) * x.1.1, (k, pa, n) :: x.1.2), x.2)

/-- The bytes of a put, or of a sum-put of format `fmt`, performed at physical runs, those that can be (R548); false where a
write cannot be. -/
def State.performBytes (s : State) (g : Gtid) (fmt : Option Nat) (runs : List (Nat × Nat)) (n v : Nat) : Bool × State :=
  match fmt with
  | none => s.writeGood g v runs
  | some f =>
    let x := s.readGood g 0 runs
    let sum := sumAll f (n / sumBytes f) x.1.1 v
    let y := x.1.2.foldl (fun (a : Bool × State) q =>
      let w := a.2.lineWrite g q.2.1 q.2.2 (sum / 2 ^ (8 * q.1) % 2 ^ (8 * q.2.2)) false
      (w.1.isOk && a.1, w.2)) (true, x.2)
    (decide (x.1.2.length = runs.length) && y.1, y.2)

/-! ### Puts (R548 to R552) -/

/-- Word 3 of a put: counter reference, message count, index, and the format of a sum-put (log entry 20). -/
def putWord (d : Send) (count i : Nat) : Word :=
  BitVec.ofNat 64 (d.rcn + (if d.rce then 2 ^ 14 else 0) + count % 2 ^ 24 * 2 ^ 15 + i % 2 ^ 20 * 2 ^ 39 + d.fmt * 2 ^ 59)

/-- The type of a put's messages, and whether they take the fallback paths; none where the engine refuses (R551). -/
def State.putType (s : State) (die dev : Nat) (d : Send) : Option (Nat × Bool) :=
  let w := Tbl.get 0 (s.xchOf die).route (4 * dev + 2)
  if !d.sum then some (0x10, false)
  else if !w.getLsbD 8 then some (0x11, false)
  else if !(s.keyWord dev 8).getLsbD 0 then some (0x12, false)
  else if Word.field w 4 4 ≠ 0 then some (0x11, true)
  else none

/-- R548: the messages of a put to one peer, in ascending address order. -/
def State.putMsgs (s : State) (o : XOp) (j dev typ : Nat) (fb : Bool) (count i v : Nat) : List (Nat × Nat) → State
  | [] => s
  | (pa, n) :: r =>
    let body := leBytes (v % 2 ^ (8 * n)) n
    let body := if typ = 0x12 then leBytes 1 8 ++ body else body
    (s.send o.die typ 3 dev (BitVec.ofNat 64 pa) (putWord o.send count i) body (.put o.id j) o.send.psel fb).putMsgs o j dev typ fb
      count (i + 1) (v / 2 ^ (8 * n)) r

/-- R548 to R552: a put to peer `j` is started: what the engine then waits for. -/
def State.putPeer (s : State) (o : XOp) (j : Nat) : Except Raised XPeer × State :=
  let d := o.send
  let va := d.dva + BitVec.ofNat 64 (j * d.pstr)
  match s.xSegs o.die o.g .store va (max 1 d.len) with
  | (.error r, s) => (.error r, s)
  | (.ok l, s) =>
    match oneDevice l with
    | none => (.error (deviceAlign .store l), s)
    | some none =>
      match l.find? fun x => !x.plain with
      | some x => (.error (accessFault .store 8 x.va cPERM), s)
      | none =>
        match s.sendData o with
        | (.error r, s) => (.error r, s)
        | (.ok v, s) =>
          let (ok, s) := if d.len = 0 then (true, s)
            else s.performBytes o.g (if d.sum then some d.fmt else none) (segRuns l) d.len v
          (.ok { failed := !ok }, if ok && d.rce then s.credit d.rcn 1 else s)
    | some (some dev) =>
      match s.sendData o with
      | (.error r, s) => (.error r, s)
      | (.ok v, s) =>
        match s.putType o.die dev d with
        | none => (.ok { failed := true }, s)
        | some (typ, fb) =>
          let runs := if d.len = 0 then [((l.head?.map (·.pa)).getD 0, 0)] else l.map fun x => (x.pa, x.n)
          (.ok { left := runs.length }, s.putMsgs o j dev typ fb runs.length 0 v runs)

/-- Peers are started in ascending order (R549); a fault leaves the operation waiting at the peer that met it. -/
def State.runPut (s : State) (o : XOp) : Nat → State
  | 0 => s.putOp o
  | n + 1 =>
    if o.send.npeer ≤ o.next then s.putOp o
    else match (s.putOp o).putPeer o o.next with
      | (.error r, s) => s.xFault o r
      | (.ok p, s) => s.runPut { o with next := o.next + 1, peers := o.peers ++ [p] } n

/-! ### Gets (R563) -/

/-- The bytes of a get from offset `k` on are written at its destination. -/
def State.getWrite (s : State) (o : XOp) (dsp : Bool) (k : Nat) (bs : List Byte) : Except Raised Unit × State :=
  let d := o.send
  if dsp then s.spStore o.g ((o.core + Word.field d.dva 21 3) % 8) 8 (Word.field d.dva 0 21 + k) bs.length (leNat bs)
  else s.xWrite o.die o.g (d.dva + BitVec.ofNat 64 k) bs.length (leNat bs)

/-- The replies of a get that have come are written, one after another; a fault keeps those still to be written. -/
def State.flushGet (s : State) (o : XOp) (dsp : Bool) : List (Nat × List Byte) → State
  | [] => s.putOp { o with data := [] }
  | (k, bs) :: r =>
    match s.getWrite o dsp k bs with
    | (.error e, s) => s.xFault { o with data := (k, bs) :: r } e
    | (.ok _, s) => s.flushGet o dsp r

/-- The requests of a get, one per page run. -/
def State.getMsgs (s : State) (o : XOp) (dev k : Nat) : List Seg → State
  | [] => s
  | x :: r =>
    (s.send o.die 0x13 3 dev (BitVec.ofNat 64 x.pa) (BitVec.ofNat 64 x.n) [] (.get o.id k x.va x.n) o.send.psel).getMsgs o dev (k + x.n) r

/-- R58: the parts of a get whose answers were errors are read again: asked for anew, or copied where their page is now local;
a fault leaves those that remain. -/
def State.getAgain (s : State) (o : XOp) (dsp : Bool) : List (Nat × Nat) → State
  | [] => s.putOp { o with lost := [] }
  | (k, n) :: r =>
    let o := { o with lost := (k, n) :: r }
    let va := o.send.src + BitVec.ofNat 64 k
    match s.xSegs o.die o.g .load va n with
    | (.error e, s) => s.xFault o e
    | (.ok l, s) =>
      match oneDevice l with
      | none => s.xFault o (deviceAlign .load l)
      | some (some dev) => (s.getMsgs o dev k l).getAgain o dsp r
      | some none =>
        match s.xRead o.die o.g va n with
        | (.error e, s) => s.xFault o e
        | (.ok v, s) =>
          match s.getWrite o dsp k (leBytes v n) with
          | (.error e, s) => s.xFault o e
          | (.ok _, s) =>
            s.getAgain { o with peers := o.peers.map fun p => { p with left := p.left - 1 } } dsp r

/-- R563: a get starts: its source is local and copied at once, or remote and asked for. -/
def State.startGet (s : State) (o : XOp) (dsp : Bool) : State :=
  let d := o.send
  if d.len = 0 then s.putOp { o with next := 1 }
  else match s.xSegs o.die o.g .load d.src d.len with
    | (.error r, s) => s.xFault o r
    | (.ok l, s) =>
      match oneDevice l with
      | none => s.xFault o (deviceAlign .load l)
      | some none =>
        match s.xRead o.die o.g d.src d.len with
        | (.error r, s) => s.xFault o r
        | (.ok v, s) =>
          match s.getWrite o dsp 0 (leBytes v d.len) with
          | (.error r, s) => s.xFault o r
          | (.ok _, s) => s.putOp { o with next := 1 }
      | some (some dev) =>
        let o := { o with next := 1, peers := [{ left := l.length }] }
        (s.putOp o).getMsgs o dev 0 l

/-! ### XAMO (R564) -/

/-- The result of XAMO is written and the operation is done. -/
def State.amoDone (s : State) (o : XOp) (d : BitVec 6) (v : Word) : State :=
  (if (s.task o.g).st = .retired then s
   else s.modShare o.g o.core fun h => { h with a := Tbl.set 0 h.a d.toNat v }).dropOp o.id

/-- R564: the atomic at its home, here or at a peer. -/
def State.startAmo (s : State) (o : XOp) (op : AmoOp) (w32 : Bool) (v c : Word) : State :=
  let n := if w32 then 4 else 8
  let va := o.send.dva
  let hop : HomeOp := .amo op v c
  if va.toNat % n ≠ 0 then s.xFault o { unit := 8, code := cATOMAL, write := true, va := va }
  else match s.xSegs o.die o.g .rmw va n with
    | (.error r, s) => s.xFault o r
    | (.ok l, s) =>
      match l with
      | [] => s
      | x :: _ =>
        if pageRemote x.w1 then
          (s.putOp o).send o.die 0x04 0 (pageDev x.w1) (BitVec.ofNat 64 x.pa) (BitVec.ofNat 64 (n + 256 * homeOpCode hop))
            ((homeOpWords hop).map fun w => leBytes w.toNat 8).flatten (.xamo o.id)
        else if !x.plain then s.xFault o (accessFault .rmw 8 va cPERM)
        else
          (s.putOp o).sendReq o.die xchStation { org := .xamo o.id, pa := x.pa, bytes := n, op := hop, noalloc := pageNoalloc x.w1, va := va }

/-- R564: the reply of a local home reaches the engine. -/
def State.xamoReply (s : State) (id : Nat) (x : HomeRes) : State :=
  match s.xop id with
  | none => s
  | some o =>
    match o.kind, x with
    | .amo _ _ _ _ d, .val w => s.amoDone o d w
    | _, .val _ => s
    | _, .ue pa y => s.xFault o { accessFault .rmw 8 o.send.dva cMEMUE with detail := memueDetail pa y }
    | _, .bad c => s.xFault o (accessFault .rmw 8 o.send.dva c)

/-! ### Starting what a descriptor names (R553, R556, R565) -/

/-- A send starts. -/
def State.startSend (s : State) (die : Nat) (g : Gtid) (core : Nat) (d : Send) (addr : Word) (src : XSource) : State :=
  let (o, s) := s.newOp die g core .put d addr src
  (s.runPut o (d.npeer + 1)).noteDone o.id

/-- R553: an entry fires: once, for the task that armed it. -/
def State.fire (s : State) (die e : Nat) : State :=
  let t := Tbl.get {} (s.xchOf die).trig e
  let s := s.modXch die fun x => { x with trig := Tbl.set {} x.trig e { t with st := .fired } }
  if sendValid t.desc false then s.startSend die t.g t.core (parseSend t.desc) 0 .trigger
  else s.setCounterErr (die % 4 * 4096 + t.ctr) true

/-- R553: after a credit or a write of a counter, its armed entries are tested, in ascending order. -/
def State.testTriggers (s : State) (ref : Nat) : State :=
  ((s.xchOf (refDie ref)).trig.map (·.1)).foldl (fun s e =>
    let t := Tbl.get {} (s.xchOf (refDie ref)).trig e
    if t.st = .armed && t.ctr = ref % 4096 && t.thr ≤ s.counter ref then s.fire (refDie ref) e else s) s

/-- R553: an entry is armed, and fires at once where its threshold is met. -/
def State.arm (s : State) (die e : Nat) (t : Trigger) : State :=
  let s := s.modXch die fun x => { x with trig := Tbl.set {} x.trig e { t with st := .armed } }
  if t.thr ≤ s.counter (die % 4 * 4096 + t.ctr) then s.fire die e else s

/-- R556: the ready flag of a tile-table entry is set from core `core` of a task: a valid entry fires, and the flag is
clear again. -/
def State.fireTile (s : State) (g : Gtid) (core i : Nat) : State :=
  let die := (s.task g).die
  let w := (List.range 4).map fun k => Tbl.get 0 (s.xchOf die).tile (4 * (i % 4096) + k)
  if ((w[2]?).getD 0).getLsbD 38 && sendValid w true then
    s.startSend die g core { parseSend w with src := BitVec.ofNat 64 (Word.field ((w[1]?).getD 0) 0 21), ssp := true } 0 .tile
  else s

/-- R544, R553: a credit of a counter, and the entries it fires. -/
def execReceiveCounterCredit (ref n : Nat) (s : State) : Out :=
  .next ((s.setCounter ref (s.counter ref + BitVec.ofNat 64 n)).testTriggers (ref % 16384))

/-- R545, R548: the first finished operation of a die completes: a failure sets ERR of its local counter, which is
credited in either case. -/
def execPutComplete (die : Nat) (s : State) : Out :=
  .next (match (s.xchOf (die % 4)).ops.find? XOp.finished with
  | none => s
  | some o =>
    let s := s.dropOp o.id
    if !o.send.lce then s
    else
      let s := if o.peers.any (·.failed) then s.setCounterErr o.send.lcn true else s
      s.credit o.send.lcn 1)

end Sys2Proof.Machine
end

