-- ==== Sys2Proof/Machine/Matrix.lean ====
section
/-! DEFINITION. The matrix engine MX: its syllables, the start of an instruction, its beats and rows, the streaming port
and the plane ring (R226 to R250). -/

namespace Sys2Proof.Machine

/-! ### The syllables (R242 to R250): a core executes one by handing its command to MX -/

def State.issueMx (s : State) (op : EngOp) (f : FmtE) : Out := s.guarded f.g fun s => s.issueCmd (s.cmdOf op f)

/-- R242. -/
def execMldb (f : FmtE) (s : State) : Out := s.issueMx .mldb f
/-- R243. -/
def execMswap (f : FmtE) (s : State) : Out := s.issueMx .mswap f
/-- R244. -/
def execMring (f : FmtE) (s : State) : Out := s.issueMx .mring f
/-- R245. -/
def execMma (f : FmtE) (s : State) : Out := s.issueMx .mma f
/-- R245. -/
def execMmas (f : FmtE) (s : State) : Out := s.issueMx .mmas f
/-- R246. -/
def execGmma (f : FmtE) (s : State) : Out := s.issueMx .gmma f
/-- R248. -/
def execMzero (f : FmtE) (s : State) : Out := s.issueMx .mzero f
/-- R249. -/
def execMdrain (f : FmtE) (s : State) : Out := s.issueMx .mdrain f
/-- R250. -/
def execMstream (f : FmtE) (s : State) : Out := s.issueMx .mstream f

/-! ### Fields -/

def Cmd.mFmt (c : Cmd) : Nat := c.f.mod.toNat % 16
def Cmd.mSp (c : Cmd) : Bool := c.f.mod.getLsbD 4
def Cmd.mGeo (c : Cmd) : Nat := (c.f.mod.extractLsb' 5 2).toNat

/-- MOD[7:5] and MOD[4:3] of MMA, MMAS and MDRAIN. -/
def Cmd.zi (c : Cmd) : Nat := tileField c.f
def Cmd.dst (c : Cmd) : Nat := (c.f.mod.extractLsb' 3 2).toNat

/-- Rows that MMA, MMAS or MDRAIN streams (R245, R249). -/
def Cmd.rows (c : Cmd) : Nat := if c.op = .mdrain then min c.a.toNat 32 else Word.field c.b 32 16

/-- Does the instruction write through the port? -/
def Cmd.toPort (c : Cmd) : Bool := c.op = .mdrain || c.op = .gmma || c.dst = 2

/-! ### Start (R232, R236) -/

/-- R236: the condition of an instruction's kind, in cycle `now`. -/
def Share.mxReady (h : Share) (op : EngOp) (now : Nat) : Bool :=
  let swapping := match h.mxComp with
    | some r => r.cmd.op = .mswap || r.cmd.op = .gmma
    | none => false
  match op with
  | .mldb => h.mxLoad.isNone && !swapping && h.loadFrom ≤ now
  | .mring => h.mxLoad.isNone && !swapping && h.loadFrom ≤ now
  | .mswap => h.mxLoad.isNone && h.mxComp.isNone
  | .mma => h.mxComp.isNone && h.mxFin.all fun r => r.cmd.op ≠ .mdrain
  | .mmas => h.mxComp.isNone && h.mxFin.all fun r => r.cmd.op ≠ .mdrain
  | .gmma => h.mxLoad.isNone && h.mxComp.isNone && h.mxFin.isEmpty
  | _ => h.mxComp.isNone && h.mxFin.isEmpty

/-- R241: where an instruction stands when it starts. -/
def startPhase (op : EngOp) : Nat :=
  match op with
  | .mldb => 1
  | .mring => 1
  | .mswap => 2
  | .gmma => 0
  | _ => 3

/-- The pipes of R235. -/
def EngOp.loads (op : EngOp) : Bool := op = .mldb || op = .mring || op = .gmma
def EngOp.computes (op : EngOp) : Bool := !(op = .mldb || op = .mring)

/-- May the oldest command of MX start? -/
def State.mxCanStart (s : State) (g : Gtid) (c : Nat) : Bool :=
  let h := s.share g c
  s.engineFree g c 1 && !s.pipeTaken g c pipeMxStart &&
    match h.mxq with
    | [] => false
    | cmd :: _ => h.canPop 1 cmd.f && h.mxReady cmd.op s.cycle

/-- R236: the oldest MX instruction of a core starts, taking its pops. -/
def execMxStart (g : Gtid) (c : Nat) (s : State) : Out :=
  let h := s.share g c
  .next (if !s.mxCanStart g c then s
  else
    match h.mxq with
    | [] => s
    | cmd :: rest =>
      let h := ({ h with mxq := rest }.takePops 1 cmd.f)
      let r : Running := { cmd := cmd, phase := startPhase cmd.op, own := if cmd.op = .mring then h.shadow else {} }
      s.setShare g c ({ h with mxLoad := if cmd.op.loads then some r else h.mxLoad,
                               mxComp := if cmd.op.computes then some r else h.mxComp }.usePipe pipeMxStart s.cycle))

/-! ### The load pipe (R234, R242, R244, R247) -/

/-- Where a tile lies: rows at a stride with an image apart (MLDB), or contiguous in the scratchpad or in memory (GMMA). -/
inductive TileAt where
  | rows (base : Word) (stride : Nat) (aux : Word)
  | sp (base : Word)
  | va (base : Word)

/-- Reads parts of weight rows at their stride. -/
def State.readRowsAt (s : State) (g : Gtid) (c : Nat) (base : Word) (stride : Nat) : List (Nat × Nat × Nat) → Except Raised Nat × State
  | [] => (.ok 0, s)
  | (j, o, n) :: l =>
    match s.spLoad g c 3 (base + BitVec.ofNat 64 (j * stride + o)).toNat n with
    | (.error r, s) => (.error r, s)
    | (.ok v, s) =>
      match s.readRowsAt g c base stride l with
      | (.error r, s) => (.error r, s)
      | (.ok w, s) => (.ok (v + 2 ^ (8 * n) * w), s)

/-- Reads beat `b` of a tile. -/
def State.tileBeat (s : State) (g : Gtid) (c : Nat) (at' : TileAt) (fmt : Nat) (sp : Bool) (geo b : Nat) : Except Raised Nat × State :=
  let n := beatLen fmt sp geo b
  match at' with
  | .rows base stride aux =>
    if 512 * b < 32 * weightLen fmt then s.readRowsAt g c base stride (beatRows fmt b)
    else s.spLoad g c 3 (aux + BitVec.ofNat 64 (512 * b - 32 * weightLen fmt)).toNat n
  | .sp base => s.spLoad g c 3 (base + BitVec.ofNat 64 (512 * b)).toNat n
  | .va base =>
    match s.bulkRead (tlbStream (s.task g) c 0) g 3 (base + BitVec.ofNat 64 (512 * b)) n with
    | (.error r, s) => (.error r, s)
    | (.ok (v, _), s) => (.ok v, s)

/-- MX of a core takes a fault: the step is repeated on resume (R240, R308). -/
def State.mxFault (s : State) (g : Gtid) (c : Nat) (cmd : Cmd) (r : Raised) : State := s.takeRowFault g c r cmd.addr false

/-- The shadow plane takes beat `b` of a tile. -/
def Share.shadowBeat (h : Share) (fmt : Nat) (sp : Bool) (geo b v : Nat) : Share :=
  { h with shadow := (if b = 0 then h.shadow.begin fmt sp geo else h.shadow).putBeat b v }

/-- One beat of a load into the shadow plane; `done` says what follows the last one. -/
def State.loadBeat (s : State) (g : Gtid) (c : Nat) (r : Running) (at' : TileAt) (done : Running → Share → Share) : State :=
  let cmd := r.cmd
  match s.tileBeat g c at' cmd.mFmt cmd.mSp cmd.mGeo r.beat with
  | (.error e, s) => s.mxFault g c cmd e
  | (.ok v, s) =>
    s.modShare g c fun h =>
      let h := h.shadowBeat cmd.mFmt cmd.mSp cmd.mGeo r.beat v
      if r.beat + 1 < tileBeats cmd.mFmt cmd.mSp cmd.mGeo then { h with mxLoad := some { r with beat := r.beat + 1 } } else done r h

/-! GMMA's bin table (R246). -/

/-- The table's header: G, the A stride, the output stride. -/
def State.binHeader (s : State) (g : Gtid) (c : Nat) (cmd : Cmd) : Except Raised (Nat × Nat × Nat) × State :=
  match s.spLoad g c 3 cmd.a.toNat 32 with
  | (.error r, s) => (.error r, s)
  | (.ok v, s) => (.ok (v % 2 ^ 16, v / 2 ^ 32 % 2 ^ 32, v / 2 ^ 64 % 2 ^ 32), s)

/-- An entry of the table: N, A, W, OUT, RES. -/
structure BinEntry where
  n : Nat
  a : Nat
  w : Word
  out : Nat
  res : Nat

def State.binEntry (s : State) (g : Gtid) (c : Nat) (cmd : Cmd) (i : Nat) : Except Raised BinEntry × State :=
  match s.spLoad g c 3 (cmd.a + BitVec.ofNat 64 (32 + 32 * i)).toNat 32 with
  | (.error r, s) => (.error r, s)
  | (.ok v, s) =>
    (.ok { n := v % 2 ^ 32, a := v / 2 ^ 32 % 2 ^ 32, w := BitVec.ofNat 64 (v / 2 ^ 64), out := v / 2 ^ 128 % 2 ^ 32,
           res := v / 2 ^ 160 % 4 }, s)

/-- A read of the bin table: it takes its port as a group is reached, and is not made again for the group's rows. -/
def State.tableRead {α : Type} (s : State) (first : Bool) (h : State → α × State) : α × State := if first then h s else s.unclaimed h

/-- R247: the tiles loaded so far have all been swapped in. -/
def gmmaSwapped (load comp : Running) : Bool :=
  load.last = 0 || load.last ≤ comp.group || (comp.group + 1 = load.last && 3 ≤ comp.phase)

/-- The load side of a GMMA: the next group's tile, once the shadow plane is free. -/
def State.gmmaLoad (s : State) (g : Gtid) (c : Nat) (r : Running) : State :=
  let cmd := r.cmd
  match (s.share g c).mxComp with
  | none => s
  | some comp =>
    match s.unclaimed fun s => s.binHeader g c cmd with
    | (.error e, s) => s.mxFault g c cmd e
    | (.ok (G, _, _), s) =>
      if G ≤ r.group || !gmmaSwapped r comp then s
      else
        match s.unclaimed fun s => s.binEntry g c cmd r.group with
        | (.error e, s) => s.mxFault g c cmd e
        | (.ok x, s) =>
          if x.n = 0 then s.modShare g c fun h => { h with mxLoad := some { r with group := r.group + 1 } }
          else if s.cycle < (s.share g c).loadFrom then s
          else
            let r := { r with phase := 1 }
            (s.modShare g c fun h => { h with mxLoad := some r }).loadBeat g c r (if x.res = 0 then .sp (x.w + cmd.b) else .va (x.w + cmd.b))
              fun r h => { h with mxLoad := some { r with phase := 0, beat := 0, group := r.group + 1, last := r.group + 1 } }

/-- MX's load pipe in one cycle. -/
def State.loadStep (s : State) (g : Gtid) (c : Nat) : State :=
  match (s.share g c).mxLoad with
  | none => s
  | some r =>
    match r.cmd.op with
    | .mldb =>
      s.loadBeat g c r (.rows r.cmd.a (Word.field r.cmd.b 0 32) r.cmd.c) fun r h => { h with mxLoad := none }.retire 1 r.cmd.seq
    | .mring =>
      if r.beat = tileBeats r.own.fmt r.own.sp r.own.geo && r.last ≠ 0 && r.row = r.last then
        s.modShare g c fun h => { h with mxLoad := none }.retire 1 r.cmd.seq
      else s
    | .gmma => s.gmmaLoad g c r
    | _ => s

/-! ### Result rows (R227 to R231) -/

/-- R228: a result row lands in a tile. -/
def Share.putTile (h : Share) (z row : Nat) (set : Bool) (P : Nat) (ys : List Nat) : Share :=
  let k := 1024 * z + 32 * (row % 32)
  { h with z := (ys.zip (List.range 32)).foldl (fun t y =>
      let old := (Tbl.get 0 t (k + y.2)).toNat
      let v := if set then y.1
        else if P = 9 then (old + y.1) % 2 ^ 32
        else (fAdd (floatFmt P) 0 (fDecode (floatFmt P) (old % 2 ^ fmtBits P)) (fDecode (floatFmt P) y.1)).bits
      Tbl.set 0 t (k + y.2) (BitVec.ofNat 64 v)) h.z }

/-- A list of elements of `w` bits, the first lowest. -/
def packElems (w : Nat) : List Nat → Nat
  | [] => 0
  | x :: r => x % 2 ^ w + 2 ^ w * packElems w r

/-- R230, R231: a row goes through the port to the scratchpad at an offset. -/
def State.portStore (s : State) (g : Gtid) (c : Nat) (cfg : PortCfg) (P : Nat) (off : Word) (ys : List Nat) : Except Raised Unit × State :=
  let w := fmtBits cfg.ofmt
  let n := 4 * w
  if !cfg.acc then s.spStore g c 3 off.toNat n (packElems w (ys.map (portConvert cfg.ofmt cfg.scale P)))
  else match s.spLoad g c 3 off.toNat n with
    | (.error r, s) => (.error r, s)
    | (.ok old, s) =>
      s.spStore g c 3 off.toNat n
        (packElems w ((ys.zip (List.range 32)).map fun y => portAdd cfg.ofmt cfg.scale P y.1 (elemBits w old y.2)))

/-- R230: a row of scores for the Collator. -/
def portScores (cfg : PortCfg) (P : Nat) (ys : List Nat) : List (BitVec 32) :=
  ys.map fun y => BitVec.ofNat 32 (portConvert 2 cfg.scale P y)

/-- A row of scores reaches the port and waits there (R231). -/
def Share.rowAtPort (h : Share) (seq row : Nat) (l : List (BitVec 32)) : Share :=
  let add (r : Running) : Running := if r.cmd.seq = seq then { r with pend := r.pend ++ [(row, l)] } else r
  { h with mxComp := h.mxComp.map add, mxFin := h.mxFin.map add }

/-- R228 to R231: a row is written to its tile, or leaves through the port. -/
def State.landRow (s : State) (g : Gtid) (c : Nat) (x : FlyRow) : Except Raised Unit × State :=
  let cfg := (s.share g c).port
  if !x.cmd.toPort then (.ok (), s.modShare g c fun h => h.putTile x.cmd.zi x.row (x.cmd.dst = 1) x.prec x.ys)
  else
    match x.out with
    | some off => s.portStore g c cfg x.prec off x.ys
    | none =>
      if cfg.kind = 2 then (.ok (), s.modShare g c fun h => h.rowAtPort x.cmd.seq x.row (portScores cfg x.prec x.ys))
      else s.portStore g c cfg x.prec (cfg.base + BitVec.ofNat 64 (x.row * cfg.stride)) x.ys

/-! ### Streamed rows (R224, R245) -/

/-- Row `r` of A at an offset, with its scales: as many as its plane's rows have, by the plane's SP (R222, R245). Of blocks
beyond them, which MMAS reaches on a plane with SP = 0, no scale is stated. -/
def State.readARow (s : State) (g : Gtid) (c : Nat) (cmd : Cmd) (sparse scaled : Bool) (off : Word) (r : Nat) : Except Raised ARow × State :=
  let p := (s.share g c).active
  let n := if sparse then 2048 else weightLen p.fmt
  let ageo := (cmd.f.mod.extractLsb' 1 2).toNat
  let sc := scaleCount p.fmt p.sp
  let spare (b : Nat) : FVal := scaleVal ((Config.freeWord (s.free + b)).toNat % 256)
  match s.spLoad g c 3 off.toNat n with
  | (.error e, s) => (.error e, s)
  | (.ok v, s) =>
    if !(5 ≤ p.fmt && p.fmt ≤ 7) then (.ok { bytes := v }, s)
    else
      let s := if sparse && !p.sp then { s with free := s.free + 512 } else s
      if !scaled || ageo = 0 then (.ok { bytes := v, spare := spare }, s)
      else
        match s.spLoad g c 3 (Word.field cmd.c 0 32 + r * sc) sc with
        | (.error e, s) => (.error e, s)
        | (.ok x, s) =>
          let scale (b : Nat) : FVal := if b < sc then scaleVal (elemBits 8 x b) else spare (256 + b)
          if ageo = 1 then (.ok { bytes := v, scale := scale, spare := spare }, s)
          else match s.spLoad g c 3 (Word.field cmd.c 32 32 + 2 * (r / 64)) 2 with
            | (.error e, s) => (.error e, s)
            | (.ok y, s) => (.ok { bytes := v, scale := scale, spare := spare, band := y }, s)

/-! ### The compute pipe -/

/-- R231: the end of an instruction that writes through a port of KIND 1. -/
def State.portDone (s : State) (g : Gtid) (c : Nat) (cmd : Cmd) (n : Nat) : State :=
  let cfg := (s.share g c).port
  if cmd.toPort && cfg.kind = 1 then s.fireTile g c ((cfg.tile + n) % 4096) else s

/-- A compute instruction that writes no row has done its step: it retires. -/
def State.compEmpty (s : State) (g : Gtid) (c : Nat) (r : Running) : State :=
  (s.portDone g c r.cmd 0).modShare g c fun h => { h with mxComp := none }.retire 1 r.cmd.seq

/-- A row enters the array; after its last row an instruction leaves the compute pipe, and retires when that row is written. -/
def State.rowIn (s : State) (g : Gtid) (c : Nat) (r : Running) (delay : Nat) (prec : Nat) (ys : List Nat) : State :=
  let final : Bool := r.cmd.rows ≤ r.row + 1
  let x : FlyRow := { cmd := r.cmd, due := s.cycle + delay, row := r.row, prec := prec,
                      fire := if final then [0] else [], ys := ys }
  s.modShare g c fun h =>
    let h := { h with mxFly := h.mxFly ++ [x] }
    if final then { h with mxComp := none, mxFin := h.mxFin ++ [{ r with row := r.row + 1, phase := 4 }] }
    else { h with mxComp := some { r with row := r.row + 1 } }

/-- R233, R245: a row of MMA or MMAS enters the array; it is written 63 cycles later. -/
def State.mmaRow (s : State) (g : Gtid) (c : Nat) (r : Running) : State :=
  let cmd := r.cmd
  if cmd.rows ≤ r.row then s.compEmpty g c r
  else
    let sparse := cmd.op = .mmas
    match s.readARow g c cmd sparse true (cmd.a + BitVec.ofNat 64 (r.row * Word.field cmd.b 0 32)) r.row with
    | (.error e, s) => s.mxFault g c cmd e
    | (.ok a, s) =>
      let p := (s.share g c).active
      s.rowIn g c r 63 (accFmt p.fmt) (p.results a sparse)

/-- The slot format of MDRAIN (R249). -/
def drainFmt (n : Nat) : Nat := if n = 0 then 2 else if n = 1 then 1 else 9

/-- R249: a row of MDRAIN; it is written in the next cycle. -/
def State.drainRow (s : State) (g : Gtid) (c : Nat) (r : Running) : State :=
  let cmd := r.cmd
  if cmd.rows ≤ r.row then s.compEmpty g c r
  else
    let h := s.share g c
    let P := drainFmt cmd.dst
    let k := 1024 * cmd.zi + 32 * r.row
    let ys := (List.range 32).map fun j => (Tbl.get 0 h.z (k + j)).toNat % 2 ^ fmtBits P
    let s := if cmd.f.mod.getLsbD 2 then
        s.modShare g c fun h => { h with z := (List.range 32).foldl (fun t j => Tbl.set 0 t (k + j) 0) h.z }
      else s
    s.rowIn g c r 1 P ys

/-- R236, R243: the planes of the pair exchange in cycle `now`. -/
def Share.swapPlanes (h : Share) (now : Nat) : Share := { h with active := h.shadow, shadow := h.active, loadFrom := now + 32 }

/-- R250: the port configuration an MSTREAM writes; the fields its kind does not name keep their values. -/
def streamCfg (old : PortCfg) (cmd : Cmd) : PortCfg :=
  let kind := (cmd.f.mod.extractLsb' 4 2).toNat
  let p := { old with kind := kind, ofmt := cmd.f.mod.toNat % 16, acc := cmd.f.mod.getLsbD 6, base := cmd.a, scale := cmd.c.setWidth 32 }
  if kind = 2 then { p with expert := Word.field cmd.b 0 16 }
  else { p with stride := Word.field cmd.b 0 32, tile := Word.field cmd.b 32 12 }

/-- R248: MZERO. -/
def Share.zeroTiles (h : Share) (mask : Nat) : Share := { h with z := h.z.filter fun e => !mask.testBit (e.1 / 1024) }

/-- The ready flag of a group without rows follows the rows still in the array (R231, R247). -/
def State.emptyGroup (s : State) (g : Gtid) (c : Nat) (cmd : Cmd) (n : Nat) : State :=
  match (s.share g c).mxFly.reverse with
  | [] => s.portDone g c cmd n
  | x :: l =>
    if x.cmd.seq = cmd.seq then s.modShare g c fun h => { h with mxFly := l.reverse ++ [{ x with fire := x.fire ++ [n] }] }
    else s.portDone g c cmd n

/-- The compute side of a GMMA in one cycle; after its last group it stays until every row is written. The bin table is read
as a group is reached (R246). -/
def State.gmmaStep (s : State) (g : Gtid) (c : Nat) (r : Running) : State :=
  let cmd := r.cmd
  if r.phase = 4 then s
  else
    match s.tableRead (r.phase = 0) fun s => s.binHeader g c cmd with
    | (.error e, s) => s.mxFault g c cmd e
    | (.ok (G, astr, ostr), s) =>
      let next : Running := { r with phase := 0, row := 0, group := r.group + 1 }
      if G ≤ r.group then s.modShare g c fun h => { h with mxComp := some { r with phase := 4, group := r.last - 1 } }
      else
        match s.tableRead (r.phase = 0) fun s => s.binEntry g c cmd r.group with
        | (.error e, s) => s.mxFault g c cmd e
        | (.ok x, s) =>
          if x.n = 0 then (s.emptyGroup g c cmd r.group).modShare g c fun h => { h with mxComp := some next }
          else if r.phase < 3 then
            let ready : Bool := match (s.share g c).mxLoad with
              | some l => l.last = r.group + 1
              | none => false
            s.modShare g c fun h =>
              if ready then { h.swapPlanes s.cycle with mxComp := some { r with phase := 3, row := 0, last := r.group + 1 } }
              else { h with mxComp := some { r with phase := 2, row := 0 } }
          else
            match s.readARow g c cmd cmd.mSp false (BitVec.ofNat 64 (x.a + r.row * astr)) r.row with
            | (.error e, s) => s.mxFault g c cmd e
            | (.ok a, s) =>
              let p := (s.share g c).active
              let final : Bool := x.n ≤ r.row + 1
              let y : FlyRow := { cmd := cmd, due := s.cycle + 63, row := r.row, prec := accFmt p.fmt,
                                  out := some (BitVec.ofNat 64 x.out + cmd.c + BitVec.ofNat 64 (r.row * ostr)),
                                  fire := if final then [r.group] else [], ys := p.results a cmd.mSp }
              s.modShare g c fun h =>
                { h with mxFly := h.mxFly ++ [y], mxComp := some (if final then next else { r with row := r.row + 1 }) }

/-- MX's compute pipe in one cycle. -/
def State.compStep (s : State) (g : Gtid) (c : Nat) : State :=
  match (s.share g c).mxComp with
  | none => s
  | some r =>
    let one (h : Share → Share) : State := s.modShare g c fun x => { h x with mxComp := none }.retire 1 r.cmd.seq
    match r.cmd.op with
    | .mswap => one fun h => h.swapPlanes s.cycle
    | .mzero => one fun h => h.zeroTiles r.cmd.f.mod.toNat
    | .mstream => one fun h => { h with port := streamCfg h.port r.cmd }
    | .mma => s.mmaRow g c r
    | .mmas => s.mmaRow g c r
    | .mdrain => s.drainRow g c r
    | .gmma => s.gmmaStep g c r
    | _ => s

/-- Are rows of an instruction still in the array? -/
def Share.flying (h : Share) (r : Running) : Bool := h.mxFly.any fun x => x.cmd.seq = r.cmd.seq

/-- Instructions whose rows are all written, and have left the port, retire (R231, R233). -/
def Share.retireFin (h : Share) : Share :=
  let fin (r : Running) : Bool := r.pend.isEmpty && !h.flying r
  let h' := { (h.mxFin.filter fin).foldl (fun h r => h.retire 1 r.cmd.seq) h with mxFin := h.mxFin.filter fun r => !fin r }
  match h.mxComp with
  | none => h'
  | some r => if r.cmd.op = .gmma && r.phase = 4 && fin r then { h' with mxComp := none, mxLoad := none }.retire 1 r.cmd.seq else h'

/-- The row to be written next: the oldest, or, while the engine is stopped, the oldest that has not faulted. -/
def Share.nextFly (h : Share) (on : Bool) : Option FlyRow := if on then h.mxFly.head? else h.mxFly.find? fun x => !x.bad

/-- The next row in the array is written, if `now` is its cycle or later. A row that cannot be written is a fault of MX; it is
written after the resume, and rows behind it are written meanwhile (R240). -/
def State.flyStep (s : State) (g : Gtid) (c : Nat) (now : Nat) (on : Bool) : State :=
  match (s.share g c).nextFly on with
  | none => s
  | some x =>
    if now < x.due then s
    else
      match s.landRow g c x with
      | (.error e, t) =>
        let t := if on then t else s
        let t := t.modShare g c fun h => { h with mxFly := h.mxFly.map fun y => if y = x then { y with bad := true } else y }
        if on then t.mxFault g c x.cmd e else t
      | (.ok _, t) => x.fire.foldl (fun s n => s.portDone g c x.cmd n) (t.modShare g c fun h => { h with mxFly := h.mxFly.erase x })

/-- R240: the rows in the array are completed before the state of a core is saved (fuel: the rows). -/
def State.landAll (s : State) (g : Gtid) (c : Nat) : Nat → State
  | 0 => s.modShare g c Share.retireFin
  | n + 1 =>
    match (s.share g c).nextFly false with
    | none => s.modShare g c Share.retireFin
    | some x => (s.flyStep g c x.due false).landAll g c n

/-- A pipe of MX works for a context unless it has worked for the other in this cycle (R358), or a port of the scratchpad is
taken (R276, R277); `busy` shows the work. -/
def State.mxPipe {α : Type} [DecidableEq α] (s : State) (g : Gtid) (c p : Nat) (busy : Share → α) (h : State → State) : State :=
  if !s.engineOn g c || s.pipeTaken g c p then s
  else
    let t := s.contend h
    if busy (t.share g c) = busy (s.share g c) then t else t.modShare g c fun h => h.usePipe p s.cycle

/-- R226, R231, R233, R234, R240: MX of a core works for one cycle: a row that leaves the array, a row of its compute pipe and a
beat of its load pipe, each whole; an instruction retires with its last one. Rows in the array are written though a
fault has stopped the engine. -/
def execMxRetire (g : Gtid) (c : Nat) (s : State) : Out :=
  .next (if !(match (s.task g).place with | .row .. => true | _ => false) || 8 ≤ c then s
  else
    let s := s.contend fun s => s.flyStep g c s.cycle (s.engineOn g c)
    let s := s.mxPipe g c pipeComp Share.mxComp fun s => s.compStep g c
    let s := s.mxPipe g c pipeLoad Share.mxLoad fun s => s.loadStep g c
    s.modShare g c Share.retireFin)

/-! ### The plane ring (R244, R348) -/

/-- The eastern neighbour. -/
def eastOf (c : Nat) : Nat := (c + 1) % 8

/-- A beat that has arrived is written into the shadow plane, once the core has sent its own; an engine that is stopped takes
what is on the ring (R240, R244). -/
def Share.takeRing (h : Share) (now : Nat) (on : Bool) : Share :=
  match h.mxLoad, h.ring with
  | some r, b :: rest =>
    let total := tileBeats b.fmt b.sp b.geo
    if r.cmd.op ≠ .mring || (r.last ≠ 0 && r.row = r.last) || now < b.due ||
      (on && r.beat ≤ b.idx && r.beat < tileBeats r.own.fmt r.own.sp r.own.geo) then h
    else
      { h with ring := rest,
               shadow := (if b.idx = 0 then { h.shadow.begin b.fmt b.sp b.geo with band := b.band } else h.shadow).putBeat b.idx b.data,
               mxLoad := some { r with row := r.row + 1, last := total } }
  | _, _ => h

/-- R240: the beats on the ring are written before the state of a core is saved (fuel: the beats). -/
def Share.takeAllRing (h : Share) : Nat → Share
  | 0 => h
  | n + 1 =>
    match h.ring with
    | [] => h
    | b :: _ => (h.takeRing b.due false).takeAllRing n

/-- R244: a core that executes MRING sends its next beat east, and writes the next beat from the west that it may take. A
stopped engine sends nothing (R240). -/
def execMringBeat (g : Gtid) (c : Nat) (s : State) : Out :=
  .next (if !(match (s.task g).place with | .row .. => true | _ => false) || 8 ≤ c then s
  else
    match (s.share g c).mxLoad with
    | none => s
    | some r =>
      if r.cmd.op ≠ .mring then s
      else
        let p := r.own
        let on := s.engineOn g c
        let send := on && !s.pipeTaken g c pipeLoad && r.beat < tileBeats p.fmt p.sp p.geo
        let s := if send then
            (s.modShare g (eastOf c) fun h =>
              { h with ring := h.ring ++ [{ fmt := p.fmt, sp := p.sp, geo := p.geo, band := p.band, idx := r.beat, data := p.beat r.beat, due := s.cycle + 2 }] }).modShare
              g c fun h => { h with mxLoad := some { r with beat := r.beat + 1 } }.usePipe pipeLoad s.cycle
          else s
        s.modShare g c fun h => h.takeRing s.cycle on)

/-! ### Micro-PCs (R241) -/

/-- The minor opcode of an MX instruction. -/
def mxMinor (op : EngOp) : Nat :=
  match op with
  | .mswap => 1
  | .mring => 2
  | .mma => 3
  | .mmas => 4
  | .gmma => 5
  | .mzero => 6
  | .mdrain => 7
  | .mstream => 8
  | _ => 0

/-- The micro-PC word of an instruction in progress. -/
def mpcWord (r : Option Running) : Word :=
  match r with
  | none => 0
  | some r => BitVec.ofNat 64 (mxMinor r.cmd.op + 16 * r.phase + 2 ^ 8 * (r.beat % 256) + 2 ^ 16 * (r.row % 2 ^ 32) + 2 ^ 48 * r.group)

/-- Rows in the array are completed before the word is recorded (R240): an instruction that has streamed its last row counts
while rows of it are for the Collator, or one has faulted. -/
def Share.mpc0 (h : Share) : Word :=
  let left (r : Running) : Bool :=
    !r.pend.isEmpty || h.mxFly.any fun x => x.cmd.seq = r.cmd.seq && (x.bad || (r.cmd.toPort && h.port.kind = 2))
  mpcWord (h.mxFin.find? left <|> h.mxComp)
def Share.mpc1 (h : Share) : Word := mpcWord h.mxLoad

end Sys2Proof.Machine
end

