-- ==== Sys2Proof/Machine/Vector.lean ====
section
/-! DEFINITION. The vector instructions of the V position (R192 to R213), on a matrix core and on a binning thread. -/

namespace Sys2Proof.Machine

def isF14 (c : Nat) : Bool := 1 ≤ c && c ≤ 4

/-! ### VFLT (R192) -/

/-- The scheme of a float instruction with one or two sources and a rounding. -/
def State.vflt (s : State) (f : FmtV) (accept : Nat → Bool) (op : FloatFmt → Nat → Nat → Nat → FRes) : Out :=
  s.guarded f.g fun s =>
    let c := s.vctx f.fmt
    s.checked c (accept c.fmt) [c.fmt] true fun s =>
      s.elementwise f c fun i => op (floatFmt c.fmt) (s.roundMode f.rmode.toNat) (s.opAe f c.w i) (s.opBe f c.w i)

/-- An operation on decoded values. -/
def onVals (op : FloatFmt → Nat → FVal → FVal → FRes) (F : FloatFmt) (m a b : Nat) : FRes := op F m (fDecode F a) (fDecode F b)

/-- R192. -/
def execVadd (f : FmtV) (s : State) : Out := s.vflt f isF14 (onVals fAdd)
/-- R192. -/
def execVsub (f : FmtV) (s : State) : Out := s.vflt f isF14 (onVals fun F m a b => fAdd F m a b.neg)
/-- R192. -/
def execVmul (f : FmtV) (s : State) : Out := s.vflt f isF14 (onVals fMul)
/-- R192. -/
def execVdiv (f : FmtV) (s : State) : Out := s.vflt f isF14 (onVals fDiv)

/-- R192: A × VB ± C with one rounding. -/
def State.vfma (s : State) (f : FmtV) (sub : Bool) : Out :=
  s.guarded f.g fun s =>
    let c := s.vctx f.fmt
    let F := floatFmt c.fmt
    s.checked c (isF14 c.fmt) [c.fmt] true fun s =>
      s.elementwise f c fun i =>
        let z := fDecode F (s.opCe f c.w i)
        fFma F (s.roundMode f.rmode.toNat) (fDecode F (s.opAe f c.w i)) (fDecode F (elem (s.vecB f) c.w i)) (if sub then z.neg else z)

/-- R192. -/
def execVfma (f : FmtV) (s : State) : Out := s.vfma f false
/-- R192. -/
def execVfms (f : FmtV) (s : State) : Out := s.vfma f true
/-- R192. -/
def execVmin (f : FmtV) (s : State) : Out := s.vflt f isFloatCode fun F _ a b => fMinMax F false a b
/-- R192. -/
def execVmax (f : FmtV) (s : State) : Out := s.vflt f isFloatCode fun F _ a b => fMinMax F true a b

/-- R192: the operand with its sign as given; a NaN becomes canonical. -/
def withSign (F : FloatFmt) (neg : Bool) (a : Nat) : FRes :=
  if (fDecode F a).isNan then { bits := F.canonNan } else { bits := F.signBit neg + a % 2 ^ (F.ebits + F.mbits) }

/-- R192. -/
def execVabs (f : FmtV) (s : State) : Out := s.vflt f isFloatCode fun F _ a _ => withSign F false a
/-- R192. -/
def execVneg (f : FmtV) (s : State) : Out := s.vflt f isFloatCode fun F _ a _ => withSign F (!fSign F a) a

/-! ### VFUN (R193, R194) -/

def isF24 (c : Nat) : Bool := 2 ≤ c && c ≤ 4

def onVal (op : FloatFmt → Nat → FVal → FRes) (F : FloatFmt) (m a _b : Nat) : FRes := op F m (fDecode F a)

/-- R193. -/
def execVrcp (f : FmtV) (s : State) : Out := s.vflt f isF14 (onVal fRcp)
/-- R193. -/
def execVrsq (f : FmtV) (s : State) : Out := s.vflt f isF14 (onVal fRsq)
/-- R193. -/
def execVsqrt (f : FmtV) (s : State) : Out := s.vflt f isF14 (onVal fSqrt)
/-- R193. -/
def execVexp2 (f : FmtV) (s : State) : Out := s.vflt f isF24 (onVal fExp2)
/-- R193. -/
def execVlog2 (f : FmtV) (s : State) : Out := s.vflt f isF24 (onVal fLog2)
/-- R193. -/
def execVsig (f : FmtV) (s : State) : Out := s.vflt f isF24 (onVal fSig)
/-- R193. -/
def execVtanh (f : FmtV) (s : State) : Out := s.vflt f isF24 (onVal fTanh)

/-! ### VINT (R195) -/

/-- The scheme of an integer instruction: it sets no flag. -/
def State.vint (s : State) (f : FmtV) (op : Nat → Nat → Nat → Nat) : Out :=
  s.guarded f.g fun s =>
    let c := s.vctx f.fmt
    s.checked c (isIntCode c.fmt) [c.fmt] true fun s =>
      s.elementwise f c fun i => { bits := op c.w (s.opAe f c.w i) (s.opBe f c.w i) }

/-- R195: an exact result modulo 2^w, or clamped to the signed range. -/
def satElem (w : Nat) (sat : Bool) (v : Int) : Nat :=
  if sat then wrapElem w (max (-(2 ^ (w - 1))) (min (2 ^ (w - 1) - 1) v)) else wrapElem w v

/-- R195. -/
def execVaddInt (f : FmtV) (s : State) : Out :=
  s.vint f fun w a b => satElem w (f.aux.getLsbD 0) (signedElem w a + signedElem w b)
/-- R195. -/
def execVsubInt (f : FmtV) (s : State) : Out :=
  s.vint f fun w a b => satElem w (f.aux.getLsbD 0) (signedElem w a - signedElem w b)
/-- R195. -/
def execVmulInt (f : FmtV) (s : State) : Out := s.vint f fun w a b => a * b % 2 ^ w

/-- Is element `a` below `b`, signed or unsigned? -/
def elemLess (w : Nat) (unsigned : Bool) (a b : Nat) : Bool := if unsigned then a < b else signedElem w a < signedElem w b

/-- R195. -/
def execVminInt (f : FmtV) (s : State) : Out := s.vint f fun w a b => if elemLess w (f.aux.getLsbD 1) b a then b else a
/-- R195. -/
def execVmaxInt (f : FmtV) (s : State) : Out := s.vint f fun w a b => if elemLess w (f.aux.getLsbD 1) a b then b else a
/-- R195. -/
def execVand (f : FmtV) (s : State) : Out := s.vint f fun _ a b => a &&& b
/-- R195. -/
def execVor (f : FmtV) (s : State) : Out := s.vint f fun _ a b => a ||| b
/-- R195. -/
def execVxor (f : FmtV) (s : State) : Out := s.vint f fun _ a b => a ^^^ b
/-- R195. -/
def execVnot (f : FmtV) (s : State) : Out := s.vint f fun w a _ => 2 ^ w - 1 - a

/-- R195: the shift count B[s-1:0]. -/
def elemCount (w b : Nat) : Nat := b % (if w = 8 then 8 else 32)

/-- R195. -/
def execVshl (f : FmtV) (s : State) : Out := s.vint f fun w a b => a * 2 ^ elemCount w b % 2 ^ w
/-- R195. -/
def execVshr (f : FmtV) (s : State) : Out := s.vint f fun w a b => a / 2 ^ elemCount w b
/-- R195. -/
def execVsra (f : FmtV) (s : State) : Out := s.vint f fun w a b => wrapElem w (signedElem w a / 2 ^ elemCount w b)

/-- The one bits among the low `n` bits. -/
def onesOf (a : Nat) : Nat → Nat
  | 0 => 0
  | n + 1 => (if a.testBit n then 1 else 0) + onesOf a n

/-- The leading zero bits of the low `n` bits. -/
def zerosOf (a : Nat) : Nat → Nat
  | 0 => 0
  | n + 1 => if a.testBit n then 0 else 1 + zerosOf a n

/-- R195. -/
def execVpopc (f : FmtV) (s : State) : Out := s.vint f fun w a _ => onesOf a w
/-- R195. -/
def execVclz (f : FmtV) (s : State) : Out := s.vint f fun w a _ => zerosOf a w

/-! ### Compares, masks, selection (R196 to R198) -/

/-- R196: the float condition of AUX. -/
def vcmpFloat (aux : Nat) : Option FCond :=
  match aux with
  | 0 => some .eq
  | 1 => some .lt
  | 2 => some .le
  | 3 => some .un
  | 4 => some .ne
  | _ => none

/-- R196: the integer condition of AUX. -/
def vcmpInt (aux w a b : Nat) : Option Bool :=
  match aux with
  | 0 => some (a = b)
  | 1 => some (signedElem w a < signedElem w b)
  | 2 => some (signedElem w a ≤ signedElem w b)
  | 4 => some (a ≠ b)
  | 5 => some (a < b)
  | 6 => some (a ≤ b)
  | _ => none

/-- The truth and the flags of one position. -/
def vcmpElem (fmt aux w a b : Nat) : Bool × Word :=
  if isIntCode fmt then ((vcmpInt aux w a b).getD false, 0)
  else match vcmpFloat aux with
    | some c => fCmp (floatFmt fmt) c a b
    | none => (false, 0)

/-- A mask with bit `i` set to `b`. -/
def setBit (m : BitVec 2048) (i : Nat) (b : Bool) : BitVec 2048 :=
  if b then m ||| BitVec.twoPow 2048 i else m &&& ~~~(BitVec.twoPow 2048 i)

/-- R196. -/
def execVcmp (f : FmtV) (s : State) : Out :=
  s.guarded f.g fun s =>
    let c := s.vctx f.fmt
    let aux := f.aux.toNat
    let ok := if isIntCode c.fmt then (vcmpInt aux 8 0 0).isSome else (vcmpFloat aux).isSome
    s.checked c ok [c.fmt] true fun s =>
      let d := f.vd.toNat
      let sel := s.maskOf f
      let r := (List.range c.n).foldl (fun (a : BitVec 2048 × Word) i =>
        if sel.getLsbD i then
          let x := vcmpElem c.fmt aux c.w (s.opAe f c.w i) (s.opBe f c.w i)
          (setBit a.1 i x.1, a.2 ||| x.2)
        else a) (s.rdMask d, 0)
      (s.wrMask d r.1).orFlags r.2

/-- R197: a mask over positions 0 to n - 1; positions beyond are discarded (R28). -/
def State.vmask (s : State) (f : FmtV) (op : Bool → Bool → Bool) : Out :=
  s.guarded f.g fun s =>
    let c := s.vctx 0
    s.checked c true [] true fun s =>
      let a := s.rdMask f.va.toNat
      let b := s.rdMask f.vb.toNat
      s.wrMask f.vd.toNat ((List.range c.n).foldl (fun m i => setBit m i (op (a.getLsbD i) (b.getLsbD i))) (s.rdMask f.vd.toNat))

/-- R197. -/
def execVmand (f : FmtV) (s : State) : Out := s.vmask f fun a b => a && b
/-- R197. -/
def execVmor (f : FmtV) (s : State) : Out := s.vmask f fun a b => a || b
/-- R197. -/
def execVmxor (f : FmtV) (s : State) : Out := s.vmask f fun a b => a != b
/-- R197. -/
def execVmnot (f : FmtV) (s : State) : Out := s.vmask f fun a _ => !a

/-- R197: the positions below n that a mask selects. -/
def onesIn (m : BitVec 2048) (n : Nat) : List Nat := (List.range n).filter fun i => m.getLsbD i

/-- R197. -/
def execVmcnt (f : FmtV) (s : State) : Out :=
  s.guarded f.g fun s =>
    let c := s.vctx 0
    s.checked c true [] true fun s => s.wrInt f.vd (BitVec.ofNat 64 (onesIn (s.rdMask f.va.toNat) c.n).length)

/-- R197. -/
def execVmfirst (f : FmtV) (s : State) : Out :=
  s.guarded f.g fun s =>
    let c := s.vctx 0
    s.checked c true [] true fun s => s.wrInt f.vd (BitVec.ofNat 64 ((onesIn (s.rdMask f.va.toNat) c.n).head?.getD c.n))

/-- R198: the mask selects between A and B at every position. -/
def execVsel (f : FmtV) (s : State) : Out :=
  s.guarded f.g fun s =>
    let c := s.vctx f.fmt
    s.checked c true [c.fmt] true fun s =>
      let m := s.maskOf f
      s.wrVec (State.dest f) (putElems (s.rdVec (State.dest f)) c.w
        ((List.range c.n).map fun i => (i, if m.getLsbD i then s.opAe f c.w i else s.opBe f c.w i)))

/-! ### Conversion and quantisation (R175 to R178, R199 to R201) -/

/-- R199: an element of format `G` converted to `F`. -/
def vcvtElem (G F mode : Nat) (sat : Bool) (a : Nat) : FRes :=
  let w := fmtBits F
  if isIntCode G then
    let k := signedElem (fmtBits G) a
    if isIntCode F then
      let lo : Int := -(2 ^ (w - 1))
      let hi : Int := 2 ^ (w - 1) - 1
      { bits := satElem w sat k, flags := if k < lo || hi < k then fOF ||| fNX else 0 }
    else fFromInt (floatFmt F) mode sat k
  else
    let x := fDecode (floatFmt G) a
    if isIntCode F then
      let r := fToInt mode (-(2 ^ (w - 1))) (2 ^ (w - 1) - 1) x
      { bits := wrapElem w r.1, flags := r.2 }
    else fConvert (floatFmt F) mode sat x

/-- The format that VB[3:0] names. -/
def srcFmt (f : FmtV) : Nat := f.vb.toNat % 16

def isFmt (c : Nat) : Bool := 1 ≤ c && c ≤ 9

/-- R199. -/
def execVcvt (f : FmtV) (s : State) : Out :=
  s.guarded f.g fun s =>
    let c := s.vctx f.fmt
    let G := srcFmt f
    s.checked c (isFmt G) [G, c.fmt] true fun s =>
      s.elementwise f c fun i =>
        vcvtElem G c.fmt (s.roundMode f.rmode.toNat) s.saturates (s.opAe f (fmtBits G) i)

/-- A magnitude as a fraction. -/
def magFrac (x : FVal) : Nat × Nat :=
  match x with
  | .fin _ m e => dyFrac m e
  | _ => (0, 1)

/-- The greater of two fractions. -/
def maxFrac (a b : Nat × Nat) : Nat × Nat := if a.1 * b.2 < b.1 * a.2 then b else a

/-- R177: the largest finite magnitude of a list. -/
def maxMag (l : List FVal) : Nat × Nat := l.foldl (fun m x => maxFrac m (magFrac x)) (0, 1)

/-- R177: Q of a destination format. -/
def quantMax (F : Nat) : Nat := if F = 5 then 448 else if F = 6 then 57344 else 6

/-- R177: the band scale computed for a band, as BF16. -/
def bandScale (F : Nat) (l : List FVal) : Nat :=
  let m := maxMag l
  if m.1 = 0 then 0 else (roundRat (floatFmt 3) 3 false false m.1 (m.2 * (quantMax F * 16)) false).bits

/-- R177: the block scale of a block under a band scale, as E3M5. -/
def blockScale (F bd : Nat) (l : List FVal) : Nat :=
  match bandVal bd with
  | .fin false bm be =>
    let m := maxMag l
    let b := dyFrac bm be
    if m.1 = 0 || bm = 0 then 0 else leastScale (m.1 * b.2) (m.2 * b.1 * quantMax F) 256 0
  | _ => 0

/-- R177: one quantised element. -/
def quantElem (F mode bd sc : Nat) (x : FVal) : FRes :=
  match x with
  | .fin n m e =>
    if scaleUnits sc = 0 then { bits := 0 }
    else
      let a := dyFrac m e
      let b := magFrac (bandVal bd)
      roundRat (floatFmt F) mode true n (a.1 * b.2 * 128) (a.2 * b.1 * scaleUnits sc) false
  | x => fConvert (floatFmt F) mode true x

/-- R200, R201: the band scale by AUX: 1.0, one the caller gives, or the scalar's. -/
def State.bandOf (s : State) (f : FmtV) (two : Nat) : Nat :=
  match f.aux.toNat with
  | 1 => 0x3F80
  | 2 => two
  | _ => (s.scalarC f).toNat % 2 ^ 16

/-- R200, R201: the shape quantised blocks need. -/
def blockShape (f : FmtV) (c : VCtx) : Bool := c.cols % 16 = 0 && (f.aux ≠ 2 || c.rows ≤ 64)

/-- R200. -/
def execVqnt (f : FmtV) (s : State) : Out :=
  s.guarded f.g fun s =>
    let c := s.vctx f.fmt
    let G := srcFmt f
    s.checked c (isF24 G && 5 ≤ c.fmt && c.fmt ≤ 7) [G, c.fmt] (blockShape f c) fun s =>
      let x (i : Nat) : FVal := fDecode (floatFmt G) (s.opAe f (fmtBits G) i)
      let bd := s.bandOf f (bandScale c.fmt ((List.range c.n).map x))
      let sc (b : Nat) : Nat := blockScale c.fmt bd ((List.range 16).map fun j => x (16 * b + j))
      let scs := (List.range (c.n / 16)).map sc
      let d := State.dest f
      let (r, fl) := writeElems (s.rdVec d) c.w (fun _ => true)
        (fun i => quantElem c.fmt (s.roundMode f.rmode.toNat) bd (scs.getD (i / 16) 0) (x i)) c.n
      let aux := putElems 0 8 (((List.range scs.length).zip scs) ++ [(c.reg - 2, bd % 256), (c.reg - 1, bd / 256)])
      ((s.wrVec d r).wrVec (d + 1) aux).orFlags fl

/-- R178, R201: q × S × BD rounded once. -/
def dequantElem (G F mode bd sc q : Nat) : FRes :=
  match mulVal (mulVal (fDecode (floatFmt G) q) (.fin false (scaleUnits sc) (-7))) (bandVal bd) with
  | .fin n m e => roundDyadic (floatFmt F) mode false (sgn n m) e n
  | .inf n => infRes (floatFmt F) n
  | .nan q => nanRes (floatFmt F) q

/-- R201. -/
def execVdeq (f : FmtV) (s : State) : Out :=
  s.guarded f.g fun s =>
    let c := s.vctx f.fmt
    let G := srcFmt f
    s.checked c (5 ≤ G && G ≤ 7 && isF14 c.fmt) [G, c.fmt] (blockShape f c) fun s =>
      let im := s.rdVec (vecNo f.va (f.xt.getLsbD 2) + 1)
      let bd := s.bandOf f (elem im 8 (c.reg - 2) + 256 * elem im 8 (c.reg - 1))
      s.elementwise f c fun i =>
        dequantElem G c.fmt (s.roundMode f.rmode.toNat) bd (elem im 8 (i / 16)) (s.opAe f (fmtBits G) i)

/-! ### Reductions and scans (R180, R181, R202, R203) -/

/-- R202: the operation of two elements. -/
def redOp (aux fmt mode a b : Nat) : FRes :=
  let w := fmtBits fmt
  let F := floatFmt fmt
  let int := isIntCode fmt
  match aux with
  | 0 => if int then { bits := (a + b) % 2 ^ w } else fAdd F mode (fDecode F a) (fDecode F b)
  | 1 => if int then { bits := if elemLess w false b a then b else a } else fMinMax F false a b
  | 2 => if int then { bits := if elemLess w false a b then b else a } else fMinMax F true a b
  | 3 => { bits := min a b }
  | 4 => { bits := max a b }
  | 5 => { bits := a &&& b }
  | 6 => { bits := a ||| b }
  | _ => { bits := a ^^^ b }

/-- R202: does the operation accept the format? A rounding is named for a float sum only (R69). -/
def redAccepts (f : FmtV) (fmt : Nat) : Bool :=
  (isIntCode fmt || (f.aux.toNat ≤ 2 && isF14 fmt)) && (f.rmode = 7 || (f.aux = 0 && isF14 fmt))

/-- R180: one level of the tree. -/
def treeLevel (op : Nat → Nat → FRes) : List Nat → List Nat × Word
  | a :: b :: l =>
    let r := op a b
    let (t, fl) := treeLevel op l
    (r.bits :: t, r.flags ||| fl)
  | l => (l, 0)

/-- R180: the tree, level by level (fuel: the elements). -/
def treeReduce (op : Nat → Nat → FRes) : Nat → List Nat → Nat × Word
  | 0, l => (l.head?.getD 0, 0)
  | n + 1, l =>
    if l.length ≤ 1 then (l.head?.getD 0, 0)
    else
      let (t, fl) := treeLevel op l
      let (r, fl') := treeReduce op n t
      (r, fl ||| fl')

/-- R155, R173: an element that a list begins with, as a result: a NaN is written as the canonical one. -/
def firstElem (fmt a : Nat) : FRes :=
  if isIntCode fmt then { bits := a }
  else
    match fDecode (floatFmt fmt) a with
    | .nan s => nanRes (floatFmt fmt) s
    | _ => { bits := a }

/-- R180: the result of a list: +0 where it is empty. -/
def reduceList (fmt : Nat) (op : Nat → Nat → FRes) (l : List Nat) : Nat × Word :=
  match l with
  | [a] => ((firstElem fmt a).bits, (firstElem fmt a).flags)
  | l => treeReduce op l.length l

/-- R181: the sequence, from the value before. -/
def scanFrom (op : Nat → Nat → FRes) (y : Nat) : List Nat → List Nat × Word
  | [] => ([], 0)
  | a :: l =>
    let r := op y a
    let (t, fl) := scanFrom op r.bits l
    (r.bits :: t, r.flags ||| fl)

def scanList (fmt : Nat) (op : Nat → Nat → FRes) : List Nat → List Nat × Word
  | [] => ([], 0)
  | a :: l => let (t, fl) := scanFrom op a l; ((firstElem fmt a).bits :: t, (firstElem fmt a).flags ||| fl)

/-- R202: the lists of an axis: where the result of each goes, and its positions in row-major order. -/
def axisLists (axis : Nat) (c : VCtx) : List (Nat × List Nat) :=
  match axis with
  | 0 => [(0, List.range c.n)]
  | 1 => (List.range c.rows).map fun r => (r * c.cols, (List.range c.cols).map fun k => r * c.cols + k)
  | _ => (List.range c.cols).map fun k => (k, (List.range c.rows).map fun r => r * c.cols + k)

/-- R202. -/
def execVred (f : FmtV) (s : State) : Out :=
  s.guarded f.g fun s =>
    let c := s.vctx f.fmt
    s.checked c (redAccepts f c.fmt) [c.fmt] true fun s =>
      let sel := s.maskOf f
      let op := redOp f.aux.toNat c.fmt (s.roundMode f.rmode.toNat)
      let d := State.dest f
      let rs := (axisLists (f.vb.toNat % 4) c).map fun l =>
        (l.1, reduceList c.fmt op ((l.2.filter fun i => sel.getLsbD i).map fun i => s.opAe f c.w i))
      (s.wrVec d (putElems (s.rdVec d) c.w (rs.map fun r => (r.1, r.2.1)))).orFlags (rs.foldl (fun a r => a ||| r.2.2) 0)

/-- R203. -/
def execVscan (f : FmtV) (s : State) : Out :=
  s.guarded f.g fun s =>
    let c := s.vctx f.fmt
    s.checked c (redAccepts f c.fmt) [c.fmt] true fun s =>
      let sel := s.maskOf f
      let op := redOp f.aux.toNat c.fmt (s.roundMode f.rmode.toNat)
      let d := State.dest f
      let rs := (axisLists (f.vb.toNat % 4) c).map fun l =>
        let pos := l.2.filter fun i => sel.getLsbD i
        (pos, scanList c.fmt op (pos.map fun i => s.opAe f c.w i))
      (s.wrVec d (rs.foldl (fun r l => putElems r c.w (l.1.zip l.2.1)) (s.rdVec d))).orFlags (rs.foldl (fun a r => a ||| r.2.2) 0)

/-! ### Data movement (R204 to R209) -/

/-- A move of bits: the element each selected position takes. -/
def State.vmove (s : State) (f : FmtV) (fits : VCtx → Bool) (op : VCtx → Nat → Nat) : Out :=
  s.guarded f.g fun s =>
    let c := s.vctx f.fmt
    s.checked c true [c.fmt] (fits c) fun s => s.elementwise f c fun i => { bits := op c i }

/-- R204. -/
def execVmov (f : FmtV) (s : State) : Out := s.vmove f (fun _ => true) fun c i => s.opAe f c.w i

/-- R205. -/
def execVbcast (f : FmtV) (s : State) : Out :=
  s.vmove f (fun _ => true) fun c i =>
    if f.cfile ≠ 0 then (s.scalarC f).toNat % 2 ^ c.w
    else if f.aux.getLsbD 0 then s.opAe f c.w (i / c.cols * c.cols)
    else s.opAe f c.w (i % c.cols)

/-- R206: destination position c × ROWS + r takes element (r, c). -/
def execVtran (f : FmtV) (s : State) : Out :=
  s.vmove f (fun _ => true) fun c i => s.opAe f c.w (i % c.rows * c.cols + i / c.rows)

/-- R207. -/
def execVshuf (f : FmtV) (s : State) : Out :=
  s.vmove f (fun c => 2 * c.n ≤ c.reg) fun c i =>
    let k := elem (s.vecB f) 16 i
    if c.n ≤ k then 0 else s.opAe f c.w k

/-- R208. -/
def execVext (f : FmtV) (s : State) : Out :=
  s.guarded f.g fun s =>
    let c := s.vctx f.fmt
    s.checked c true [c.fmt] true fun s =>
      let k := (s.scalarC f).toNat
      let e := if c.n ≤ k then 0 else s.opAe f c.w k
      s.wrInt f.vd (if isIntCode c.fmt then BitVec.ofInt 64 (signedElem c.w e) else BitVec.ofNat 64 e)

/-- R208. -/
def execVins (f : FmtV) (s : State) : Out :=
  s.guarded f.g fun s =>
    let c := s.vctx f.fmt
    s.checked c true [c.fmt] true fun s =>
      let k := (s.rdInt f.va).toNat
      if k < c.n && (s.maskOf f).getLsbD k then
        s.wrVec (State.dest f) (putElems (s.rdVec (State.dest f)) c.w [(k, (s.scalarC f).toNat % 2 ^ c.w)])
      else s

/-- R209. -/
def execViota (f : FmtV) (s : State) : Out :=
  s.guarded f.g fun s =>
    let c := s.vctx f.fmt
    s.checked c (f.rmode = 7 || isFloatCode c.fmt) [c.fmt] true fun s =>
      let base : Int := if f.cfile = 0 then 0 else (s.scalarC f).toInt
      s.elementwise f c fun i =>
        if isIntCode c.fmt then { bits := wrapElem c.w (base + i) }
        else fFromInt (floatFmt c.fmt) (s.roundMode f.rmode.toNat) false (base + i)

/-! ### Sparse, selection, shape (R210 to R213) -/

/-- R210: does the element count? -/
def nonZero (fmt a : Nat) : Bool :=
  if isIntCode fmt then a ≠ 0
  else match fDecode (floatFmt fmt) a with
    | .fin _ m _ => m ≠ 0
    | _ => true

/-- R210. -/
def execNzscan (f : FmtV) (s : State) : Out :=
  s.guarded f.g fun s =>
    let c := s.vctx f.fmt
    s.checked c true [c.fmt] true fun s =>
      let sel := s.maskOf f
      let hit := (List.range c.n).filter fun i => sel.getLsbD i && nonZero c.fmt (s.opAe f c.w i)
      let kept := hit.take (c.reg / 2)
      (s.wrVec (State.dest f) (putElems 0 16 ((List.range kept.length).zip kept))).wrInt f.vc (BitVec.ofNat 64 hit.length)

/-- The order of two elements: integers signed or unsigned; floats by value, zeros equal, a NaN above (`nanHigh`) or below
every number. -/
def keyLess (fmt : Nat) (unsigned nanHigh : Bool) (a b : Nat) : Bool :=
  if isIntCode fmt then elemLess (fmtBits fmt) unsigned a b
  else
    let x := fDecode (floatFmt fmt) a
    let y := fDecode (floatFmt fmt) b
    match x.isNan, y.isNan with
    | true, true => false
    | true, false => !nanHigh
    | false, true => nanHigh
    | false, false => fCompare x y = some .lt

/-- Inserts into a sorted list behind its equals. -/
def insertKey (before : Nat → Nat → Bool) (x : Nat × Nat) : List (Nat × Nat) → List (Nat × Nat)
  | [] => [x]
  | y :: l => if before x.1 y.1 then x :: y :: l else y :: insertKey before x l

/-- A stable sort of keys with their columns. -/
def sortKeys (before : Nat → Nat → Bool) (l : List (Nat × Nat)) : List (Nat × Nat) :=
  l.foldl (fun acc x => insertKey before x acc) []

/-- R211. -/
def execVtopk (f : FmtV) (s : State) : Out :=
  s.guarded f.g fun s =>
    let c := s.vctx f.fmt
    let k := f.aux.toNat + 1
    s.checked c true [c.fmt] (k ≤ c.cols && c.rows * k * 2 ≤ c.reg) fun s =>
      let sel := s.maskOf f
      let d := State.dest f
      let best (r : Nat) : List (Nat × Nat) :=
        let l := ((List.range c.cols).filter fun j => sel.getLsbD (r * c.cols + j)).map fun j => (s.opAe f c.w (r * c.cols + j), j)
        let t := (sortKeys (fun a b => keyLess c.fmt false false b a) l).take k
        t ++ List.replicate (k - t.length) (0, 0xFFFF)
      let out := ((List.range c.rows).map fun r => ((List.range k).zip (best r)).map fun e => (r, e.1, e.2.1, e.2.2)).flatten
      let v := putElems (s.rdVec d) c.w (out.map fun e => (e.1 * c.cols + e.2.1, e.2.2.1))
      let x := putElems (s.rdVec (d + 1)) 16 (out.map fun e => (e.1 * k + e.2.1, e.2.2.2))
      (s.wrVec d v).wrVec (d + 1) x

/-- R213. -/
def execVsort (f : FmtV) (s : State) : Out :=
  s.guarded f.g fun s =>
    let c := s.vctx f.fmt
    s.checked c (!(f.aux.getLsbD 1 && isFloatCode c.fmt)) [c.fmt] (c.n * 2 ≤ c.reg) fun s =>
      let d := State.dest f
      let less := keyLess c.fmt (f.aux.getLsbD 1) true
      let before (a b : Nat) : Bool := if f.aux.getLsbD 0 then less b a else less a b
      let out := ((List.range c.rows).map fun r =>
        let t := sortKeys before ((List.range c.cols).map fun j => (s.opAe f c.w (r * c.cols + j), j))
        ((List.range t.length).zip t).map fun e => (r * c.cols + e.1, e.2.1, e.2.2)).flatten
      let v := putElems (s.rdVec d) c.w (out.map fun e => (e.1, e.2.1))
      let x := putElems (s.rdVec (d + 1)) 16 (out.map fun e => (e.1, e.2.2))
      (s.wrVec d v).wrVec (d + 1) x

/-- R212. -/
def execVshape (f : FmtV) (s : State) : Out :=
  s.guarded f.g fun s =>
    let w := s.vshapeNow
    if f.aux.getLsbD 0 then
      s.wrVshape ((w &&& 0xFFFFFFFFFF000000) ||| BitVec.ofNat 64 (shapeRows w * 2 ^ 12 + shapeCols w))
    else s.wrVshape (s.scalarC f &&& 0x0FFFFFFF)

end Sys2Proof.Machine
end

