-- ==== Sys2Proof/Machine/Xsc.lean ====
section
/-! DEFINITION. Permits, dispatches and combines, the answers of peers, and the instructions XRESV, XDISP and XCOMB (R403,
R530, R557 to R560, R570 to R573). -/

namespace Sys2Proof.Machine

/-- A status word of an XSC instruction (R570). -/
def xStatus (c : Nat) : Word := BitVec.ofNat 64 (c * 2 ^ 56)

/-! ### Permits (R557 to R559) -/

def State.permit (s : State) (die e : Nat) : Option Permit := Tbl.get none (s.xchOf die).permits e

def State.setPermit (s : State) (die e : Nat) (p : Permit) : State :=
  s.modXch die fun x => { x with permits := Tbl.set none x.permits e (some p) }

/-- The status of a permit request or a dispatch goes back to whoever asked (R560, R570; log entry 20). -/
def State.tellStatus (s : State) (org : Origin) (w : Word) : State :=
  match org with
  | .task g k => s.fillPart g k w
  | .xamo _ => s
  | .peer die src seq => s.send die 0x17 4 src (seq.setWidth 64) 0 (leBytes w.toNat 8) .none

/-- Room left of an entry's step. -/
def Permit.room (p : Permit) : Nat := p.cap - (p.grants.map (·.2.2)).sum

/-- R558: min(count, room left), from the sum of the grants before it on. -/
def Permit.grant (p : Permit) (dev count : Nat) : Nat × Nat × Permit :=
  let n := min count p.room
  let b := (p.grants.map (·.2.2)).sum
  (n, b, { p with grants := p.grants ++ [(dev, b, n)] })

/-- The result of a granted request (R571). -/
def grantWord (count n b : Nat) (late : Bool) : Word :=
  BitVec.ofNat 64 (n % 2 ^ 16 + b % 2 ^ 16 * 2 ^ 16 + (if n < count then 2 ^ 32 else 0) + (if late then 2 ^ 33 else 0))

/-- Requests in ascending source device. -/
def insertReq (r : PermitReq) : List PermitReq → List PermitReq
  | [] => [r]
  | x :: l => if r.dev < x.dev then r :: x :: l else x :: insertReq r l

/-- Grants are made to each in turn. -/
def State.grantAll (s : State) (p : Permit) : List PermitReq → Permit × State
  | [] => (p, s)
  | r :: l =>
    let (n, b, p) := p.grant r.dev r.count
    (s.tellStatus r.org (grantWord r.count n b false)).grantAll p l

/-- R558: the gathering ends: grants in ascending source device. -/
def State.closePermit (s : State) (die e : Nat) (p : Permit) : State :=
  let (p', s) := s.grantAll p (p.gathered.foldl (fun l r => insertReq r l) [])
  s.setPermit die e { p' with gathered := [], closed := true }

/-- R558: a request reaches an entry. -/
def State.permitRequest (s : State) (die e : Nat) (r : PermitReq) : State :=
  match s.permit die e with
  | none => s.tellStatus r.org (xStatus 1)
  | some p =>
    if idBefore r.step p.step then s.tellStatus r.org (xStatus 2)
    else if r.step ≠ p.step then
      (if p.waiting.length < 64 then s.setPermit die e { p with waiting := p.waiting ++ [r] } else s.tellStatus r.org (xStatus 5))
    else if p.gathered.any (fun x => x.dev = r.dev) || p.grants.any (fun x => x.1 = r.dev) then s.tellStatus r.org (xStatus 3)
    else if p.closed then
      let (n, b, p) := p.grant r.dev r.count
      (s.setPermit die e p).tellStatus r.org (grantWord r.count n b true)
    else
      let p := { p with gathered := p.gathered ++ [r], since := some (p.since.getD s.dcc) }
      if p.nsend ≤ p.gathered.length then s.closePermit die e p else s.setPermit die e p

/-- R571, configure: the entry is replaced; requests of the old one receive EXPIRED. -/
def State.permitConfigure (s : State) (die e : Nat) (p : Permit) : State :=
  let old := match s.permit die e with
    | none => []
    | some q => q.gathered ++ q.waiting
  old.foldl (fun s r => s.tellStatus r.org (xStatus 2)) (s.setPermit die e p)

/-- R559, R571, end: the result, and the entry at its next step. -/
def State.permitEnd (s : State) (die e : Nat) : Word × State :=
  match s.permit die e with
  | none => (xStatus 1, s)
  | some p =>
    let s := if p.closed then s else s.closePermit die e p
    let p := (s.permit die e).getD p
    let w : Word := BitVec.ofNat 64 ((p.grants.map (·.2.2)).sum % 2 ^ 16 + p.used % 2 ^ 16 * 2 ^ 16)
    let step := p.step + 1
    let now := p.waiting.filter fun r => r.step = step
    let s := s.setPermit die e { p with step := step, since := none, gathered := [], closed := false, grants := [], used := 0,
                                        waiting := p.waiting.filter fun r => r.step ≠ step }
    (w, now.foldl (fun s r => s.permitRequest die e r) s)

/-- R558: the window of an entry has passed. -/
def execPermitWindowExpiry (die e : Nat) (s : State) : Out :=
  .next (match s.permit (die % 4) e with
  | none => s
  | some p =>
    match p.since with
    | none => s
    | some t => if p.win ≠ 0 && !p.closed && p.win ≤ s.dcc - t then s.closePermit (die % 4) e p else s)

/-! ### Dispatches (R559, R572) -/

/-- What a dispatch packet says of itself. -/
structure Dispatch where
  dev : Nat
  expert : Nat
  die : Nat
  step : BitVec 32
  base : Nat
  n : Nat
  rce : Bool
  rcn : Nat
  deriving DecidableEq, Repr

/-- R559: is the dispatch accepted? Its status where it is not. -/
def Permit.admits (p : Permit) (d : Dispatch) : Nat :=
  if d.step ≠ p.step then 2
  else if p.grants.any fun x => x.1 = d.dev && x.2.1 ≤ d.base && d.base + d.n ≤ x.2.1 + x.2.2 then 0
  else 7

/-- May a peer's write go to a physical range (R548)? -/
def peerRange (pa n : Nat) : Bool :=
  (windowOf pa = .hbm || windowOf pa = .tile) && (n = 0 || windowOf (pa + n - 1) = windowOf pa)

/-- The pieces of a packet are written: false where one could not be. -/
def State.writePieces (s : State) : List (Nat × List Byte) → Bool × State
  | [] => (true, s)
  | (pa, bs) :: r =>
    let (ok, s) := if bs.isEmpty then (true, s)
      else if !peerRange pa bs.length then (false, s)
      else s.performBytes 0 none (lineRuns pa bs.length (bs.length / 128 + 2)) bs.length (leNat bs)
    let (ok', s) := s.writePieces r
    (ok && ok', s)

/-- R559, R572: the receiver of a dispatch: its status. -/
def State.dispatchPerform (s : State) (d : Dispatch) (pieces : List (Nat × List Byte)) : Nat × State :=
  match s.permit (d.die % 4) d.expert with
  | none => (1, s)
  | some p =>
    if p.admits d ≠ 0 then (p.admits d, s)
    else
      let s := s.setPermit (d.die % 4) d.expert { p with used := p.used + d.n }
      let (ok, s) := s.writePieces pieces
      if ok then (0, if d.rce then s.credit d.rcn 1 else s) else (9, s)

/-- The pieces of a packet as its payload carries them, after three words of its own (log entry 20). -/
def packPieces (ps : List (Nat × List Byte)) : List Byte :=
  (ps.map fun p => leBytes p.1 8 ++ leBytes p.2.length 8 ++ p.2).flatten

/-- The payload of a dispatch packet. -/
def packDispatch (d : Dispatch) (ps : List (Nat × List Byte)) : List Byte :=
  leBytes (d.expert + d.die * 2 ^ 16 + d.n * 2 ^ 32) 8 ++ leBytes (d.step.toNat + d.base * 2 ^ 32) 8 ++ leBytes ps.length 8 ++ packPieces ps

/-- The pieces read back (fuel: how many). -/
def unpackPieces : Nat → List Byte → List (Nat × List Byte)
  | 0, _ => []
  | n + 1, bs =>
    let len := leNat ((bs.drop 8).take 8)
    (leNat (bs.take 8), (bs.drop 16).take len) :: unpackPieces n (bs.drop (16 + len))

/-- A dispatch packet as its receiver reads it. -/
def unpackDispatch (m : Msg) : Dispatch × List (Nat × List Byte) :=
  let w (i : Nat) : Word := BitVec.ofNat 64 (leNat ((m.payload.drop (8 * i)).take 8))
  ({ dev := m.src.toNat, expert := Word.field (w 0) 0 16, die := Word.field (w 0) 16 16, n := Word.field (w 0) 32 32,
     step := (w 1).setWidth 32, base := Word.field (w 1) 32 32, rce := m.w3.getLsbD 14, rcn := Word.field m.w3 0 14 },
   unpackPieces (leNat ((m.payload.drop 16).take 8)) (m.payload.drop 24))

/-- The operation is done with a status for its instruction. -/
def State.xscDone (s : State) (o : XOp) (w : Word) : State := (s.dropOp o.id).fillPart o.g 0 w

/-- The rows of a dispatch, one after another, by the tokens of its records. -/
def State.dispRows (s : State) (o : XOp) (srb : Word) (rowb : Nat) : List Nat → Except Raised (List (List Byte)) × State
  | [] => (.ok [], s)
  | t :: r =>
    match s.xRead o.die o.g (srb + BitVec.ofNat 64 (t * rowb)) rowb with
    | (.error e, s) => (.error e, s)
    | (.ok v, s) =>
      match s.dispRows o srb rowb r with
      | (.error e, s) => (.error e, s)
      | (.ok l, s) => (.ok (leBytes v rowb :: l), s)

/-- Bytes cut along pages. -/
def cutPieces : List Seg → List Byte → List (Nat × List Byte)
  | [], _ => []
  | x :: r, bs => (x.pa, bs.take x.n) :: cutPieces r (bs.drop x.n)

/-- R572: the destination of a dispatch: its device, and the pages of its rows and records. -/
def State.dispPages (s : State) (o : XOp) (dva dra : Word) (lenR lenM : Nat) : Except Raised (Option Nat × List Seg × List Seg) × State :=
  match s.xSegs o.die o.g .store dva (max 1 lenR) with
  | (.error r, s) => (.error r, s)
  | (.ok l, s) =>
    match if lenM = 0 then (.ok [], s) else s.xSegs o.die o.g .store dra lenM with
    | (.error r, s) => (.error r, s)
    | (.ok m, s) =>
      match oneDevice (l ++ m) with
      | none => (.error (deviceAlign .store (l ++ m)), s)
      | some none =>
        match (l ++ m).find? fun x => !x.plain with
        | some x => (.error (accessFault .store 8 x.va cPERM), s)
        | none => (.ok (none, l, m), s)
      | some d => (.ok (d, l, m), s)

/-- R572: the dispatch of the bin at `hdr`; a fault leaves it waiting for firmware, and a resume repeats it. -/
def State.runDisp (s : State) (o : XOp) (hdr : Word) (ws : List Word) : State :=
  let w (i : Nat) : Word := (ws[i]?).getD 0
  let rowb := Word.field (w 3) 0 16
  let base := Word.field (w 3) 16 16
  match s.xLocal o.die o.g .load hdr 8 with
  | (.error r, s) => s.xFault o r
  | (.ok l, s) =>
    let pa := (l.head?.map (·.pa)).getD 0
    if windowOf pa ≠ .tile || paDie pa ≠ o.die then s.xFault o (accessFault .load 8 hdr cPERM)
    else match s.xRead o.die o.g hdr 8 with
      | (.error r, s) => s.xFault o r
      | (.ok h, s) =>
        let n := h % 2 ^ 16
        if 65536 < n * rowb then s.xscDone o (xStatus 8)
        else match s.xRead o.die o.g (hdr + 16) (16 * n) with
          | (.error r, s) => s.xFault o r
          | (.ok recs, s) =>
            match s.dispRows o (w 0) rowb ((List.range n).map fun i => recs / 2 ^ (128 * i) % 2 ^ 32) with
            | (.error r, s) => s.xFault o r
            | (.ok rows, s) =>
              let own := s.ownDev.getD 0
              let out := ((List.range n).map fun i =>
                let r := recs / 2 ^ (128 * i) % 2 ^ 128
                leBytes (r - r / 2 ^ 96 % 2 ^ 12 * 2 ^ 96 + own * 2 ^ 96) 16).flatten
              match s.dispPages o (w 1 + BitVec.ofNat 64 (base * rowb)) (w 2 + BitVec.ofNat 64 (16 * base)) (n * rowb) (16 * n) with
              | (.error r, s) => s.xFault o r
              | (.ok (dev, l, m), s) =>
                let d : Dispatch :=
                  { dev := own, expert := Word.field (w 3) 32 10, die := Word.field (w 4) 32 2, step := (w 4).setWidth 32,
                    base := base, n := n, rce := (w 3).getLsbD 42, rcn := Word.field (w 3) 43 14 }
                let ps := if n = 0 then [] else cutPieces l rows.flatten ++ cutPieces m out
                match dev with
                | none => let (st, s) := s.dispatchPerform d ps; s.xscDone o (xStatus st)
                | some dv =>
                  (s.dropOp o.id).send o.die 0x18 3 dv (BitVec.ofNat 64 ((l.head?.map (·.pa)).getD 0))
                    (BitVec.ofNat 64 (d.rcn + (if d.rce then 2 ^ 14 else 0) + 2 ^ 15)) (packDispatch d ps) (.disp o.g)

/-! ### Combines (R573) -/

/-- N of a combine descriptor. -/
def combCount (ws : List Word) : Nat := Word.field ((ws[1]?).getD 0) 0 32

/-- An entry of a combine list. -/
structure CombEntry where
  i : Nat
  token : Nat
  expert : Nat
  v : Bool
  weight : Nat
  slot : Nat
  deriving DecidableEq, Repr

/-- Entry `i` of the list. -/
def State.combEntry (s : State) (o : XOp) (ws : List Word) (i : Nat) : Except Raised CombEntry × State :=
  match s.xRead o.die o.g ((ws[0]?).getD 0 + BitVec.ofNat 64 (16 * i)) 16 with
  | (.error r, s) => (.error r, s)
  | (.ok x, s) =>
    (.ok { i := i, token := x % 2 ^ 32, expert := x / 2 ^ 32 % 2 ^ 10, v := x.testBit 63, weight := x / 2 ^ 64 % 2 ^ 32,
           slot := x / 2 ^ 96 % 2 ^ 16 }, s)

/-- The maximal run of entries of one token from entry `i` on (fuel: the entries left). -/
def State.combRun (s : State) (o : XOp) (ws : List Word) (tok : Option Nat) (i : Nat) : Nat → Except Raised (List CombEntry) × State
  | 0 => (.ok [], s)
  | n + 1 =>
    match s.combEntry o ws i with
    | (.error r, s) => (.error r, s)
    | (.ok e, s) =>
      if tok.isSome && tok ≠ some e.token then (.ok [], s)
      else match s.combRun o ws (some e.token) (i + 1) n with
        | (.error r, s) => (.error r, s)
        | (.ok l, s) => (.ok (e :: l), s)

/-- The key of a part of an entry's row in an operation's data. -/
def combKey (i off : Nat) : Nat := i * 2 ^ 24 + off

/-- The parts of a row, each with its offset. -/
def segOffsets : Nat → List Seg → List (Nat × Seg)
  | _, [] => []
  | k, x :: r => (k, x) :: segOffsets (k + x.n) r

/-- The row of an entry: read, or the requests that it still needs. -/
def State.combRow (s : State) (o : XOp) (ws : List Word) (e : CombEntry) : Except Raised (Nat ⊕ (Nat × List (Nat × Seg))) × State :=
  let w (i : Nat) : Word := (ws[i]?).getD 0
  let len := Word.field (w 4) 0 16 * fmtBits (Word.field (w 4) 16 4) / 8
  match s.xRead o.die o.g (w 2 + BitVec.ofNat 64 (8 * e.expert)) 8 with
  | (.error r, s) => (.error r, s)
  | (.ok b, s) =>
    let va := BitVec.ofNat 64 b + BitVec.ofNat 64 (e.slot * len)
    match s.xSegs o.die o.g .load va len with
    | (.error r, s) => (.error r, s)
    | (.ok l, s) =>
      match oneDevice l with
      | none => (.error (deviceAlign .load l), s)
      | some none =>
        match s.xRead o.die o.g va len with
        | (.error r, s) => (.error r, s)
        | (.ok v, s) => (.ok (.inl v), s)
      | some (some dev) =>
        let ps := segOffsets 0 l
        let got (k : Nat) : Option (List Byte) := (o.data.find? fun d => d.1 = combKey e.i k).map (·.2)
        if ps.all fun p => (got p.1).isSome then (.ok (.inl (leNat ((ps.map fun p => (got p.1).getD []).flatten))), s)
        else (.ok (.inr (dev, ps)), s)

/-- The rows of a run with their weights, and the requests still needed. -/
def State.combRows (s : State) (o : XOp) (ws : List Word) :
    List CombEntry → Except Raised (List (Nat × Nat) × List (Nat × Nat × Nat × Seg)) × State
  | [] => (.ok ([], []), s)
  | e :: r =>
    if !e.v then s.combRows o ws r
    else match s.combRow o ws e with
      | (.error x, s) => (.error x, s)
      | (.ok row, s) =>
        match s.combRows o ws r with
        | (.error x, s) => (.error x, s)
        | (.ok (vs, qs), s) =>
          match row with
          | .inl v => (.ok ((e.weight, v) :: vs, qs), s)
          | .inr (dev, ps) => (.ok (vs, ps.map (fun p => (dev, combKey e.i p.1, p.1, p.2)) ++ qs), s)

/-- R573: one column of a run: weights times elements, added in list order, rounded at each step. -/
def combColumn (ifmt c : Nat) (rows : List (Nat × Nat)) : Nat :=
  rows.foldl (fun acc r =>
    (fFma (floatFmt 2) 0 (fDecode (floatFmt 2) r.1)
      (fDecode (floatFmt ifmt) (r.2 / 2 ^ (c * fmtBits ifmt) % 2 ^ fmtBits ifmt)) (fDecode (floatFmt 2) acc)).bits) 0

/-- The output row of a run. -/
def combOut (ifmt ofmt : Nat) (rows : List (Nat × Nat)) : Nat → Nat
  | 0 => 0
  | c + 1 =>
    combOut ifmt ofmt rows c +
      (fConvert (floatFmt ofmt) 0 false (fDecode (floatFmt 2) (combColumn ifmt c rows))).bits * 2 ^ (c * fmtBits ofmt)

/-- R573: the combine goes on from entry `o.next`: run by run, waiting where rows of peers have not come (fuel: the
entries). -/
def State.runComb (s : State) (o : XOp) (ws : List Word) : Nat → State
  | 0 => s.putOp o
  | n + 1 =>
    let w (i : Nat) : Word := (ws[i]?).getD 0
    if combCount ws ≤ o.next then s.xscDone o 0
    else match s.combRun o ws none o.next (combCount ws - o.next) with
      | (.error r, s) => s.xFault o r
      | (.ok run, s) =>
        match s.combRows o ws run with
        | (.error r, s) => s.xFault o r
        | (.ok (rows, qs), s) =>
          if !qs.isEmpty then
            qs.foldl (fun s q => s.send o.die 0x13 3 q.1 (BitVec.ofNat 64 q.2.2.2.pa) (BitVec.ofNat 64 q.2.2.2.n) []
                (.get o.id q.2.1 q.2.2.2.va q.2.2.2.n))
              (s.putOp { o with peers := [{ left := qs.length }], data := [] })
          else
            let cols := Word.field (w 4) 0 16
            let ofmt := Word.field (w 4) 20 4
            let tok := (run.head?.map (·.token)).getD 0
            let dst := w 3 + (BitVec.ofNat 64 tok - BitVec.ofNat 64 (Word.field (w 4) 32 32)) * w 5
            match s.xWrite o.die o.g dst (cols * fmtBits ofmt / 8) (combOut (Word.field (w 4) 16 4) ofmt rows cols) with
            | (.error r, s) => s.xFault o r
            | (.ok _, s) => s.runComb { o with next := o.next + run.length, data := [], peers := [] } ws n

/-! ### Answers of peers (R322, R403, R404, R530, R548) -/

/-- MEMUE for an access to a failed device (R530). -/
def failedDetail (dev : Nat) : Word := BitVec.ofNat 64 (0xFFFF * 2 ^ 48 + dev)

/-- One message of a put or get is answered: `bad` where it failed. -/
def State.peerAnswered (s : State) (id j : Nat) (bad : Bool) : State :=
  match s.xop id with
  | none => s
  | some o =>
    let p := (o.peers[j]?).getD {}
    (s.putOp { o with peers := o.peers.set j { left := p.left - 1, failed := p.failed || bad } }).noteDone id

/-- A remote store of a task has failed: the next release of the task raises the fault (R530). -/
def State.storeFailed (s : State) (g : Gtid) (detail va : Word) : State :=
  s.modTask g fun t => { t with remoteFail := t.remoteFail <|> some (detail, va) }

/-- One answer to the requests of a combine less. -/
def XOp.combGot (o : XOp) : XOp := { o with peers := [{ left := ((o.peers.head?.map (·.left)).getD 1) - 1 }] }

/-- Are no answers to the requests of a combine outstanding? -/
def XOp.combIdle (o : XOp) : Bool := o.peers.all fun p => p.left = 0

/-- What a peer's answer does for the one who asked. -/
def State.act (s : State) (dev : Nat) (why : Purpose) (a : Answer) : State :=
  let val (m : Msg) : Word := BitVec.ofNat 64 (leNat (m.payload.take 8))
  match why with
  | .none => s
  | .part g k =>
    match a with
    | .reply m => if m.w3 = 0 then s.fillPart g k (val m) else s.failAccess g k m.w3.toNat (val m)
    | .acked => s.fillPart g k 0
    | .failed => s.failAccess g k cMEMUE (failedDetail dev)
    | .bad => let (y, s) := s.drawFree; s.failAccess g k cMEMUE y
  | .store g va =>
    let s := s.modTask g fun t => { t with remoteOut := Tbl.set 0 t.remoteOut dev (Tbl.get 0 t.remoteOut dev - 1) }
    match a with
    | .acked => s
    | .reply m => if m.w3 = 0 then s else s.storeFailed g (val m) va
    | .failed => s.storeFailed g (failedDetail dev) va
    | .bad => let (y, s) := s.drawFree; s.storeFailed g y va
  | .put id j => s.peerAnswered id j (a ≠ .acked)
  | .get id k va n =>
    match s.xop id, a with
    | some o, .reply m =>
      match o.kind with
      | .get dsp =>
        if m.w3 ≠ 0 then s.xFault { o with lost := o.lost ++ [(k, n)] } { unit := 8, code := m.w3.toNat, va := va, detail := val m }
        else
          let o := { o with data := o.data ++ [(k, m.payload)] }
          if o.stuck then (s.putOp o).peerAnswered id 0 false
          else (s.flushGet o dsp o.data).peerAnswered id 0 false
      | .comb ws =>
        let o := o.combGot
        if m.w3 ≠ 0 then s.xFault o { unit := 8, code := m.w3.toNat, va := va, detail := val m }
        else
          let o := { o with data := o.data ++ [(k, m.payload)] }
          if o.combIdle && !o.stuck then s.runComb o ws (combCount ws + 1) else s.putOp o
      | _ => s
    | some o, _ =>
      match o.kind with
      | .comb _ => (s.dropOp id).fillPart o.g 0 (xStatus 4)
      | _ => s.peerAnswered id 0 true
    | none, _ => s
  | .xamo id =>
    match s.xop id, a with
    | some o, .reply m =>
      match o.kind with
      | .amo _ _ _ _ d => if m.w3 = 0 then s.amoDone o d (val m) else s.xFault o { unit := 8, code := m.w3.toNat, write := true, va := o.send.dva, detail := val m }
      | _ => s
    | some o, _ => s.xFault o { unit := 8, code := cMEMUE, write := true, va := o.send.dva, detail := failedDetail dev }
    | none, _ => s
  | .permit g =>
    match a with
    | .reply m => s.fillPart g 0 (val m)
    | _ => s.fillPart g 0 (xStatus 4)
  | .disp g =>
    match a with
    | .reply m => s.fillPart g 0 (val m)
    | .bad => s.fillPart g 0 (xStatus 9)
    | _ => s.fillPart g 0 (xStatus 4)
  | .flush _ => s

/-- Every answer noted is acted on (fuel: the answers). -/
def State.settleAll (s : State) : Nat → State
  | 0 => s
  | n + 1 =>
    match s.fab.answers with
    | [] => s
    | (dev, why, a) :: r => ({ s with fab := { s.fab with answers := r } }.act dev why a).settleAll n

def State.settle (s : State) : State := s.settleAll (4 * s.fab.answers.length + 8)

/-! ### XRESV, XDISP, XCOMB (R570 to R573) -/

/-- The task waits for the status of an XSC instruction (R570). -/
def State.awaitStatus (s : State) (i : Instr) (d : BitVec 6) : State :=
  (s.modCurTask fun t => { t with got := [] }).await i (.int d 8 false) [8] false 0 false (if s.onBc then .reply else .status)

/-- R570, R571: XRESV request. -/
def execXresv (f : FmtA) (s : State) : Out :=
  s.guarded f.g fun s => s.release (.xresv f) none fun s =>
    let a := s.rdInt f.sa
    let b := s.rdInt f.sb
    let g := s.curGtid
    let die := (s.task g).die
    let dev := Word.field a 10 12
    let e := Word.field a 0 10
    let req (org : Origin) : PermitReq := { org := org, dev := s.ownDev.getD 0, count := Word.field a 24 16, step := b.setWidth 32 }
    if Word.field a 40 24 ≠ 0 || Word.field b 32 32 ≠ 0 then s.statusTo (.xresv f) f.d (xStatus 6)
    else
      let s := s.awaitStatus (.xresv f) f.d
      if s.ownDev = some dev then s.permitRequest (Word.field a 22 2) e (req (.task g 0))
      else (s.send die 0x16 3 dev (BitVec.ofNat 64 (e + Word.field a 22 2 * 2 ^ 10 + Word.field a 24 16 * 2 ^ 16)) b [] (.permit g)).settle

/-- R571: XRESV configure. -/
def execXresvCfg (f : FmtA) (s : State) : Out :=
  s.guarded f.g fun s => s.release (.xresvCfg f) none fun s =>
    let a := s.rdInt f.sa
    let b := s.rdInt f.sb
    if Word.field a 38 26 ≠ 0 || Word.field a 26 12 = 0 then s.statusTo (.xresvCfg f) f.d (xStatus 6)
    else
      let p : Permit := { cap := Word.field a 10 16, nsend := Word.field a 26 12, win := BitVec.ofNat 64 (Word.field b 32 32),
                          step := b.setWidth 32 }
      (s.permitConfigure (s.task s.curGtid).die (Word.field a 0 10) p).statusTo (.xresvCfg f) f.d 0

/-- R559, R571: XRESV end. -/
def execXresvEnd (f : FmtA) (s : State) : Out :=
  s.guarded f.g fun s => s.release (.xresvEnd f) none fun s =>
    let a := s.rdInt f.sa
    if Word.field a 10 54 ≠ 0 then s.statusTo (.xresvEnd f) f.d (xStatus 6)
    else
      let (w, s) := s.permitEnd (s.task s.curGtid).die (Word.field a 0 10)
      s.statusTo (.xresvEnd f) f.d w

/-- R570: a descriptor of `n` words is read by loads of the executing unit. -/
def State.readDesc (s : State) (i : Instr) (va : Word) (n : Nat) (h : State → List Word → State) : State :=
  s.readWords i va 8 n fun s v => h s ((List.range n).map fun i => BitVec.ofNat 64 (v / 2 ^ (64 * i)))

/-- R572: is a field of a dispatch descriptor out of range? -/
def dispBad (ws : List Word) : Bool :=
  let w (i : Nat) : Word := (ws[i]?).getD 0
  let rowb := Word.field (w 3) 0 16
  Word.field (w 3) 57 7 ≠ 0 || Word.field (w 4) 34 30 ≠ 0 || w 5 ≠ 0 || w 6 ≠ 0 || w 7 ≠ 0 || rowb < 8 || 8192 < rowb || rowb % 8 ≠ 0

/-- R572. -/
def execXdisp (f : FmtA) (s : State) : Out :=
  s.guarded f.g fun s => s.release (.xdisp f) none fun s =>
    let hdr := s.rdInt f.sa
    let da := s.rdInt f.sb
    s.aligned da 64 false fun s => s.aligned hdr 16 false fun s =>
      s.readDesc (.xdisp f) da 8 fun s ws =>
        if dispBad ws then s.statusTo (.xdisp f) f.d (xStatus 6)
        else
          let g := s.curGtid
          let s := s.awaitStatus (.xdisp f) f.d
          let (o, s) := s.newOp (s.task g).die g 0 (.disp hdr ws) {} s.curAddr .xsc
          (s.runDisp o hdr ws).settle

/-- R573: is a field of a combine descriptor out of range? -/
def combBad (ws : List Word) : Bool :=
  let w (i : Nat) : Word := (ws[i]?).getD 0
  let ok (c : Nat) : Bool := 1 ≤ c && c ≤ 4
  let cols := Word.field (w 4) 0 16
  cols = 0 || 4096 < cols || !ok (Word.field (w 4) 16 4) || !ok (Word.field (w 4) 20 4) || Word.field (w 4) 24 8 ≠ 0 || w 6 ≠ 0 || w 7 ≠ 0

/-- R573. -/
def execXcomb (f : FmtA) (s : State) : Out :=
  s.guarded f.g fun s => s.release (.xcomb f) none fun s =>
    let da := s.rdInt f.sa
    s.aligned da 64 false fun s =>
      s.readDesc (.xcomb f) da 8 fun s ws =>
        if combBad ws then s.statusTo (.xcomb f) f.d (xStatus 6)
        else
          let g := s.curGtid
          let s := s.awaitStatus (.xcomb f) f.d
          let (o, s) := s.newOp (s.task g).die g 0 (.comb ws) {} s.curAddr .xsc
          (s.runComb o ws (combCount ws + 1)).settle

end Sys2Proof.Machine
end

