-- ==== Sys2Proof/Machine/Collator.lean ====
section
/-! DEFINITION. The Collator of a die, the expert residency registers and the hint queue (R337, R426 to R446). -/

namespace Sys2Proof.Machine

def State.collOf (s : State) (die : Nat) : Collator := Tbl.get {} s.coll die
def State.setColl (s : State) (die : Nat) (c : Collator) : State := { s with coll := Tbl.set {} s.coll die c }
def State.modColl (s : State) (die : Nat) (h : Collator → Collator) : State := s.setColl die (h (s.collOf die))

/-! ### Scores to weights (R432 to R434) -/

/-- R432: cl(y), and whether it changed y. -/
def clampScore (y : Nat) : Nat × Bool :=
  match fDecode (floatFmt 2) y with
  | .nan _ => (0xFF7FFFFF, true)
  | .inf n => ((floatFmt 2).maxBits n, true)
  | .fin .. => (y, false)

/-- A ranked expert: its index, its selection score and its weight score (R432). -/
structure Scored where
  e : Nat
  s : Nat
  g : Nat

/-- R432: an expert's scores, and whether a value was clamped. -/
def scoreOf (wb : Bool) (e score bias : Nat) : Scored × Bool :=
  let (x, c1) := clampScore score
  let (y, c2) := clampScore (fAdd (floatFmt 2) 0 (fDecode (floatFmt 2) x) (fDecode (floatFmt 2) bias)).bits
  ({ e := e, s := y, g := if wb then y else x }, c1 || c2)

def valLess (x y : Nat) : Bool := fCompare (fDecode (floatFmt 2) x) (fDecode (floatFmt 2) y) = some .lt

/-- R433: an expert takes its place behind those of an equal or greater score. -/
def insertScored (x : Scored) : List Scored → List Scored
  | [] => [x]
  | y :: l => if valLess y.s x.s then x :: y :: l else y :: insertScored x l

def rankScored (l : List Scored) : List Scored := l.foldl (fun r x => insertScored x r) []

/-- R434: e^(g - m), rounded once; an alternate's g may exceed m. -/
def softExp (g m : Nat) : Nat :=
  match addVal (fDecode (floatFmt 2) m) (fDecode (floatFmt 2) g).neg with
  | .fin up k e =>
    let (p, q) := dyFrac k e
    if p = 0 then (roundRat (floatFmt 2) 0 false false 1 1 false).bits
    else if 2048 * q < p then
      (if up then roundRat (floatFmt 2) 0 false false (2 ^ 2900) 1 true else roundRat (floatFmt 2) 0 false false 1 (2 ^ 2900) true).bits
    else
      let (u, n) := expNeg funPlaces p q
      let one := 2 ^ (funPlaces + n)
      (if up then roundRat (floatFmt 2) 0 false false one u true else roundRat (floatFmt 2) 0 false false u one true).bits
  | _ => 0

def fDivBits (a b : Nat) : Nat := (fDiv (floatFmt 2) 0 (fDecode (floatFmt 2) a) (fDecode (floatFmt 2) b)).bits

def treeSum (l : List Nat) : Nat :=
  (treeReduce (fun a b => fAdd (floatFmt 2) 0 (fDecode (floatFmt 2) a) (fDecode (floatFmt 2) b)) l.length l).1

def greatest (l : List Nat) : Nat := l.foldl (fun m g => if valLess m g then g else m) (l.headD 0)

def sigBits (g : Nat) : Nat := (fSig (floatFmt 2) 0 (fDecode (floatFmt 2) g)).bits

/-- R434: the weights of the ranked experts, and whether the token carries ZW; `all` in ascending expert index. -/
def weightsOf (mode k : Nat) (all ranked : List Scored) : List Nat × Bool :=
  match mode with
  | 0 =>
    let m := greatest (all.map (·.g))
    let d := treeSum (all.map fun x => softExp x.g m)
    (ranked.map fun x => fDivBits (softExp x.g m) d, false)
  | 1 =>
    let sel := ranked.take k
    let m := greatest (sel.map (·.g))
    let d := treeSum (sel.map fun x => softExp x.g m)
    (ranked.map fun x => fDivBits (softExp x.g m) d, false)
  | 2 => (ranked.map fun x => sigBits x.g, false)
  | _ =>
    let d := treeSum ((ranked.take k).map fun x => sigBits x.g)
    if d = 0 then (ranked.map fun _ => 0, true) else (ranked.map fun x => fDivBits (sigBits x.g) d, false)

/-! ### Records (R337, R435, R436) -/

/-- R436: the place of the records of token `t`. -/
def Route.place (r : Route) (t : Nat) : Word :=
  let bcs := (List.range 16).filter fun n => r.mask.testBit n
  let i := t - r.t0
  let j := i / 2 ^ r.lb
  let q := bcs.length
  let slot := j / q * 2 ^ r.lb + i % 2 ^ r.lb
  (r.rbase[(bcs[j % q]?).getD 0]?).getD 0 + BitVec.ofNat 64 (slot * (16 * (r.k + r.a)))

/-- Cycles of a pass over the experts, 32 in each (R438). -/
def Route.passes (r : Route) : Nat := (r.e + 31) / 32

/-- The records of a complete token, in ascending rank, one a cycle from cycle `at0` on (R438). -/
def Route.records (r : Route) (t : Token) (at0 : Nat) : List Record :=
  let sc := (List.range r.e).map fun e => scoreOf r.wb e (Tbl.get 0 t.scores e).toNat ((r.bias[e]?).getD 0).toNat
  let clamp := sc.any (·.2)
  let all := sc.map (·.1)
  let n := r.k + r.a
  let ranked := (rankScored all).take n
  let (ws, zw) := weightsOf r.mode r.k all ranked
  (List.range n).map fun i =>
    let flags := (if r.k ≤ i then 1 else 0) + (if clamp then 2 else 0) + (if zw then 4 else 0) + (if i + 1 = n then 8 else 0)
    { va := r.place t.t + BitVec.ofNat 64 (16 * i),
      w0 := BitVec.ofNat 64 (t.t + ((ranked[i]?).map (·.e)).getD 0 * 2 ^ 32 + i * 2 ^ 48 + flags * 2 ^ 56),
      w1 := BitVec.ofNat 64 ((ws[i]?).getD 0), last := i + 1 = n, due := at0 + i }

/-! ### Writes of the Collator (R437, R438) -/

/-- Is the route at its end: every token's records written, or cancelled? -/
def Route.over (r : Route) : Bool := r.cancelled || (r.out.isEmpty && r.emit = r.n)

/-- The pages of a write for a route; tag enable is needed (R437). -/
def State.collPages (s : State) (die : Nat) (r : Route) (va : Word) (n : Nat) : Except Raised (Seg) × State :=
  match s.segsOf (tlbColl die) r.gtid .store 9 r.bit (runsOf va n) with
  | (.error e, s) => (.error e, s)
  | (.ok l, s) =>
    match l with
    | x :: _ => (if pageTag x.w1 then .ok x else .error (accessFault .store 9 va cPERM), s)
    | [] => (.error (accessFault .store 9 va cPERM), s)

/-- The fault of a Collator write: its record names the task of the ROUTE (R437, R580). -/
def State.collRecord (s : State) (die : Nat) (r : Route) (e : Raised) : State :=
  s.keepRecord { s.recordOf r.gtid { e with unit := 9 } 8 0 false with die := die, core := 0, frame := 0, row := none }

/-- R437: a record is written whole: both words, both tags; whether a tag was full. -/
def State.writeRecord (s : State) (die : Nat) (r : Route) (x : Record) : Except Raised Bool × State :=
  match s.collPages die r x.va 16 with
  | (.error e, s) => (.error e, s)
  | (.ok p, s) =>
    if pageRemote p.w1 || windowOf p.pa ≠ .tile || paDie p.pa ≠ die then (.error (accessFault .store 9 x.va cPERM), s)
    else
      let full := s.tag p.pa || s.tag (p.pa + 8)
      let s := (s.homeWrite none p.pa 8 x.w0.toNat).homeWrite none (p.pa + 8) 8 x.w1.toNat
      let s := (s.setTag p.pa true).setTag (p.pa + 8) true
      (.ok full, (s.tagChanged p.pa).tagChanged (p.pa + 8))

/-- R438: the done word, as STFF. -/
def State.writeDone (s : State) (die : Nat) (r : Route) : Except Raised Unit × State :=
  let v : Word := BitVec.ofNat 64 (r.emit + (if r.cancelled then 2 ^ 63 else 0))
  if r.donew = 0 then (.ok (), s)
  else if r.donew.toNat % 8 ≠ 0 then (.error (accessFault .store 9 r.donew cATOMAL), s)
  else
    match s.collPages die r r.donew 8 with
    | (.error e, s) => (.error e, s)
    | (.ok p, s) =>
      if pageRemote p.w1 then
        (.ok (), s.send die 0x04 0 (pageDev p.w1) (BitVec.ofNat 64 p.pa) (BitVec.ofNat 64 (8 + 256 * 19))
          (leBytes v.toNat 8 ++ leBytes 0 8) .none)
      else if windowOf p.pa = .hbm || windowOf p.pa = .tile then
        match s.performReq { org := .peer die 0 0, pa := p.pa, bytes := 8, op := .tagged .stff v, noalloc := pageNoalloc p.w1 } with
        | (some (.ue pa y), s) => (.error { accessFault .store 9 r.donew cMEMUE with detail := memueDetail pa y }, s)
        | (_, s) => (.ok (), s.tagChanged p.pa)
      else (.error (accessFault .store 9 r.donew cPERM), s)

/-- What RSTAT tells of a route that has ended (R440). -/
def Route.ending (r : Route) : RouteEnd := { launch := r.launch, emit := r.emit, disc := r.disc, ovr := r.ovr }

/-- R438: the active route ends: its done word, then the Collator is free. -/
def State.endRoute (s : State) (die : Nat) : State :=
  match (s.collOf die).active with
  | none => s
  | some r =>
    if !r.over || r.fault then s
    else match s.writeDone die r with
      | (.error e, s) => (s.collRecord die r e).modColl die fun c => { c with active := some { r with fault := true } }
      | (.ok _, s) => s.modColl die fun c => { c with active := none, ended := some r.ending }

/-- The done words of saved routes that were cancelled. -/
def State.endSaved (s : State) (die : Nat) : State :=
  match (s.collOf die).saved.find? fun r => r.cancelled && !r.fault with
  | none => s
  | some r =>
    let rest (c : Collator) : List Route := c.saved.filter (· ≠ r)
    match s.writeDone die r with
    | (.error e, s) => (s.collRecord die r e).modColl die fun c => { c with saved := { r with fault := true } :: rest c }
    | (.ok _, s) => s.modColl die fun c => { c with saved := rest c, ended := if c.active.isNone then some r.ending else c.ended }

/-- R438: a route whose tokens are all written, or that was cancelled, ends. -/
def execRouteEnd (die : Nat) (s : State) : Out := .next ((s.endRoute (die % 4)).endSaved (die % 4))

/-- R437, R438: the Collator of a die writes its next record. -/
def State.recordStep (s : State) (die : Nat) : State :=
  match (s.collOf die).active with
  | none => s
  | some r =>
    if r.fault || r.cancelled then s
    else
      match r.out with
      | [] => s
      | x :: rest =>
        match s.writeRecord die r x with
        | (.error e, s) => (s.collRecord die r e).modColl die fun c => { c with active := some { r with fault := true } }
        | (.ok full, s) =>
          s.modColl die fun c =>
            { c with active := some { r with out := rest, ovr := r.ovr || full, emit := if x.last then r.emit + 1 else r.emit } }

/-- Is the next record of a die's active route due (R438)? -/
def State.recordDue (s : State) (die : Nat) : Bool :=
  match (s.collOf die).active with
  | none => false
  | some r => (r.out.head?).any fun x => x.due ≤ s.cycle

/-- R432 to R438. -/
def execCollatorRecordWrite (die : Nat) (s : State) : Out := .next (if s.recordDue (die % 4) then s.recordStep (die % 4) else s)

/-! ### Rows (R430, R431) -/

/-- The row that waits first at a share's port: its index in its instruction, and its scores. -/
def Share.waitingRow (h : Share) : Option (Nat × List (BitVec 32)) :=
  match (h.mxFin ++ h.mxComp.toList).find? fun r => !r.pend.isEmpty with
  | none => none
  | some r => r.pend.head?

/-- The row leaves the port. -/
def Share.dropRow (h : Share) : Share :=
  let cut (r : Running) : Running := { r with pend := r.pend.tail }
  match h.mxFin.findIdx? fun r => !r.pend.isEmpty with
  | some i => { h with mxFin := h.mxFin.mapIdx fun j r => if j = i then cut r else r }
  | none => { h with mxComp := h.mxComp.map cut }

/-- Do two blocks of 32 experts share an expert below `n`? -/
def blocksMeet (n a b : Nat) : Bool := max a b < min n (min a b + 32)

/-- A token is complete in a cycle: its records wait for their times, behind those of the tokens before it (R438). -/
def Route.complete (r : Route) (tok : Token) (cycle : Nat) : Route :=
  let start := max (cycle + r.passes + 16) r.nextTok
  { r with tokens := r.tokens.filter (fun x => x.t ≠ tok.t), out := r.out ++ r.records tok start,
           finished := r.finished ++ [tok.t], nextTok := start + max r.passes (r.k + r.a) }

/-- R430: what the route does with a row: none where it waits, else the route after it. -/
def Route.takeRow (r : Route) (cycle t e0 : Nat) (scores : List (BitVec 32)) : Option Route :=
  let lost : Route := { r with disc := min 0xFFFF (r.disc + 1) }
  if t < r.t0 || r.t0 + r.n ≤ t || r.finished.contains t then some lost
  else
    let tok := (r.tokens.find? fun x => x.t = t).getD { t := t }
    if tok.seen.any fun b => blocksMeet r.e b e0 then some lost
    else if r.e ≤ e0 then some r
    else if tok.seen.isEmpty && 64 ≤ r.tokens.length then none
    else
      let tok := { tok with seen := tok.seen ++ [e0],
                            scores := ((scores.zip (List.range 32)).filter fun x => e0 + x.2 < r.e).foldl
                              (fun m x => Tbl.set 0 m (e0 + x.2) x.1) tok.scores }
      let have' := (tok.seen.map fun b => min 32 (r.e - b)).sum
      if have' = r.e then some (r.complete tok cycle)
      else some { r with tokens := if r.tokens.any (fun x => x.t = t) then r.tokens.map (fun x => if x.t = t then tok else x)
                                   else r.tokens ++ [tok] }

/-- R426, R430, R431: a row that waits at a port is accepted or discarded, one row a cycle of the die. -/
def execCollatorRowAccept (g : Gtid) (c : Nat) (s : State) : Out :=
  let t := s.task g
  .next (if !s.engineOn g c then s
  else
    match (s.collOf t.die).active, (s.share g c).waitingRow with
    | some r, some (i, scores) =>
      if r.fault || r.over || r.launch ≠ t.launch || (s.collOf t.die).rowAt = s.cycle + 1 then s
      else
        let cfg := (s.share g c).port
        match r.takeRow s.cycle (cfg.base.toNat + i) cfg.expert scores with
        | none => s
        | some r => (s.modColl t.die fun k => { k with active := some r, rowAt := s.cycle + 1 }).modShare g c Share.dropRow
    | _, _ => s)

/-! ### ROUTE, CANCEL, RSTAT (R427 to R429, R440) -/

/-- R429: is a route descriptor not valid? -/
def routeBad (ws : List Word) : Bool :=
  let w (i : Nat) : Word := (ws[i]?).getD 0
  let e := Word.field (w 0) 0 11
  let k := Word.field (w 0) 12 4
  let a := Word.field (w 0) 16 2
  let mask := Word.field (w 0) 32 16
  (w 0).getLsbD 11 || Word.field (w 0) 21 3 ≠ 0 || Word.field (w 0) 28 4 ≠ 0 || Word.field (w 0) 48 16 ≠ 0 ||
    ((List.range 4).any fun i => w (4 + i) ≠ 0) ||
    e = 0 || 1024 < e || k = 0 || 8 < k || 2 < a || e < k + a || 12 < Word.field (w 0) 24 4 || mask = 0 ||
    ((List.range 16).any fun n => mask.testBit n && (w (8 + n)).toNat % 16 ≠ 0) ||
    2 ^ 32 < Word.field (w 1) 0 32 + Word.field (w 1) 32 32

/-- The route a descriptor starts. -/
def routeOf (t : Task) (g : Gtid) (ws : List Word) (bias : List (BitVec 32)) : Route :=
  let w (i : Nat) : Word := (ws[i]?).getD 0
  { launch := t.launch, gtid := g, e := Word.field (w 0) 0 11, k := Word.field (w 0) 12 4, a := Word.field (w 0) 16 2,
    mode := Word.field (w 0) 18 2, wb := (w 0).getLsbD 20, lb := Word.field (w 0) 24 4, mask := Word.field (w 0) 32 16,
    t0 := Word.field (w 1) 0 32, n := Word.field (w 1) 32 32, donew := w 3, bit := groupBit t, asid := t.asid, root := t.root,
    rbase := ws.drop 8, bias := bias }

/-- R429: the biases, read as loads of the executing unit; none where the descriptor gives no address. -/
def State.readBias (s : State) (i : Instr) (va : Word) (e : Nat) (h : State → List (BitVec 32) → State) : State :=
  if va = 0 then h s []
  else s.readWords i va 4 e fun s v => h s ((List.range e).map fun i => BitVec.ofNat 32 (v / 2 ^ (32 * i)))

/-- R427 to R429. -/
def execRoute (f : FmtA) (s : State) : Out :=
  s.guarded f.g fun s => s.release (.route f) none fun s =>
    let va := s.rdInt f.sa
    s.aligned va 64 false fun s =>
      s.readDesc (.route f) va 24 fun s ws =>
        let g := s.curGtid
        let t := s.task g
        let c := s.collOf t.die
        if routeBad ws then s.statusTo (.route f) f.d 2
        else if c.active.isSome || c.saved.any (fun r => r.launch = t.launch && !r.cancelled) then s.statusTo (.route f) f.d 1
        else
          s.readBias (.route f) ((ws[2]?).getD 0) (Word.field ((ws[0]?).getD 0) 0 11) fun s bias =>
            let s := s.modColl t.die fun c => { c with active := some (routeOf t g ws bias) }
            (s.endRoute t.die).statusTo (.route f) f.d 0

/-- The rows of a launch that wait at the ports of a die: of tasks bound there, or saved from there (R429, R438). -/
def State.launchPorts (s : State) (die launch : Nat) : List (Gtid × Nat) :=
  let gangs := match Tbl.get none s.sched.launches launch with
    | some l => l.gangs
    | none => []
  let ts := s.tasks.filter fun e =>
    e.2.launch = launch && e.2.isRow &&
      (match e.2.place with
       | .row d _ _ => d = die
       | _ => gangs.any fun x => x.rowsOn.contains (BitVec.ofNat 64 e.1, die))
  (ts.map fun e => (List.range 8).map fun c => (BitVec.ofNat 64 e.1, c)).flatten

/-- R429, R438: those rows are discarded: how many. -/
def State.dropRows (s : State) : List (Gtid × Nat) → Nat × State
  | [] => (0, s)
  | (g, c) :: l =>
    let h := s.share g c
    let n := ((h.mxFin ++ h.mxComp.toList).map fun r => r.pend.length).sum
    let clear (r : Running) : Running := { r with pend := [] }
    let s := if n = 0 then s
      else s.setShare g c (Share.retireFin { h with mxFin := h.mxFin.map clear, mxComp := h.mxComp.map clear })
    let (m, s) := s.dropRows l
    (n + m, s)

/-- R429, R438: a route is cancelled: its buffered tokens and the rows that wait are discarded. -/
def Route.cancel (r : Route) (n : Nat) : Route :=
  { r with cancelled := true, fault := false, tokens := [], out := [], disc := min 0xFFFF (r.disc + n) }

/-- R429, CANCEL. -/
def execRouteCancel (f : FmtA) (s : State) : Out :=
  s.guarded f.g fun s => s.release (.routeCancel f) none fun s =>
    let t := s.task s.curGtid
    let c := s.collOf t.die
    let mine (r : Route) : Bool := r.launch = t.launch && !r.cancelled
    let rows := s.launchPorts t.die t.launch
    match c.active.filter mine, c.saved.find? mine with
    | some r, _ =>
      let (n, s) := s.dropRows rows
      let s := s.modColl t.die fun c => { c with active := some (r.cancel n) }
      (s.endRoute t.die).statusTo (.routeCancel f) f.d 0
    | none, some r =>
      let (n, s) := s.dropRows rows
      let s := s.modColl t.die fun c => { c with saved := c.saved.map fun x => if x = r then r.cancel n else x }
      (s.endSaved t.die).statusTo (.routeCancel f) f.d 0
    | none, none => s.statusTo (.routeCancel f) f.d 3

/-- R440: the status word. -/
def Collator.status (c : Collator) (launch : Nat) : Word :=
  let word (act fault ovr : Bool) (inbuf disc emit : Nat) : Word :=
    BitVec.ofNat 64 (emit % 2 ^ 32 + disc * 2 ^ 32 + inbuf * 2 ^ 48 + (if ovr then 2 ^ 60 else 0) + (if fault then 2 ^ 61 else 0) +
      2 ^ 62 + (if act then 2 ^ 63 else 0))
  match c.active, c.ended with
  | some r, _ => if r.launch = launch then word true r.fault r.ovr r.tokens.length r.disc r.emit
    else BitVec.ofNat 64 (2 ^ 63 + (if r.fault then 2 ^ 61 else 0))
  | none, some r => if r.launch = launch then word false false r.ovr 0 r.disc r.emit else 0
  | none, none => 0

/-- R427, R440. -/
def execRstat (f : FmtA) (s : State) : Out :=
  s.guarded f.g fun s =>
    let t := s.task s.curGtid
    s.wrInt f.d ((s.collOf t.die).status t.launch)

/-! ### Pre-emption (R439) -/

/-- R439: the records of complete tokens are written, then the route is saved (fuel: the records). -/
def State.drainRoute (s : State) (die : Nat) : Nat → State
  | 0 => s
  | n + 1 =>
    match (s.collOf die).active with
    | none => s
    | some r => if r.out.isEmpty || r.fault then s else (s.recordStep die).drainRoute die n

/-- R439: the route of a launch leaves the Collator with the gang's context. -/
def State.saveRoute (s : State) (die launch : Nat) : State :=
  match (s.collOf die).active with
  | none => s
  | some r =>
    if r.launch ≠ launch then s
    else
      let s := s.drainRoute die (r.out.length + 1)
      match (s.collOf die).active with
      | none => s
      | some r =>
        if r.over then s.endRoute die
        else s.modColl die fun c => { c with active := none, saved := c.saved ++ [r] }

/-- Is a gang of the launch whose route was saved on the die bound again? -/
def State.routeBack (s : State) (die : Nat) (r : Route) : Bool :=
  match Tbl.get none s.sched.launches r.launch with
  | none => false
  | some l => l.gangs.any fun g => g.routeDies.contains die && (g.st = .bound || g.st = .started)

/-- R439: a saved route resumes on its die's free Collator once its gang is restored. -/
def execRouteResume (die : Nat) (s : State) : Out :=
  let die := die % 4
  let c := s.collOf die
  .next (if c.active.isSome then s
  else
    match c.saved.find? fun r => !r.cancelled && s.routeBack die r with
    | none => s
    | some r =>
      let t := s.task r.gtid
      s.setColl die { c with active := some { r with bit := if t.bound then groupBit t else r.bit }, saved := c.saved.filter (· ≠ r) })

/-- R437: the Collators go on with the records of a task that firmware resumes. -/
def State.resumeRoutes (s : State) (g : Gtid) : State :=
  let go (r : Route) : Route := if r.gtid = g then { r with fault := false } else r
  (List.range 4).foldl (fun s d => s.modColl d fun c => { c with active := c.active.map go, saved := c.saved.map go }) s

/-! ### Hints (R446) -/

/-- R446: a hint is appended to the hint ring, or dropped. -/
def execHintPost (die : Nat) (g : Gtid) (w : Word) (s : State) : Out :=
  let die := die % 4
  let rg (o : Nat) : Nat := dieReg die 1 o
  let head := s.reg (rg 0x10010)
  let size := s.reg (rg 0x10008)
  .next (if ringFull head (s.reg (rg 0x10018)) size then s.bumpReg (rg 0x10020)
  else
    let n := (s.collOf die).hintSeq
    let at' := (s.reg (rg 0x10000)).toNat / 32 * 32 + 32 * (head.toNat % size.toNat)
    let s := s.putWords at' [w &&& 0x0000FFFF0FFFFFFF, g, s.dcc, BitVec.ofNat 64 (n % 2 ^ 32)]
    (s.bumpReg (rg 0x10010)).modColl die fun c => { c with hintSeq := n + 1 })

/-! ### Residency (R442, R443) -/

def xresReg (die e i : Nat) : Nat := dieReg die 1 (0x4000 + 16 * e + 8 * i)
def xstageReg (die e i : Nat) : Nat := dieReg die 1 (0x14000 + 16 * e + 8 * i)
def rcommitReg (die : Nat) : Nat := dieReg die 1 0x10080

/-- The number of a die's residency holder among the holders of a line. -/
def resHolder (die : Nat) : Nat := 2 ^ 40 + die

/-- The staged experts of a die. -/
def State.stagedOf (s : State) (die : Nat) : List Nat := (List.range 1024).filter fun e => (s.reg (xstageReg die e 1)).getLsbD 47

/-- RES of the first word of a residency register. -/
def resOf (w : Word) : Nat := Word.field w 62 2

/-- The physical lines of a range of an address space (R143); none for a line that has none to pin. -/
def State.spaceLines (s : State) (k asid root : Nat) (va : Word) : Nat → List (Option Nat) × State
  | 0 => ([], s)
  | n + 1 =>
    let (e, s) := s.lookup k 0 asid root va
    let pa := match e with
      | .error _ => none
      | .ok e => if pageNoalloc e.w1 || pageRemote e.w1 || windowOf (e.pa va) ≠ .hbm then none else some (e.pa va)
    let (l, s) := s.spaceLines k asid root (va + 128) n
    (pa :: l, s)

/-- The lines of each staged expert with RES 1, in an address space. -/
def State.stagedLines (s : State) (die asid : Nat) : List Nat → List (Nat × List (Option Nat)) × State
  | [] => ([], s)
  | e :: r =>
    let w := s.reg (xstageReg die e 0)
    if resOf w ≠ 1 then s.stagedLines die asid r
    else
      let va : Word := BitVec.ofNat 64 (Word.field w 0 56)
      let (n, past) := lineCount va (BitVec.ofNat 64 (Word.field (s.reg (xstageReg die e 1)) 0 40))
      let (ls, s) := match s.sched.roots.find? asid with
        | none => (List.replicate n none, s)
        | some root => s.spaceLines (tlbColl die) asid root (va &&& ~~~127) n
      let (l, s) := s.stagedLines die asid r
      ((e, if past then ls ++ [none] else ls) :: l, s)

/-- R443, step 1 and 2: the lines of the staged entries are pinned for the die's holder, all or none: the status, the lines
by expert, and the state. -/
def State.stagePin (s : State) (die asid : Nat) : Nat × List (Nat × List (Option Nat)) × State :=
  let (ls, s) := s.stagedLines die asid (s.stagedOf die)
  let (st, s) := s.pinRange (resHolder die) (s.reg (dieReg die 1 0x10040)).toNat (ls.map (·.2)).flatten
  (st, ls, s)

/-- R443, steps 3 and 4: staged entries become active; lines that no active entry names are released. -/
def State.stageApply (s : State) (die : Nat) (ls : List (Nat × List (Option Nat))) : State :=
  let es := s.stagedOf die
  let s := es.foldl (fun s e =>
    let w1 := s.reg (xstageReg die e 1)
    let s := (s.setReg (xresReg die e 0) (s.reg (xstageReg die e 0))).setReg (xresReg die e 1) (w1 &&& ~~~(BitVec.twoPow 64 47))
    s.setReg (xstageReg die e 1) (w1 &&& ~~~(BitVec.twoPow 64 47))) s
  let pins := es.foldl (fun p e =>
    Tbl.set [] p e (((ls.find? fun x => x.1 = e).map fun x => (x.2.filterMap id).map (· / 128)).getD [])) (s.collOf die).pins
  let s := s.modColl die fun c => { c with pins := pins }
  let held := (s.lines.filter fun e => e.2.holders.contains (resHolder die)).map (·.1)
  let s := (held.filter fun l => !pins.any fun p => p.2.contains l).foldl (fun s l => s.unpinLine (resHolder die) (128 * l)) s
  s.setReg (dieReg die 1 0x10048) (BitVec.ofNat 64 (128 * s.heldLines (resHolder die)))

/-- rcommit with DONE and a status. -/
def commitDone (st : Nat) : Word := BitVec.ofNat 64 (2 ^ 63 + st * 2 ^ 60)

/-- R443: a GO that was taken is carried out; its addresses are those of the loader's address space. -/
def execResidencyCommit (die : Nat) (s : State) : Out :=
  let die := die % 4
  .next (if (s.reg (rcommitReg die)).getLsbD 63 then s
  else
    let (st, ls, s') := s.stagePin die (Word.field (s.reg (ioReg 0 1 0x18)) 0 16)
    if st ≠ 0 then s'.setReg (rcommitReg die) (commitDone st)
    else (s'.stageApply die ls).setReg (rcommitReg die) (commitDone 0))

end Sys2Proof.Machine
end

