-- ==== Sys2Proof/Machine/Control.lean ====
section
/-! DEFINITION. NOP, YIELD, EXIT, control transfer, identifiers and the row's own syllables without memory
(R124 to R128, R131, R282, R283, R347). A transfer leaves its target in `nextPc`; the bundle's end moves the PC (R125). -/

namespace Sys2Proof.Machine

/-- R124. -/
def execNop (s : State) : Out := .next s

/-- R124, R318: on a binning core the thread counts as issued after every thread that is ready now; on the Spine no
architectural effect. -/
def execYield (f : FmtA) (s : State) : Out :=
  s.guarded f.g fun s => if s.onBc then s.modCurTask fun t => { t with lastIssue := s.cycle + 1 } else s

/-- R124: retirement begins; no later bundle of the task is fetched. -/
def execExit (f : FmtA) (s : State) : Out := s.guarded f.g fun s => s.modCurTask fun t => { t with exited := true }

/-- R125: the next bundle executed is the target. -/
def State.jump (s : State) (w : Word) : State := s.modCurTask fun t => { t with nextPc := some w }

/-- R125, BR. -/
def execBr (f : FmtB) (s : State) : Out := s.guarded f.g fun s => s.jump (s.target f)

/-- R125, BRP: taken when P(SA) differs from AUX[0]. -/
def execBrp (f : FmtB) (s : State) : Out :=
  s.guarded f.g fun s => if s.rdPred f.sa.toNat != f.aux.getLsbD 0 then s.jump (s.target f) else s

/-- R125, CALL: the return address is that of the next bundle in order. -/
def execCall (f : FmtB) (s : State) : Out :=
  s.guarded f.g fun s => (s.wrInt f.sa (s.curAddr + BitVec.ofNat 64 s.bundleSize)).jump (s.target f)

/-- R125, RET. -/
def execRet (f : FmtB) (s : State) : Out := s.guarded f.g fun s => s.jump (s.regTarget (s.rdInt f.sa))

/-- R125, JMPR: an offset in bundles is added to the register's target. -/
def execJmpr (f : FmtB) (s : State) : Out :=
  s.guarded f.g fun s => s.jump (s.regTarget (s.rdInt f.sa) + (s.target f - s.curAddr))

/-- R126, LOOP: a count of zero skips the body; an offset that is zero or negative raises ILLOP. -/
def execLoop (f : FmtB) (s : State) : Out :=
  s.guarded f.g fun s =>
    if f.off = 0 || f.off.msb then s.raiseCode 0 cILLOP
    else
      let c := s.rdInt f.sa
      if c = 0 then s.jump (s.target f + 32)
      else
        let l : HwLoop := { ls := s.curAddr + 32, le := s.target f, lc := c, act := true }
        s.modCurTask fun t => { t with loops := Tbl.set {} t.loops (f.aux.extractLsb' 0 2).toNat l }

/-- Writes consecutive integer registers from `r` on. -/
def State.wrRun (s : State) (r : Nat) (ws : List Word) : State :=
  match ws with
  | [] => s
  | w :: ws => (s.wrInt (BitVec.ofNat 6 r) w).wrRun (r + 1) ws

/-- R128, NEXTTILE: AUX words of the schedule table from the cursor on, or the exhausted branch. -/
def execNexttile (f : FmtB) (s : State) : Out :=
  s.guarded f.g fun s =>
    let n := f.aux.toNat
    let k := s.rdTask.schcur
    if s.rdTask.sched.length < k + n then s.jump (s.target f)
    else (s.wrRun f.sa.toNat ((s.rdTask.sched.drop k).take n)).modCurTask fun t => { t with schcur := k + n }

/-- R131: S(D) := EA, without access, translation or fault. -/
def execLea (f : FmtM) (s : State) : Out := s.guarded f.g fun s => s.wrInt f.d (s.ea f)

/-- R110, R131. -/
def execMLea (f : FmtM) (s : State) : Out := s.guarded f.g fun s => s.wrInt f.d (s.ea f)

/-- R282: the core's index in its row. -/
def execColid (f : FmtA) (s : State) : Out := s.guarded f.g fun s => s.wrInt f.d (BitVec.ofNat 64 s.curCore)

/-- R282: 8 × die + row. -/
def execRowid (f : FmtA) (s : State) : Out :=
  s.guarded f.g fun s => s.wrInt f.d (BitVec.ofNat 64 (8 * s.rdTask.die + s.rdTask.rowNo))

/-- Sends kept per slot: each bundle sends at most one word, and a receiver reads at most 16 bundles back (R347). -/
def sentDepth : Nat := 64

/-- R283, R347: RPUT into slot K of a direction: the send is kept with its bundle index; the receiver looks it up. -/
def execRput (f : FmtA) (s : State) : Out :=
  s.guarded f.g fun s =>
    let k := (f.mod.extractLsb' 0 3).toNat
    let w := s.rdInt f.sa
    s.modCurShare fun h =>
      let old (t : Tbl (List (Nat × Word))) := ((h.nextIdx, w) :: Tbl.get [] t k).take sentDepth
      if f.mod.getLsbD 3 then { h with sentW := Tbl.set [] h.sentW k (old h.sentW) }
      else { h with sentE := Tbl.set [] h.sentE k (old h.sentE) }

/-- R347: the value a receiver's bundle `m` sees: the latest send whose index is at most `m - lag`, else zero (the value
at bind). -/
def seenBy (m lag : Nat) (sent : List (Nat × Word)) : Word :=
  match sent.find? fun e => e.1 + lag ≤ m with
  | some e => e.2
  | none => 0

/-- R347: the sender of core `c` in a direction, and the lag in bundles. -/
def ringSender (c : Nat) (west : Bool) : Nat × Nat :=
  if west then ((c + 1) % 8, 4) else ((c + 7) % 8, if c = 0 then 16 else 0)

/-- R283, R347: RGET from the core's own receive slot. -/
def execRget (f : FmtA) (s : State) : Out :=
  s.guarded f.g fun s =>
    let k := (f.mod.extractLsb' 0 3).toNat
    let west := f.mod.getLsbD 3
    let (c, lag) := ringSender s.curCore west
    let h := s.share s.curGtid c
    s.wrInt f.d (seenBy s.rdShare.nextIdx lag (Tbl.get [] (if west then h.sentW else h.sentE) k))

end Sys2Proof.Machine
end

