-- ==== Sys2Proof/Machine/Copies.lean ====
section
/-! DEFINITION. The copy engine: its syllables, the choice of a channel's next copy, beats, conversion and credits (R284 to
R304, R308). -/

namespace Sys2Proof.Machine

/-! ### Fields (R284 to R287) -/

/-- Word `i` of the shape set a copy captured (R285). -/
def Cmd.dim (c : Cmd) (i : Nat) : Word := (c.shape[i]?).getD 0

def Cmd.n0 (c : Cmd) : Nat := Word.field (c.dim 0) 0 32

/-- N1 and N2 where the copy uses the dimension, else 1 (R288). -/
def Cmd.n1 (c : Cmd) : Nat := if c.op = .cpd then 1 else Word.field (c.dim 0) 32 16
def Cmd.n2 (c : Cmd) : Nat := if c.op = .cp || c.op = .cpf then Word.field (c.dim 0) 48 16 else 1

/-- R288: the nominal size in bytes. -/
def Cmd.nominal (c : Cmd) : Nat := c.n0 * c.n1 * c.n2

def Cmd.clip0 (c : Cmd) : Nat := Word.field (c.dim 5) 0 32
def Cmd.clip1 (c : Cmd) : Nat := Word.field (c.dim 5) 32 16
def Cmd.clip2 (c : Cmd) : Nat := Word.field (c.dim 5) 48 16

/-- The distribute pattern a copy captured: CMASK's set bits and LB (R298). -/
def Cmd.dealTo (c : Cmd) : List Nat := (List.range 8).filter fun i => (c.dim 6).getLsbD (8 + i)
def Cmd.dealLb (c : Cmd) : Nat := Word.field (c.dim 6) 0 4

def Cmd.dsp (c : Cmd) : Bool := c.f.mod.getLsbD 5
def Cmd.ssp (c : Cmd) : Bool := c.f.mod.getLsbD 6

/-- The fields of the control word (R287). -/
def ctlDfmt (w : Word) : Nat := Word.field w 8 4
def ctlIdx (w : Word) : Nat := Word.field w 32 21
def ctlNoz (w : Word) : Bool := w.getLsbD 7
def ctlAce (w : Word) : Bool := w.getLsbD 6
def ctlAcn (w : Word) : Nat := Word.field w 0 6

/-- R288, R298: does the core refuse the copy? -/
def copyIllegal (c : Cmd) : Bool :=
  let w := c.c
  Word.field w 53 11 ≠ 0 || Word.field w 12 20 ≠ 0 ||
    (ctlIdx w ≠ 0 && !(c.op = .cpg || c.op = .cps)) ||
    (ctlDfmt w ≠ 0 && (c.ssp || c.op = .cpd || c.op = .cpf)) ||
    (c.ssp && c.op = .cpf) || (!c.dsp && c.op = .cpd) || 0xA ≤ ctlDfmt w || 2 ^ 38 < c.nominal ||
    (ctlDfmt w ≠ 0 && c.n0 * 8 % fmtBits (ctlDfmt w) ≠ 0) ||
    (c.op = .cpd && (c.dealTo.isEmpty || c.dealLb < 5 || 12 < c.dealLb))

/-! ### The syllables (R287, R292, R294, R295, R301, R302) -/

/-- R287, R288, R292: a copy is checked, receives its channel's next identifier, and enters the command stage. -/
def State.copy (s : State) (op : EngOp) (f : FmtE) : Out :=
  s.guarded f.g fun s =>
    let h := s.rdShare
    let k := (f.mod.extractLsb' 3 2).toNat
    let c := s.cmdOf op f
    let c := { c with shape := ((List.range 6).map fun i => h.shapeWord k i) ++ [h.cpdpat] }
    if copyIllegal c then s.raiseCode 5 cILLOP
    else
      let n := Tbl.get 0 (s.share s.curGtid s.curCore).cpNext c.chan
      let s := s.issueCmd { c with id := n }
      (s.modCurShare fun h => { h with cpNext := Tbl.set 0 h.cpNext c.chan (n + 1) }).pumpStage s.curGtid s.curCore

/-- R296. -/
def execCp (f : FmtE) (s : State) : Out := s.copy .cp f
/-- R297. -/
def execCpg (f : FmtE) (s : State) : Out := s.copy .cpg f
/-- R297. -/
def execCps (f : FmtE) (s : State) : Out := s.copy .cps f
/-- R298. -/
def execCpd (f : FmtE) (s : State) : Out := s.copy .cpd f
/-- R299. -/
def execCpf (f : FmtE) (s : State) : Out := s.copy .cpf f

/-- R393, R400: a passed completion wait drops every unowned copy in the row's L1D. -/
def State.waitAcquire (s : State) : State := s.selfInvalidate (tlbSpine (s.task s.curGtid))

/-- R294, R304, R306: the bundle executes once the condition holds; the wait then takes its pops in the order of the copy
engine's commands, and retires. -/
def execCpw (f : FmtE) (s : State) : Out :=
  s.guarded f.g fun s => (s.waitAcquire.issueCmd (s.cmdOf .cpw f)).pumpStage s.curGtid s.curCore

/-- R302, R304, R306. -/
def execWaitb (f : FmtE) (s : State) : Out :=
  s.guarded f.g fun s => (s.waitAcquire.issueCmd (s.cmdOf .waitb f)).pumpStage s.curGtid s.curCore

/-- R294: does CPW's condition hold? -/
def Share.cpwHolds (h : Share) (ch : Nat) (v : Word) : Bool := 0 ≤ (h.watermark ch - v.setWidth 32).toInt

/-- R302: does WAITB's condition hold? -/
def Share.waitbHolds (h : Share) (c : Nat) : Bool := (Tbl.get 0 h.ac c).toInt ≤ 0

/-- R295. -/
def execCpq (f : FmtE) (s : State) : Out :=
  s.guarded f.g fun s =>
    let h := s.rdShare
    let ch := f.mod.toNat % 8
    match (f.mod.extractLsb' 3 2).toNat with
    | 0 => s.wrInt f.opa ((h.watermark ch).setWidth 64)
    | 1 => s.wrInt f.opa ((Tbl.get 0 h.cpNext ch).setWidth 64)
    | 2 => s.wrInt f.opa (BitVec.ofNat 64 h.copies.length)
    | _ => s.raiseCode 5 cILLOP

/-- R301: an arrival counter is armed. -/
def execArrv (f : FmtE) (s : State) : Out :=
  s.guarded f.g fun s =>
    let c := (f.mod.extractLsb' 0 6).toNat
    s.modCurShare fun h => { h with ac := Tbl.set 0 h.ac c (Tbl.get 0 h.ac c + s.opA f) }

/-! ### Choosing (R292, R293) -/

/-- Of two entries, the one a channel performs first: the lesser issue time, then the earlier executed. -/
def Copy.before (x y : Copy) : Bool :=
  x.cmd.time < y.cmd.time || (x.cmd.time = y.cmd.time && x.cmd.seq < y.cmd.seq)

/-- The entry a channel chooses among its due ones; none while it performs a copy. -/
def Share.choose (h : Share) (dcc : Word) (ch : Nat) : Option Copy :=
  let l := h.copies.filter fun x => x.cmd.chan = ch
  if l.any (·.due) then none
  else (l.filter fun x => x.cmd.time ≤ dcc).foldl (fun b x => match b with
    | none => some x
    | some y => if x.before y then some x else some y) none

/-- R292: a channel begins its next copy. -/
def execCopyDue (g : Gtid) (c : Nat) (s : State) : Out :=
  .next (if !s.engineFree g c 3 then s
  else
    let h := s.share g c
    match (List.range 8).findSome? (h.choose s.dcc) with
    | none => s
    | some x => s.setShare g c { h with copies := h.copies.map fun y => if y = x then { y with due := true } else y })

/-! ### Beats (R291, R296 to R300) -/

/-- Where a byte of an operand lies: in virtual memory, or at an offset of a core's scratchpad, not yet checked. -/
inductive Where where
  | va (w : Word)
  | sp (core : Nat) (off : Int)
  deriving DecidableEq, Repr

/-- The place `n` bytes further on: a virtual operand wraps, a scratchpad operand moves its offset alone (R296). -/
def Where.add (p : Where) (n : Int) : Where :=
  match p with
  | .va w => .va (w + BitVec.ofInt 64 n)
  | .sp c o => .sp c (o + n)

/-- R284: an operand's place; `c` is the issuing core. -/
def operandAt (c : Nat) (sp : Bool) (w : Word) : Where :=
  if sp then .sp ((c + Word.field w 21 3) % 8) (Word.field w 0 21) else .va w

/-- R291: bytes up to the next boundary of an operand. -/
def Where.room (p : Where) : Nat :=
  match p with
  | .va w => 128 - w.toNat % 128
  | .sp _ o => (2048 - o % 2048).toNat

/-- The most bytes of a beat: it ends with a word of its destination, which is written whole (R291, R401). -/
def Where.whole (p : Where) : Nat :=
  match p with
  | .va _ => 128
  | .sp _ o => (128 - o % 8).toNat

/-- Where the beats of a copy stand: the place in the nominal shape. -/
structure BeatAt where
  p : Nat
  r : Nat
  b : Nat
  deriving DecidableEq, Repr

def Copy.at (x : Copy) : BeatAt :=
  { p := x.pos / (x.cmd.n0 * x.cmd.n1), r := x.pos / x.cmd.n0 % x.cmd.n1, b := x.pos % x.cmd.n0 }

/-- R296 to R298: the destination of the byte at a position, `idx` the row's index for CPS. -/
def Copy.dst (x : Copy) (c idx : Nat) (a : BeatAt) : Where :=
  let k := x.cmd
  let base := operandAt c k.dsp k.a
  let pl : Int := (k.dim 4).toInt
  let row : Int := (k.dim 3).toInt
  match k.op with
  | .cpd =>
    let j := a.b / 2 ^ k.dealLb
    let q := max 1 k.dealTo.length
    .sp ((k.dealTo[j % q]?).getD 0) (Word.field k.a 0 21 + (j / q * 2 ^ k.dealLb + a.b % 2 ^ k.dealLb : Nat))
  | .cps => base.add (idx * row + a.b)
  | .cpg => base.add (a.r * row + a.b)
  | _ => base.add (a.p * pl + a.r * row + a.b)

/-- R296 to R298: the start of the source row of a position. -/
def Copy.srcRow (x : Copy) (c idx : Nat) (a : BeatAt) : Where :=
  let k := x.cmd
  let base := operandAt c k.ssp k.b
  let pl : Int := (k.dim 2).toInt
  let row : Int := (k.dim 1).toInt
  match k.op with
  | .cpd => base
  | .cpg => base.add (idx * row)
  | .cps => base.add (a.r * row)
  | _ => base.add (a.p * pl + a.r * row)

/-- How a row is clipped whole. -/
def Copy.rowClipped (x : Copy) (idx : Nat) (a : BeatAt) : Bool :=
  let k := x.cmd
  match k.op with
  | .cpg => k.clip1 ≤ idx
  | .cps => k.clip1 ≤ idx
  | .cpd => false
  | _ => k.clip2 ≤ a.p || k.clip1 ≤ a.r

/-- Are clipped bytes written as zero (R287, R297)? -/
def Copy.zeroes (x : Copy) : Bool := !ctlNoz x.cmd.c && x.cmd.op ≠ .cps

/-- Reads `n` bytes of an operand for the copy engine: their value and, in memory, their pages. -/
def State.cpRead (s : State) (g : Gtid) (c : Nat) (p : Where) (n : Nat) : Except Raised (Nat × List Seg) × State :=
  match p with
  | .va w => s.bulkRead (tlbStream (s.task g) c 2) g 5 w n
  | .sp t o =>
    if o < 0 then (.error { spPerm 5 0 false with va := BitVec.ofInt 64 o }, s)
    else match s.spLoad g t 5 o.toNat n with
      | (.error r, s) => (.error r, s)
      | (.ok v, s) => (.ok (v, []), s)

/-- Writes the low `n` bytes of a value at an operand. -/
def State.cpWrite (s : State) (g : Gtid) (c : Nat) (p : Where) (n v : Nat) : Except Raised Unit × State :=
  if n = 0 then (.ok (), s)
  else match p with
    | .va w => s.bulkWrite (tlbStream (s.task g) c 2) g 5 w n v
    | .sp t o =>
      if o < 0 then (.error { spPerm 5 0 true with va := BitVec.ofInt 64 o }, s) else s.spStore g t 5 o.toNat n v

/-- The `n` bytes of the repeating pattern from byte `b` of a row on (R299). -/
def patternBytes (w : Word) (b : Nat) : Nat → Nat
  | 0 => 0
  | n + 1 => w.toNat / 2 ^ (8 * (b % 8)) % 256 + 256 * patternBytes w (b + 1) n

/-- R289: the page's format of a source row, by its first byte. -/
def State.rowFormat (s : State) (g : Gtid) (c : Nat) (row : Word) : Except Raised Nat × State :=
  match s.enginePages (tlbStream (s.task g) c 2) g .load 5 row 1 with
  | (.error r, s) => (.error r, s)
  | (.ok l, s) =>
    match l with
    | [] => (.ok 0, s)
    | x :: _ =>
      if fmtBits (pageFmt x.w1) = 0 then (.error (accessFault .load 5 row cPERM), s) else (.ok (pageFmt x.w1), s)

/-- The physical address of byte `o` of an access. -/
def paOf : List Seg → Nat → Nat
  | [], _ => 0
  | x :: r, o => if o < x.n then x.pa + o else paOf r (o - x.n)

/-- Elements `j0` to `j0 + n - 1` of a source row, converted and laid one after another; the bytes read start at bit `lo`
of the row (R176, R289). -/
def State.convertElems (s : State) (dfmt fmt geo : Nat) (l : List Seg) (v lo j0 : Nat) : Nat → Nat
  | 0 => 0
  | n + 1 =>
    let w := fmtBits fmt
    let o := j0 * w - lo
    let x := s.elemVal fmt geo (paOf l (o / 8)) (w = 4 && j0 % 2 = 1) (v / 2 ^ o % 2 ^ w)
    convertTo dfmt x + 2 ^ fmtBits dfmt * s.convertElems dfmt fmt geo l v lo (j0 + 1) n

/-- The elements that `n` destination bytes from byte `b` of a row on hold: the first and one past the last. -/
def elemSpan (wd b n : Nat) : Nat × Nat := (b * 8 / wd, ((b + n) * 8 + wd - 1) / wd)

/-- The source bytes of a span of elements of `ws` bits: the first, and how many. -/
def byteSpan (ws : Nat) (e : Nat × Nat) : Nat × Nat := (e.1 * ws / 8, (e.2 * ws + 7) / 8 - e.1 * ws / 8)

/-- R291: the longest run of at most `n` destination bytes whose source bytes cross no 128-byte boundary; one byte at
least. -/
def convRoom (row : Word) (wd ws b : Nat) : Nat → Nat
  | 0 => 0
  | n + 1 =>
    let y := byteSpan ws (elemSpan wd b (n + 1))
    if n = 0 || (row + BitVec.ofNat 64 y.1).toNat % 128 + y.2 ≤ 128 then n + 1 else convRoom row wd ws b n

/-- The live bytes of a converting beat: how many of at most `n`, and their value (R289). -/
def State.convBytes (s : State) (g : Gtid) (c : Nat) (dfmt : Nat) (row : Word) (b n : Nat) : Except Raised (Nat × Nat) × State :=
  match s.rowFormat g c row with
  | (.error r, s) => (.error r, s)
  | (.ok fmt, s) =>
    let wd := fmtBits dfmt
    let ws := fmtBits fmt
    let n := convRoom row wd ws b n
    let e := elemSpan wd b n
    let y := byteSpan ws e
    match s.bulkRead (tlbStream (s.task g) c 2) g 5 (row + BitVec.ofNat 64 y.1) y.2 with
    | (.error r, s) => (.error r, s)
    | (.ok (v, l), s) =>
      match l.find? fun x => pageFmt x.w1 ≠ fmt with
      | some x => (.error (accessFault .load 5 x.va cALIGN), s)
      | none =>
        let geo := (l.head?.map fun x => pageGeo x.w1).getD 0
        match s.scalesBad g (segNoalloc l) (scaleWords fmt geo ((List.range y.2).map fun i => paOf l i)) with
        | (some z, s) => (.error (ueFault .load 5 (row + BitVec.ofNat 64 y.1) z), s)
        | (none, s) =>
        let all := s.convertElems dfmt fmt geo l v (8 * y.1) e.1 (e.2 - e.1)
        (.ok (n, all / 2 ^ (b * 8 - e.1 * wd) % 2 ^ (8 * n)), s)

/-- The live bytes of a beat: how many of at most `n`, and their value. -/
def State.liveBytes (s : State) (g : Gtid) (c : Nat) (x : Copy) (row : Where) (a : BeatAt) (n : Nat) : Except Raised (Nat × Nat) × State :=
  if x.cmd.op = .cpf then (.ok (n, patternBytes x.cmd.b a.b n), s)
  else
    match row, ctlDfmt x.cmd.c with
    | .va w, d + 1 => s.convBytes g c (d + 1) w a.b n
    | row, _ =>
      let p := row.add a.b
      let n := min n p.room
      match s.cpRead g c p n with
      | (.error r, s) => (.error r, s)
      | (.ok (v, _), s) => (.ok (n, v), s)

/-- R297: the index of a row; zero for a copy without a list. -/
def State.copyIndex (s : State) (g : Gtid) (c : Nat) (x : Copy) (a : BeatAt) : Except Raised Nat × State :=
  if x.cmd.op = .cpg || x.cmd.op = .cps then s.spLoad g c 5 (ctlIdx x.cmd.c + 4 * a.r) 4 else (.ok 0, s)

/-- The core whose counter a beat credits (R300). -/
def Where.creditCore (p : Where) (c : Nat) : Nat :=
  match p with
  | .va _ => c
  | .sp t _ => t

/-- One beat: the nominal bytes it covers and the core it credits, its writes performed (R291, R296 to R299). -/
def State.beat (s : State) (g : Gtid) (c : Nat) (x : Copy) : Except Raised (Nat × Nat) × State :=
  let a := x.at
  let k := x.cmd
  match s.copyIndex g c x a with
  | (.error r, s) => (.error r, s)
  | (.ok idx, s) =>
    let d := x.dst c idx a
    let cap := min (min d.whole (k.n0 - a.b)) d.room
    let cap := if k.op = .cpd then min cap (2 ^ k.dealLb - a.b % 2 ^ k.dealLb) else cap
    let live := if x.rowClipped idx a then 0 else min cap (k.clip0 - a.b)
    match if live = 0 then (.ok (0, 0), s) else s.liveBytes g c x (x.srcRow c idx a) a live with
    | (.error r, s) => (.error r, s)
    | (.ok (n, v), s) =>
      let len := if n < live then n else cap
      let wr := if x.zeroes then len else n
      match s.cpWrite g c d wr v with
      | (.error r, s) => (.error r, s)
      | (.ok _, s) => (.ok (len, d.creditCore c), s)

/-- R300: a beat's nominal bytes are credited. -/
def Share.credit (h : Share) (ctl : Word) (n : Nat) : Share :=
  if ctlAce ctl then
    { h with ac := Tbl.set 0 h.ac (ctlAcn ctl) (Tbl.get 0 h.ac (ctlAcn ctl) - BitVec.ofNat 64 n),
             credits := Tbl.set 0 h.credits (ctlAcn ctl) (Tbl.get 0 h.credits (ctlAcn ctl) - BitVec.ofNat 64 n) }
  else h

/-- The channels in rotation, the next one first. -/
def rotation (n : Nat) : List Nat := (List.range 8).map fun i => (n + i) % 8

/-- The copy whose beat comes next (R291). -/
def Share.nextBeat (h : Share) : Option Copy :=
  (rotation h.cpTurn).findSome? fun ch => h.copies.find? fun x => x.due && x.cmd.chan = ch && x.pos < x.cmd.nominal

/-- The beats that a context's copies have attempted in cycle `now`. -/
def Share.beatsIn (h : Share) (now : Nat) : Nat := if h.beatAt = now + 1 then h.beatNo else 0

/-- R291, R358: may the copy engine of a core perform a further beat in this cycle? It serves both contexts. -/
def State.beatFree (s : State) (g : Gtid) (c : Nat) : Bool :=
  (s.share g c).beatsIn s.cycle + (match s.partner (s.task g) with
    | none => 0
    | some q => (s.share q c).beatsIn s.cycle) < 4

/-- A beat is attempted in cycle `now`: the next channel follows. -/
def Share.tryBeat (h : Share) (x : Copy) (now : Nat) : Share :=
  { h with cpTurn := (x.cmd.chan + 1) % 8, beatAt := now + 1, beatNo := h.beatsIn now + 1 }

/-- R291: the copy engine performs one beat; a fault stops the core's engines, and the beat is attempted again on a
resume (R290, R308, R310). -/
def State.copyBeat (s : State) (g : Gtid) (c : Nat) : State :=
  match (s.share g c).nextBeat with
  | none => s
  | some x =>
    let s := s.modShare g c fun h => h.tryBeat x s.cycle
    match s.beat g c x with
    | (.error r, s) => s.takeRowFault g c r x.cmd.addr false
    | (.ok (n, t), s) =>
      let s := s.modShare g c fun h =>
        { h with copies := h.copies.map fun y => if y = x then { y with beat := y.beat + 1, pos := y.pos + n } else y }
      s.modShare g t fun h => h.credit x.cmd.c n

/-- May a core's copy engine perform a beat? -/
def State.beatReady (s : State) (g : Gtid) (c : Nat) : Bool := s.engineOn g c && s.beatFree g c

/-- The bank rows of core `t`'s own scratchpad that its copy engine will use in what is left of this cycle (R276; fuel: its
beats). -/
def State.ownClaims (s : State) (g : Gtid) (t : Nat) : Nat → List Nat
  | 0 => []
  | n + 1 =>
    if !s.beatReady g t || (s.share g t).nextBeat.isNone then []
    else
      let u := { s with spClaims := some [] }.copyBeat g t
      let own (k : Nat) : Bool := k / 16 / 128 % 8 = t
      (u.spClaims.getD []).filter own ++ { u with spClaims := none }.ownClaims g t n

/-- R276: does an access of core `c`'s copy engine need a port of another core's scratchpad that that core's own beats take in
this cycle? -/
def State.yieldsTo (s : State) (g : Gtid) (c : Nat) (claims : List Nat) : Bool :=
  ((claims.map fun k => k / 16 / 128 % 8).dedup.filter (· ≠ c)).any fun t =>
    (s.ownClaims g t 4).any fun k => claims.any fun j => j / 16 = k / 16

/-- R276, R291: one beat; one that loses a port waits a cycle. -/
def execCopyBeat (g : Gtid) (c : Nat) (s : State) : Out :=
  .next (if !s.beatReady g c then s
  else
    match (s.share g c).nextBeat with
    | none => s
    | some x =>
      let t := { s with spClaims := some [] }.copyBeat g c
      if t.portTaken || s.yieldsTo g c (t.spClaims.getD []) then s.modShare g c fun h => h.tryBeat x s.cycle else t.takePorts)

/-- R293: has the copy every beat done, or is it due with none to do? -/
def Copy.complete (x : Copy) (dcc : Word) : Bool :=
  if x.cmd.nominal = 0 then x.cmd.time ≤ dcc else x.due && x.cmd.nominal ≤ x.pos

/-- R293, R306: a copy completes: it leaves the buffer, and its push is due. -/
def execCopyComplete (g : Gtid) (c : Nat) (s : State) : Out :=
  .next (if !s.engineOn g c then s
  else match (s.share g c).copies.find? fun x => x.complete s.dcc with
  | none => s
  | some x => s.modShare g c fun h => { h with copies := h.copies.filter (· ≠ x) }.retire 3 x.cmd.seq)

end Sys2Proof.Machine
end

