-- ==== Sys2Proof/Machine/Links.lean ====
section
/-! DEFINITION. What arrives from the fabric: flits, messages, acknowledgements; retransmission and failure (R520 to R534,
R538, R548, R550, R558, R560, R568, R572). The fields of the messages that R526 leaves to their types are those of log entry
20. -/

namespace Sys2Proof.Machine

/-! ### Counts (R539) -/

def dupcntReg : Nat := fabReg 0 0x5020
def authfailReg : Nat := fabReg 0 0x5028
def misdirReg : Nat := fabReg 0 0x5038

/-! ### Performing a message (R528, R548, R550, R560) -/

/-- The VC of a message type (R524, R560); none for a type that is discarded. -/
def vcOf (typ : Nat) : Option Nat :=
  match typ with
  | 0x01 | 0x02 | 0x04 | 0x06 | 0x07 => some 0
  | 0x03 | 0x05 => some 1
  | 0x08 => some 2
  | 0x10 | 0x11 | 0x12 | 0x13 | 0x16 | 0x18 | 0x1A => some 3
  | 0x14 | 0x17 => some 4
  | 0x30 => some 5
  | _ => none

/-- The die whose home a physical address has. -/
def homeDie (pa : Nat) : Nat := paDie pa % 4

/-- A message that performed with a failed write is named in the next acknowledgement (R529). -/
def State.noteBad (s : State) (m : Msg) : State :=
  let r := s.rx m.src.toNat
  s.setRx m.src.toNat { r with bad := r.bad ++ [m.seq] }

/-- R548: the receiver's count of a put's messages; the last one credits the counter, unless a write failed. -/
def State.rxPut (s : State) (m : Msg) (ok : Bool) (puts : Nat) : State :=
  let count := Word.field m.w3 15 24
  let first := m.seq - BitVec.ofNat 32 (Word.field m.w3 39 20)
  let ref := Word.field m.w3 0 14
  let src := m.src.toNat
  let x := s.xchOf (refDie ref)
  let old := (x.rxOps.find? fun o => o.src = src && o.first = first).getD { src := src, first := first }
  let new := { old with got := old.got + 1, bad := old.bad || !ok }
  let rest := x.rxOps.filter fun o => !(o.src = src && o.first = first)
  if count ≤ new.got then
    let s := s.setXch (refDie ref) { x with rxOps := rest }
    if m.w3.getLsbD 14 && !new.bad then s.credit ref puts else s
  else s.setXch (refDie ref) { x with rxOps := rest ++ [new] }

/-- R548, R550, R551: a put, sum-put or reduced sum-put performs. -/
def State.performPut (s : State) (m : Msg) : State :=
  let red := m.typ = 0x12
  let body := if red then m.payload.drop 8 else m.payload
  let puts := if red then leNat (m.payload.take 8) else 1
  let pa := m.w2.toNat
  let n := body.length
  let fmt := if m.typ = 0x10 then none else some (Word.field m.w3 59 4)
  let (ok, s) := if n = 0 then (true, s)
    else if !peerRange pa n then (false, s)
    else s.performBytes 0 fmt (lineRuns pa n (n / 128 + 2)) n (leNat body)
  let s := if ok then s else s.noteBad m
  s.rxPut m ok puts

/-- R563: a get request is answered with the bytes, or with the code of what was met. -/
def State.performGet (s : State) (m : Msg) : State :=
  let pa := m.w2.toNat
  let n := m.w3.toNat
  let reply (s : State) (code : Nat) (bs : List Byte) : State :=
    s.send (homeDie pa) 0x14 4 m.src.toNat (m.seq.setWidth 64) (BitVec.ofNat 64 code) bs .none
  if !peerRange pa n then reply s cPERM []
  else match s.readRuns 0 false (lineRuns pa n (n / 128 + 2)) with
    | (.ok v, s) => reply s 0 (leBytes v n)
    | (.error _, s) => reply s cMEMUE []

/-- R558: a permit request reaches the entry of its die and expert. -/
def State.performPermit (s : State) (m : Msg) : State :=
  let die := Word.field m.w2 10 2
  s.permitRequest die (Word.field m.w2 0 10)
    { org := .peer die m.src.toNat m.seq, dev := m.src.toNat, count := Word.field m.w2 16 16, step := m.w3.setWidth 32 }

/-- R559, R572: a dispatch is accepted and written, or refused whole; its status goes back. -/
def State.performDispatch (s : State) (m : Msg) : State :=
  let (d, ps) := unpackDispatch m
  let (st, s) := s.dispatchPerform d ps
  let s := if st = 9 then s.noteBad m else s
  s.tellStatus (.peer (d.die % 4) m.src.toNat m.seq) (xStatus st)

/-- The atomic or tagged operation of a code (log entry 20). -/
def codeHomeOp (code : Nat) (v c : Word) : Option HomeOp :=
  match code with
  | 0 => some (.amo .fadd v c)
  | 1 => some (.amo .swap v c)
  | 2 => some (.amo .cas v c)
  | 3 => some (.amo .min v c)
  | 4 => some (.amo .max v c)
  | 5 => some (.amo .minu v c)
  | 6 => some (.amo .maxu v c)
  | 7 => some (.amo .and v c)
  | 8 => some (.amo .or v c)
  | 9 => some (.amo .xor v c)
  | 16 => some (.tagged .ldfe v)
  | 17 => some (.tagged .ldff v)
  | 18 => some (.tagged .stef v)
  | 19 => some (.tagged .stff v)
  | 20 => some (.tagged .sete v)
  | 21 => some (.tagged .setf v)
  | _ => none

/-- Word `i` of a message's payload. -/
def msgPart (m : Msg) (i : Nat) : Nat := leNat ((m.payload.drop (8 * i)).take 8)

/-- The operation of an atomic message. -/
def msgHomeOp (m : Msg) : Option HomeOp :=
  codeHomeOp (Word.field m.w3 8 8) (BitVec.ofNat 64 (msgPart m 0)) (BitVec.ofNat 64 (msgPart m 1))

/-- The operation of a release write: none for a plain write. -/
def releaseOp (m : Msg) : Option HomeOp :=
  codeHomeOp (msgPart m 1 / 256 % 256) (BitVec.ofNat 64 (msgPart m 2)) (BitVec.ofNat 64 (msgPart m 3))

/-- R531: a load or atomic performs once: its reply is kept in the replay cache. -/
def State.performScalar (s : State) (m : Msg) (op : HomeOp) (pa n : Nat) : State :=
  let die := homeDie pa
  let r : Req := { org := .peer die m.src.toNat m.seq, pa := pa, bytes := n, op := op }
  let c : List CachedReply := Tbl.get [] s.fab.cache die
  let e : CachedReply := { src := m.src.toNat, seq := m.seq, reply := none }
  let s := { s with fab := { s.fab with cache := Tbl.set [] s.fab.cache die (c ++ [e]) } }
  if peerRange pa n then s.serveReq r else s.answerReq r (.bad cPERM)

/-- R403, R404: a store, or the write of a release, performs at its home. -/
def State.performStore (s : State) (m : Msg) (pa n v : Nat) : State :=
  if !peerRange pa n then s.noteBad m
  else
    match s.writeRuns 0 false v (lineRuns pa n (n / 128 + 2)) with
    | (.ok _, s) => s
    | (.error _, s) => s.noteBad m

/-- R533: a flush marker is received. -/
def State.performMarker (s : State) (m : Msg) (seq64 : Nat) : State :=
  let src := m.src.toNat
  let fs := s.fab.flushes
  let fs := if fs.any fun f => f.src = src && f.tag = m.w2 then
      fs.map fun f => if f.src = src && f.tag = m.w2 then { f with got := f.got + 1, first := Nat.min f.first seq64 } else f
    else fs ++ [{ src := src, tag := m.w2, got := 1, x := m.w3 = 1, first := seq64 }]
  { s with fab := { s.fab with flushes := fs } }

/-- The effect of a message that is neither a release write nor held. -/
def State.perform (s : State) (m : Msg) (seq64 : Nat) : State :=
  match m.typ.toNat with
  | 0x01 => s.performStore m m.w2.toNat m.payload.length (leNat m.payload)
  | 0x02 => s.performScalar m .read m.w2.toNat m.w3.toNat
  | 0x04 =>
    match msgHomeOp m with
    | some op => s.performScalar m op m.w2.toNat (Word.field m.w3 0 8)
    | none => s
  | 0x06 => s.performMarker m seq64
  | 0x03 | 0x05 | 0x14 | 0x17 => (s.takeReply m).settle
  | 0x10 | 0x11 | 0x12 => s.performPut m
  | 0x13 => s.performGet m
  | 0x16 => s.performPermit m
  | 0x18 => s.performDispatch m
  | _ => s

/-! ### Release writes and what waits behind a flush (R533, R568) -/

def isReleaseWrite (m : Msg) : Bool := m.typ = 0x07 || m.typ = 0x1A

/-- R533: may the release write perform? -/
def State.releaseReady (s : State) (m : Msg) (seq64 : Nat) : Bool :=
  let src := m.src.toNat
  let got := ((s.fab.flushes.find? fun f => f.src = src && f.tag = m.w2).map (·.got)).getD 0
  m.w3.toNat ≤ got && seq64 ≤ (s.rx src).base

/-- R568: an exchange operation behind a flush of its device waits. -/
def State.behindFlush (s : State) (m : Msg) (seq64 : Nat) : Bool :=
  (vcOf m.typ.toNat = some 3 || m.typ = 0x04) && m.typ ≠ 0x1A &&
    s.fab.flushes.any fun f => f.src = m.src.toNat && f.x && f.first < seq64

/-- Keeps a message until it may perform. -/
def State.holdMsg (s : State) (m : Msg) : State :=
  if s.fab.held.any fun h => h.src = m.src && h.seq = m.seq then s
  else { s with fab := { s.fab with held := s.fab.held ++ [m] } }

/-- The sequence count of a message of a pair (R528, R534). -/
def State.seqOf (s : State) (m : Msg) : Nat := seqNear (s.rx m.src.toNat).base m.seq

/-- R533: release writes that may now perform do so by a step of their own. -/
def State.noteReleases (s : State) : State :=
  s.fab.held.foldl (fun s m => if isReleaseWrite m && s.releaseReady m (s.seqOf m) then s.push (.releaseWritePerform m) else s) s

/-- Is the replay cache of the home die of a message that is answered full (R531)? -/
def State.cacheFull (s : State) (m : Msg) : Bool :=
  let full (pa : Nat) : Bool := 4096 ≤ (Tbl.get [] s.fab.cache (homeDie pa)).length
  if m.typ = 0x02 || m.typ = 0x04 then full m.w2.toNat
  else m.typ = 0x07 && (releaseOp m).isSome && full (msgPart m 0)

/-- R404, R533: what a release write does at its home: a store, or an atomic or tagged access that a reply answers. -/
def State.performRelease (s : State) (m : Msg) : State :=
  match releaseOp m with
  | none => s.performStore m (msgPart m 0) (msgPart m 1 % 256) (msgPart m 2)
  | some op => s.performScalar m op (msgPart m 0) (msgPart m 1 % 256)

/-- R533: the release write performs, and is marked; what waited behind a flush goes on, in order of sequence. -/
def execReleaseWritePerform (m : Msg) (s : State) : Out :=
  .next (if !isReleaseWrite m || !s.fab.held.any (· = m) || !s.releaseReady m (s.seqOf m) || s.cacheFull m then s
  else
    let q := s.seqOf m
    let s := { s with fab := { s.fab with held := s.fab.held.filter (· ≠ m),
                                          flushes := s.fab.flushes.filter fun f => !(f.src = m.src.toNat && f.tag = m.w2) } }
    let s := if m.typ = 0x07 then s.performRelease m else s
    let s := s.markPerformed m.src.toNat q
    let go := s.fab.held.filter fun h => !isReleaseWrite h && h.src = m.src && !s.behindFlush h (s.seqOf h)
    let s := { s with fab := { s.fab with held := s.fab.held.filter fun h => !go.contains h } }
    (go.foldl (fun s h => (s.perform h (s.seqOf h)).markPerformed h.src.toNat (s.seqOf h)) s).noteReleases)

/-! ### Receiving a sequenced message (R522, R526, R528, R531, R534) -/

/-- R531: what a duplicate does: a load's or atomic's cached reply goes out again. -/
def State.duplicate (s : State) (m : Msg) : State :=
  let s := s.bumpReg dupcntReg
  let hit := (List.range 4).findSome? fun d =>
    (Tbl.get [] s.fab.cache d).find? fun e => e.src = m.src.toNat && e.seq = m.seq
  match hit with
  | some e =>
    match e.reply with
    | none => s
    | some r =>
      match s.choosePath 0 m.src.toNat 0 false (s.tx m.src.toNat).turn with
      | none => s
      | some (i, port) => s.transmit port { r with path := BitVec.ofNat 3 i }
  | none => s

/-! ### Digests (R520) -/

/-- One byte into the CRC-32 of IEEE 802.3, least significant bit first. -/
def crc32Byte (c : BitVec 32) (b : Byte) : BitVec 32 :=
  (List.range 8).foldl (fun c _ => if c.getLsbD 0 then (c >>> 1) ^^^ 0xEDB88320 else c >>> 1) (c ^^^ b.setWidth 32)

/-- R520: the CRC-32 of a payload. -/
def crc32 (bs : List Byte) : BitVec 32 := bs.foldl crc32Byte 0xFFFFFFFF ^^^ 0xFFFFFFFF

/-- The digest of a port. -/
def digestReg (port : Nat) : Nat := fabReg (portSide port).1 (0x3000 + 8 * (portSide port).2)

/-- R520: a port delivers a message. -/
def State.delivered (s : State) (port : Nat) (m : Msg) : State :=
  let d := s.reg (digestReg port)
  s.setReg (digestReg port) (d.rotateLeft 5 ^^^ msgHead m m.path.toNat ^^^ (crc32 m.payload).setWidth 64)

/-- R528: an authentic message of the pair: a duplicate, out of the window, held, or performed and marked. -/
def State.receiveSeq (port : Nat) (s : State) (m : Msg) : State :=
  let r := s.rx m.src.toNat
  let q := seqNear r.base m.seq
  if q < r.base || (q < r.base + 4096 && r.got.contains q) then s.duplicate m
  else if r.base + 4096 ≤ q then s
  else if s.cacheFull m then s
  else if isReleaseWrite m || s.behindFlush m q then
    if s.fab.held.any fun h => h.src = m.src && h.seq = m.seq then s.duplicate m
    else ((s.delivered port m).holdMsg m).noteReleases
  else (((s.delivered port m).perform m q).markPerformed m.src.toNat q).noteReleases

/-- R522, R526, R534: a message arrives: discarded and counted, or opened and received. -/
def State.receive (s : State) (m : Msg) (h : State → Msg → State) : State :=
  match s.ownDev with
  | none => s
  | some own =>
    if m.dst.toNat ≠ own || vcOf m.typ.toNat ≠ some m.vc.toNat then s.bumpReg misdirReg
    else match s.unseal m (if m.typ = 0x08 || m.typ = 0x30 then m.seq.toNat else s.seqOf m) with
      | none => s.bumpReg authfailReg
      | some m => h s m

/-- R528, R494: a message from a port: a chunk goes to the loader; any other is sequenced. Acknowledgements, permit requests
and dispatches have steps of their own. -/
def execMessageReceive (port : Nat) (m : Msg) (s : State) : Out :=
  .next (if m.typ = 0x08 || m.typ = 0x16 || m.typ = 0x18 || 35 ≤ port then s
  else if m.typ = 0x30 then s.receive m fun s m => (s.delivered port m).push (.chunk m.payload)
  else s.receive m (State.receiveSeq port))

/-- R558, R560: a permit request from a port. -/
def execPermitRequestReceive (port : Nat) (m : Msg) (s : State) : Out :=
  .next (if m.typ ≠ 0x16 || 35 ≤ port then s else s.receive m (State.receiveSeq port))

/-- R559, R560, R572: a dispatch packet from a port. -/
def execDispatchReceive (port : Nat) (m : Msg) (s : State) : Out :=
  .next (if m.typ ≠ 0x18 || 35 ≤ port then s else s.receive m (State.receiveSeq port))

/-- R529, R531, R532: an acknowledgement. -/
def execAckReceive (port : Nat) (m : Msg) (s : State) : Out :=
  .next (if m.typ ≠ 0x08 || 35 ≤ port then s else s.receive m fun s m => ((s.delivered port m).takeAck m).settle)

/-- R529: is an acknowledgement due to a device? -/
def State.ackDue (s : State) (dev : Nat) : Bool :=
  let r := s.rx dev
  r.unacked ≠ 0 && (64 ≤ r.unacked || 1000 ≤ s.dcc - r.since)

/-- R529: the acknowledgement of a pair goes out. -/
def execAckSend (dev : Nat) (s : State) : Out := .next (if (s.rx dev).unacked = 0 then s else s.sendAck dev)

/-! ### Retransmission and failure (R529, R530) -/

/-- e2eto and e2eretry; zero acts as 1. -/
def State.e2eto (s : State) : Word := if s.reg (fabReg 0 0x5008) = 0 then 1 else s.reg (fabReg 0 0x5008)
def State.e2eretry (s : State) : Nat := max 1 (Word.field (s.reg (fabReg 0 0x5010)) 0 8)

/-- R529, R530: a message unacknowledged e2eto ticks after its last sending is sent again with the same bytes, or its
destination is marked failed. -/
def execE2eRetransmit (dev : Nat) (seq : BitVec 32) (s : State) : Out :=
  .next (match (s.tx dev).unacked.find? fun x => x.msg.seq = seq with
  | none => s
  | some x =>
    if s.dcc - x.sentAt < s.e2eto then s
    else if s.e2eretry ≤ x.count then (s.failDest dev).settle
    else
      let (y, s) := s.sendOn dev x
      let t := s.tx dev
      s.setTx dev { t with unacked := t.unacked.map fun z => if z.msg.seq = seq then { y with sentAt := s.dcc, count := x.count + 1 } else z })

/-- R530: pairclr: the receiving side of a pair, or its sending side and failure mark, starts anew. -/
def execPairClear (v : Word) (s : State) : Out :=
  let dev := Word.field v 0 12
  let s := if v.getLsbD 13 then s.setRx dev {} else s
  .next (if v.getLsbD 12 then s.setTx dev {} else s)

/-! ### Links (R523 to R525) -/

/-- FACK covers every flit up to a link sequence: those leave the replay buffer. -/
def coverReplay (fack : Nat) (l : List (List Byte)) : List (List Byte) :=
  match l.findIdx? fun f => flitSeq f = fack with
  | none => l
  | some i => l.drop (i + 1)

/-- A control flit: FACK with a request for replay, or a returned credit. -/
def controlFlit (nak : Bool) (cvc ccnt : Nat) : List Byte := flitBytes (BitVec.ofNat 64 (flitHead 1 0 false false nak cvc ccnt)) []

/-- What an arriving message is received by: a step of its own. -/
def msgStep (port : Nat) (m : Msg) : Instr :=
  match m.typ.toNat with
  | 0x08 => .ackReceive port m
  | 0x16 => .permitRequestReceive port m
  | 0x18 => .dispatchReceive port m
  | _ => .messageReceive port m

/-- R523: the data of an accepted flit: the bytes of its message so far, and the message when it ends. -/
def State.takeData (s : State) (port : Nat) (flit : List Byte) : State :=
  let h := flitHdr flit
  let vc := flitVc flit
  if 6 ≤ vc then s.bumpReg misdirReg
  else
    let p := s.port port
    let bs := (if h.getLsbD 28 then [] else Tbl.get [] p.parts vc) ++ (flit.drop 8).take 240
    let credit := controlFlit false vc 1
    if h.getLsbD 29 then
      let s := (s.setPort port { p with parts := Tbl.set [] p.parts vc [], queue := p.queue ++ [credit] }).pumpPort port
      match msgParse bs with
      | some m => s.push (msgStep port m)
      | none => s
    else (s.setPort port { p with parts := Tbl.set [] p.parts vc bs, queue := p.queue ++ [credit] }).pumpPort port

/-- R523, R525: a flit arrives at a link port. -/
def execFlitReceive (port : Nat) (flit : List Byte) (s : State) : Out :=
  .next (if 32 ≤ port || !s.portUp port || flit.length ≠ 256 then s
  else
    let h := flitHdr flit
    let p := s.port port
    let refuse (s : State) : State :=
      let p := s.port port
      (s.setPort port { p with queue := p.queue ++ [controlFlit true 0 0] }).pumpPort port
    if (crc64 (flit.take 248)).toNat ≠ leNat (flit.drop 248) then refuse (s.bumpReg (portReg port 0x18))
    else
      let rest := coverReplay (Word.field h 12 12) p.replay
      let moved := rest.length < p.replay.length
      let cvc := Word.field h 32 3
      let p := { p with replay := rest, nak := p.nak || h.getLsbD 24, replays := if moved then 0 else p.replays,
                        lastFack := if moved then s.dcc else p.lastFack,
                        credits := Tbl.set 64 p.credits cvc (min 64 (Tbl.get 64 p.credits cvc + Word.field h 35 8)) }
      let s := s.setPort port p
      if flitSeq flit ≠ p.expect then refuse s
      else
        let s := s.setPort port { p with expect := (p.expect + 1) % 4096 }
        if Word.field h 30 2 = 0 then s.takeData port flit else s.pumpPort port)

/-- R525: is a replay due at a port? -/
def State.replayDue (s : State) (port : Nat) : Bool :=
  let p := s.port port
  s.portUp port && !p.replay.isEmpty && (p.nak || 2000 ≤ s.dcc - p.lastFack)

/-- The words of pstat: UP, TRAIN, link-down events. -/
def State.linkState (s : State) (port : Nat) (up : Bool) (downs : Nat) : State :=
  s.setReg (portReg port 8) (BitVec.ofNat 64 ((if up then 1 else 2) + downs % 2 ^ 32 * 2 ^ 16))

/-- R525: the port goes down and retrains: the flits of its replay buffer are lost. -/
def State.portDown (s : State) (port : Nat) : State :=
  let n := Word.field (s.reg (portReg port 8)) 16 32
  (s.setPort port {}).linkState port false (n + 1)

/-- R525: every flit after FACK goes again, in order, with no new credit; after 16 replays without an advance of FACK the
port goes down. -/
def execLinkReplay (port : Nat) (s : State) : Out :=
  .next (if 32 ≤ port || !s.replayDue port then s
  else
    let p := s.port port
    if 16 ≤ p.replays then s.portDown port
    else ((s.bumpReg (portReg port 0x10)).setPort port { p with nak := false, replays := p.replays + 1, lastFack := s.dcc }).countFlits port p.replay)

/-- R525: a link goes down. -/
def execLinkDown (port : Nat) (s : State) : Out := .next (if 35 ≤ port || !s.portUp port then s else s.portDown port)

/-- Messages of a pair that have found no path yet take one (R527). -/
def State.resendWaiting (s : State) (dev : Nat) : State :=
  (s.tx dev).unacked.foldl (fun s x =>
    if x.out then s
    else
      let (y, s) := s.sendOn dev x
      let t := s.tx dev
      s.setTx dev { t with unacked := t.unacked.map fun z => if z.seq64 = x.seq64 then y else z }) s

/-- R525: a port that is enabled comes up, its link anew; messages that waited for a path go. -/
def execLinkUp (port : Nat) (s : State) : Out :=
  .next (if 35 ≤ port || s.portUp port || !(s.reg (portReg port 0)).getLsbD 0 then s
  else
    let s := (s.setPort port { lastFack := s.dcc }).linkState port true (Word.field (s.reg (portReg port 8)) 16 32)
    (s.fab.tx.map (·.1)).foldl (fun s d => s.resendWaiting d) s)

end Sys2Proof.Machine
end

