-- ==== Sys2Proof/Machine/Exchange.lean ====
section
/-! DEFINITION. The exchange syllables of the cores and their start in the exchange engine (R541, R562 to R569). -/

namespace Sys2Proof.Machine

/-! ### Execution on a core (R541, R562) -/

/-- R541: an exchange syllable enters the core's port. -/
def State.toPort (s : State) (op : EngOp) (f : FmtE) : Out := s.guarded f.g fun s => s.issueCmd (s.cmdOf op f)

/-- R563. -/
def execXput (f : FmtE) (s : State) : Out := s.toPort .xput f
/-- R563. -/
def execXget (f : FmtE) (s : State) : Out := s.toPort .xget f

/-- R564: the compare value is the register OPC as read before the bundle. -/
def execXamo (f : FmtE) (s : State) : Out := s.toPort .xamo f
/-- R565. -/
def execXsend (f : FmtE) (s : State) : Out := s.toPort .xsend f
/-- R565. -/
def execXtrig (f : FmtE) (s : State) : Out := s.toPort .xtrig f
/-- R566. -/
def execXcntRead (f : FmtE) (s : State) : Out := s.toPort .xcntRead f
/-- R566. -/
def execXcntSet (f : FmtE) (s : State) : Out := s.toPort .xcntSet f
/-- R566. -/
def execXcntAdd (f : FmtE) (s : State) : Out := s.toPort .xcntAdd f
/-- R566. -/
def execXcntErr (f : FmtE) (s : State) : Out := s.toPort .xcntErr f
/-- R567. -/
def execXtile (f : FmtE) (s : State) : Out := s.toPort .xtile f
/-- R567. -/
def execXtileFire (f : FmtE) (s : State) : Out := s.toPort .xtileFire f
/-- R567. -/
def execXrt (f : FmtE) (s : State) : Out := s.toPort .xrt f
/-- R568. -/
def execXflush (f : FmtE) (s : State) : Out := s.toPort .xflush f

/-- R569: does a plain wait's condition hold? -/
def State.xwaitHolds (s : State) (ref v : Word) : Bool := v ≤ s.counter (Word.field ref 0 14)

/-- R569: have all exchange syllables of a share retired? -/
def State.portDrained (s : State) (g : Gtid) (c : Nat) : Bool :=
  (s.share g c).xeq.isEmpty &&
    !((List.range 4).any fun d => (s.xchOf d).ops.any fun o => o.g = g && o.core = c && o.src = .port)

/-- R569: the wait has held the bundle until its condition holds; it is then an acquire, and takes its pops in the order
of the port. -/
def State.xwait (s : State) (f : FmtE) : Out :=
  s.guarded f.g fun s =>
    let s := s.waitAcquire
    if f.pop = 0 then s else s.issueCmd (s.cmdOf .xwait f)

/-- R569. -/
def execXwait (f : FmtE) (s : State) : Out := s.xwait f
/-- R569. -/
def execXwaitDrain (f : FmtE) (s : State) : Out := s.xwait f

/-! ### The start of a syllable (R541, R543, R563 to R568) -/

/-- The atomic operation of an OP code (R79, R564). -/
def amoOfCode (n : Nat) : Option AmoOp :=
  match n with
  | 0 => some .fadd
  | 1 => some .swap
  | 2 => some .cas
  | 3 => some .min
  | 4 => some .max
  | 5 => some .minu
  | 6 => some .maxu
  | 7 => some .and
  | 8 => some .or
  | 9 => some .xor
  | _ => none

/-- R562: a descriptor or entry of 32 bytes: from the share's scratchpad, or from local pages. -/
def State.readEntry (s : State) (o : XOp) (sp : Bool) (a : Word) : Except Raised (List Word) × State :=
  if a.toNat % 32 ≠ 0 then (.error { unit := 8, code := cATOMAL, spad := sp, va := a }, s)
  else match if sp then s.spLoad o.g o.core 8 a.toNat 32 else s.xRead o.die o.g a 32 with
    | (.error r, s) => (.error r, s)
    | (.ok v, s) => (.ok ((List.range 4).map fun i => BitVec.ofNat 64 (v / 2 ^ (64 * i))), s)

/-- Writes the words of a table's entry. -/
def putTable (t : Tbl Word) (i : Nat) (ws : List Word) : Tbl Word :=
  ((List.range 4).zip ws).foldl (fun t iw => Tbl.set 0 t (4 * i + iw.1) iw.2) t

/-- What a syllable does with the entry it has read (R565, R567). -/
def State.useEntry (s : State) (o : XOp) (cmd : Cmd) (ws : List Word) : State :=
  let ill : Raised := { unit := 8, code := cILLOP }
  match cmd.op with
  | .xsend =>
    if !sendValid ws false then s.xFault o ill
    else
      let o := { o with kind := .put, send := parseSend ws }
      (s.runPut o (o.send.npeer + 1)).noteDone o.id
  | .xtrig =>
    if !sendValid ws false then s.xFault o ill
    else
      (s.dropOp o.id).arm o.die (Word.field cmd.b 0 10)
        { desc := ws, ctr := Word.field cmd.b 12 12, thr := cmd.c, g := o.g, core := o.core }
  | .xtile => (s.dropOp o.id).modXch o.die fun x => { x with tile := putTable x.tile (Word.field cmd.b 0 12) ws }
  | .xrt => (s.dropOp o.id).modXch o.die fun x => { x with route := putTable x.route (Word.field cmd.b 0 12) ws }
  | _ => s

/-- R565, R567: a syllable with an entry in memory starts: a fault leaves it waiting, and a resume repeats the read. -/
def State.runDesc (s : State) (o : XOp) (cmd : Cmd) : State :=
  match s.readEntry o (cmd.f.mod.getLsbD 0) cmd.a with
  | (.error r, s) => s.xFault o r
  | (.ok ws, s) => s.useEntry o cmd ws

/-- R533, R568: the markers of a flush, then its release write. -/
def State.sendFlush (s : State) (die dev : Nat) : State :=
  let tag := BitVec.ofNat 64 s.fab.relTag
  let s := { s with fab := { s.fab with relTag := s.fab.relTag + 1 } }
  let np := ((s.xchOf die).paths dev).1.length
  let s := (List.range np).foldl (fun s i => s.send die 0x06 0 dev tag 1 [] .none (psel := i + 1)) s
  s.send die 0x1A 3 dev tag (BitVec.ofNat 64 np) [] .none

/-- A syllable of core `c` starts in the exchange engine of its die. -/
def State.startXe (s : State) (g : Gtid) (c : Nat) (cmd : Cmd) : State :=
  let die := (s.task g).die
  let ill : Raised := { unit := 8, code := cILLOP }
  let ref := Word.field cmd.b 0 14
  let res (s : State) (w : Word) : State := s.modShare g c fun h => { h with a := Tbl.set 0 h.a cmd.f.opa.toNat w }
  match cmd.op with
  | .xput =>
    let (o, s) := s.newOp die g c .put (ctlSend cmd.a cmd.b cmd.c (cmd.f.mod.getLsbD 0)) cmd.addr .port
    if ctlBad cmd.c false then s.xFault o ill else (s.runPut o 2).noteDone o.id
  | .xget =>
    let (o, s) := s.newOp die g c (.get (cmd.f.mod.getLsbD 0)) (ctlSend cmd.a cmd.b cmd.c false) cmd.addr .port
    if ctlBad cmd.c true then s.xFault o ill else (s.startGet o (cmd.f.mod.getLsbD 0)).noteDone o.id
  | .xamo =>
    match amoOfCode (cmd.f.mod.toNat % 16) with
    | none =>
      let (o, s) := s.newOp die g c .put {} cmd.addr .port
      s.xFault o ill
    | some op =>
      let w32 := cmd.f.mod.getLsbD 4
      let (o, s) := s.newOp die g c (.amo op w32 cmd.b cmd.c cmd.f.opc) { dva := cmd.a } cmd.addr .port
      s.startAmo o op w32 cmd.b cmd.c
  | .xsend | .xtrig | .xtile | .xrt =>
    let (o, s) := s.newOp die g c (.desc cmd) {} cmd.addr .port
    s.runDesc o cmd
  | .xcntRead => res s (s.counter ref)
  | .xcntSet => ((s.setCounter ref cmd.a).setCounterErr ref false).testTriggers ref
  | .xcntAdd => (s.setCounter ref (s.counter ref + cmd.a)).testTriggers ref
  | .xcntErr => (res s (if s.counterErr ref then 1 else 0)).setCounterErr ref false
  | .xtileFire => s.fireTile g c (Word.field cmd.b 0 12)
  | .xflush => if s.ownDev = some (Word.field cmd.a 0 12) then s else s.sendFlush die (Word.field cmd.a 0 12)
  | _ => s

/-- R358, R541: the oldest syllable of a core's port takes its pops and starts, one of a core in a cycle. -/
def execXeStart (g : Gtid) (c : Nat) (s : State) : Out :=
  .next (match (s.task g).place, (s.share g c).xeq with
  | .row .., cmd :: rest =>
    if 8 ≤ c || s.pipeTaken g c pipeXe || s.withheld 2 (s.task g) || !(s.share g c).canPop 4 cmd.f then s
    else
      let s := s.setShare g c (({ s.share g c with xeq := rest }.takePops 4 cmd.f).usePipe pipeXe s.cycle)
      (s.startXe g c cmd).settle
  | _, _ => s)

/-! ### Going on after a fault (R543) -/

/-- A resumed operation repeats the step that faulted. -/
def State.resumeOp (s : State) (o : XOp) : State :=
  let o := { o with stuck := false }
  let s := s.putOp o
  (match o.kind with
   | .desc cmd => s.runDesc o cmd
   | .put => (s.runPut o (o.send.npeer + 1)).noteDone o.id
   | .get dsp =>
     if o.next = 0 then (s.startGet o dsp).noteDone o.id
     else
       let s := s.flushGet o dsp o.data
       (match s.xop o.id with
        | none => s
        | some o => if o.stuck then s else s.getAgain o dsp o.lost).noteDone o.id
   | .amo op w32 v c _ => s.startAmo o op w32 v c
   | .disp hdr ws => s.runDisp o hdr ws
   | .comb ws => if o.combIdle then s.runComb o ws (combCount ws + 1) else s).settle

end Sys2Proof.Machine
end

