-- ==== Sys2Proof/Machine/Launch.lean ====
section
/-! DEFINITION. Launch records, their checks and their tasks; completion (R15 to R22, R29, R448 to R453). -/

namespace Sys2Proof.Machine

/-! ### Registers (R447, R448) -/

/-- Register `i` of submission ring `q`: 0 rbase, 1 rsize, 2 rtail, 3 rhead, 4 cbase, 5 csize, 6 chead, 7 ctail. -/
def ringReg (q i : Nat) : Nat := dieReg 0 2 (0x1000 + 64 * q + 8 * i)

/-- Completion counter `c`. -/
def ccntReg (c : Nat) : Nat := dieReg 0 2 (0x2000 + 8 * c)

/-- R448: a doorbell: a value beyond rhead + rsize is ignored. -/
def State.doorbell (s : State) (q : Nat) (v : Word) : State :=
  if 64 ≤ q || s.reg (ringReg q 1) < v - s.reg (ringReg q 3) then s else s.setReg (ringReg q 2) v

/-- R448, R536: the host rings the doorbell of a ring. -/
def execSubmitDoorbell (q : Nat) (v : Word) (s : State) : Out := .next (s.doorbell q v)

/-! ### What firmware reads (R451) -/

/-- The physical runs of a virtual range in the address space of a root: local HBM pages that permit reads. -/
def State.fwRuns (s : State) (root : Nat) : List (Word × Nat) → Option (List (Nat × Nat)) × State
  | [] => (some [], s)
  | (va, n) :: r =>
    match s.walk 0 root va with
    | (.leaf w0 w1 big, s) =>
      let pa := frameOf w0 + va.toNat % (if big then 2 ^ 28 else 2 ^ 16)
      if !w0.getLsbD 2 || pageRemote w1 || windowOf pa ≠ .hbm then (none, s)
      else match s.fwRuns root r with
        | (none, s) => (none, s)
        | (some l, s) => (some (lineRuns pa n (n / 128 + 2) ++ l), s)
    | (_, s) => (none, s)

/-- The little-endian value of `n` bytes that firmware reads, none where they cannot be read. -/
def State.fwRead (s : State) (root : Nat) (va : Word) (n : Nat) : Option Nat × State :=
  if n = 0 then (some 0, s)
  else match s.fwRuns root (runsOf va n) with
    | (none, s) => (none, s)
    | (some l, s) =>
      match s.readRuns 0 false l with
      | (.error _, s) => (none, s)
      | (.ok v, s) => (some v, s)

/-- Word `i` of a value read. -/
def wordAt (v i : Nat) : Word := BitVec.ofNat 64 (v / 2 ^ (64 * i))

/-- Words of a range that firmware reads. -/
def State.fwWords (s : State) (root : Nat) (va : Word) (n : Nat) : Option (List Word) × State :=
  match s.fwRead root va (8 * n) with
  | (none, s) => (none, s)
  | (some v, s) => (some ((List.range n).map (wordAt v)), s)

/-- Can an image be read? An address of 0 names none. -/
def State.fwCan (s : State) (root : Nat) (va : Word) (n : Nat) : Bool × State :=
  if va = 0 then (true, s)
  else match s.fwRead root va n with
    | (none, s) => (false, s)
    | (some _, s) => (true, s)

/-! ### Checks of a record (R450 to R452) -/

/-- Bytes of a route-table or tile-table image (R554, R556). -/
def imageBytes : Nat := 131072

/-- The thread-count mode of a declaration (R451). -/
def modeOf (c : Nat) : Nat := 2 ^ (c + 1)

/-- A declaration from its words. -/
def declOf (ws : List Word) : Decl :=
  let w (i : Nat) : Word := (ws[i]?).getD 0
  { binning := (w 0).getLsbD 0, mode := modeOf (Word.field (w 0) 1 2), count := Word.field (w 0) 8 11, entry := w 1,
    schedVa := w 2, schedLen := Word.field (w 3) 0 13 }

/-- R451: does a declaration set a reserved field? -/
def declReserved (ws : List Word) : Bool :=
  let w (i : Nat) : Word := (ws[i]?).getD 0
  Word.field (w 0) 3 5 ≠ 0 || Word.field (w 0) 19 45 ≠ 0 || Word.field (w 3) 13 51 ≠ 0

/-- The tasks of a gang declared of one kind. -/
def declared (ds : List Decl) (binning : Bool) : Nat := ((ds.filter fun d => d.binning = binning).map (·.count)).sum

/-- R452, reason 3: the clusters that the binning tasks of a gang need. -/
def clustersOf (ds : List Decl) : Nat :=
  (([2, 4, 8, 16] : List Nat).map fun t =>
    ((((ds.filter fun d => d.binning && d.mode = t).map (·.count)).sum) + 16 * t - 1) / (16 * t)).sum

/-- The reasons to refuse a gang with these declarations (R452), besides what cannot be read. -/
def gangReasons (cls : Nat) (wss : List (List Word)) : List Nat :=
  let ds := wss.map declOf
  (if wss.any declReserved then [1] else []) ++
  (if ds.isEmpty || 32 < declared ds false || 1024 < declared ds true || ds.any (fun d => d.count = 0) || 4 < clustersOf ds then [3]
   else []) ++
  (if ds.any fun d => 4096 < d.schedLen then [4] else []) ++
  (if cls = 3 && ds.any (·.binning) then [5] else [])

/-- The reasons to refuse that the record itself shows (R452). -/
def recordReasons (ws : List Word) : List Nat :=
  let w (i : Nat) : Word := (ws[i]?).getD 0
  let zeros : Bool := Word.field (w 0) 48 16 = 0 && Word.field (w 0) 16 8 = 0 && Word.field (w 0) 4 4 = 0 && !(w 0).getLsbD 2 &&
    ((List.range 4).all fun i => !(w (4 + i)).getLsbD 62) && Word.field (w 8) 14 49 = 0 && Word.field (w 11) 22 42 = 0 &&
    Word.field (w 12) 14 50 = 0 && Word.field (w 12) 6 2 = 0 && w 13 = 0 && w 14 = 0 && w 15 = 0
  let root : Bool := Word.field (w 1) 0 16 = 0 && Word.field (w 1) 40 24 = 0
  (if !zeros || !root || Word.field (w 0) 24 8 = 0 then [1] else []) ++
  (if 16 < Word.field (w 0) 8 8 then [2] else []) ++
  (if Word.field (w 0) 0 2 = 3 && (w 0).getLsbD 3 then [5] else []) ++
  (if 0x200000 < Word.field (w 11) 0 22 then [6] else []) ++
  (if (List.range 4).any (fun i => (w (4 + i)).getLsbD 63 && 1024 ≤ Word.field (w (4 + i)) 48 14) ||
      ((w 8).getLsbD 63 && 1024 ≤ Word.field (w 8) 0 14) then [7] else [])

/-- Cuts words into groups of four. -/
def fours : List Word → List (List Word)
  | a :: b :: c :: d :: r => [a, b, c, d] :: fours r
  | _ => []

/-- Can the schedule tables of a gang's declarations be read (R452)? -/
def State.schedsRead (s : State) (root : Nat) : List Decl → Bool × State
  | [] => (true, s)
  | d :: r =>
    let (a, s) := if d.schedLen = 0 || 4096 < d.schedLen then (true, s) else s.fwCan root d.schedVa (8 * d.schedLen)
    let (b, s) := s.schedsRead root r
    (a && b, s)

/-- The gangs of a table, with the reasons to refuse them (R451, R452). -/
def State.readGangs (s : State) (root cls : Nat) (now : Word) : List (List Word) → List Gang × List Nat × State
  | [] => ([], [], s)
  | e :: rest =>
    let w (i : Nat) : Word := (e[i]?).getD 0
    let n := Word.field (w 0) 0 16
    let bad := if Word.field (w 0) 16 48 ≠ 0 then [1] else []
    let (ws, s) := s.fwWords root (w 1) (4 * n)
    let (wss, bad) : List (List Word) × List Nat := match ws with
      | none => ([], bad ++ [6])
      | some l => (fours l, bad ++ gangReasons cls (fours l))
    let bad := if n = 0 then bad ++ [3] else bad
    let (a, s) := s.schedsRead root (wss.map declOf)
    let (b, s) := s.fwCan root (w 2) imageBytes
    let (c, s) := s.fwCan root (w 3) imageBytes
    let bad := if a && b && c then bad else bad ++ [6]
    let (gs, bads, s) := s.readGangs root cls now rest
    ({ decls := wss.map declOf, routes := w 2, tiles := w 3, queuedAt := now } :: gs, bad ++ bads, s)

/-! ### Tasks of a launch (R22, R29, R30) -/

/-- The argument registers of a task. -/
def argRegs (args : List Word) : Tbl Word := ((List.range args.length).zip args).foldl (fun r iw => Tbl.set 0 r iw.1 iw.2) []

/-- The context of a task of a declaration at bind (R29, R33). -/
def taskOf (l : Launch) (gi di : Nat) (d : Decl) : Task :=
  { st := .queued, isRow := !d.binning, isFiller := l.cls = 3, gaveBank := l.filler && !d.binning, fillOn := l.filler && !d.binning,
    launch := l.serial, gang := gi, decl := di, asid := l.asid, root := l.root, bcMode := d.mode,
    vshape := if d.binning then vshapeBc else vshapeRow, pc := if d.binning then d.entry &&& ~~~15 else d.entry &&& ~~~31,
    wdLimit := l.wdog, r := argRegs l.args }

/-- R22: the declarations of a gang in the order of their task indices, with their numbers. -/
def declOrder (ds : List Decl) : List (Nat × Decl) :=
  let ids := (List.range ds.length).zip ds
  ids.filter (fun d => !d.2.binning) ++ ids.filter (fun d => d.2.binning)

/-- The tasks of a gang, from index `i` on. -/
def gangTasks (l : Launch) (gi i : Nat) (ds : List (Nat × Decl)) : List (Gtid × Task) :=
  let all := (ds.map fun d => List.replicate d.2.count (taskOf l gi d.1 d.2)).flatten
  ((List.range all.length).zip all).map fun e => (gtidOf l.serial (i + e.1), e.2)

/-- The gangs of a launch with their tasks numbered, and the tasks. -/
def numberGangs (l : Launch) : Nat → Nat → List Gang → List Gang × List (Gtid × Task)
  | _, _, [] => ([], [])
  | gi, i, g :: r =>
    let ts := gangTasks l gi i (declOrder g.decls)
    let (gs, rest) := numberGangs l (gi + 1) (i + ts.length) r
    ({ g with tasks := ts.map (·.1) } :: gs, ts ++ rest)

/-- The launch a record describes (R450, R451). -/
def launchOf' (ws : List Word) (serial q slot : Nat) (wdogdef now : Word) (gangs : List Gang) : Launch :=
  let w (i : Nat) : Word := (ws[i]?).getD 0
  { serial := serial, cls := Word.field (w 0) 0 2, filler := (w 0).getLsbD 3, asid := Word.field (w 0) 32 16,
    root := (w 1).toNat, quota := (w 2).toNat, wdog := if w 3 = 0 then wdogdef else w 3,
    after := ((List.range 4).filter fun i => (w (4 + i)).getLsbD 63).map fun i => (Word.field (w (4 + i)) 48 14, Word.field (w (4 + i)) 0 48),
    done := if (w 8).getLsbD 63 then some (Word.field (w 8) 0 14) else none,
    args := (ws.drop 16).take (Word.field (w 0) 8 8), scratch := w 10, scratchLen := Word.field (w 11) 0 22,
    spFirst := Word.field (w 12) 0 6, spCount := if Word.field (w 12) 8 6 = 0 then 64 else Word.field (w 12) 8 6,
    ring := q, slot := slot, gangs := gangs, nextIndex := 0, queuedAt := now }

/-! ### Acceptance (R21, R449, R452) -/

/-- R449: the ring whose record the lead core takes next. -/
def State.nextRing (s : State) : Option Nat :=
  let has (q : Nat) : Bool := s.reg (ringReg q 1) ≠ 0 && s.reg (ringReg q 3) ≠ s.reg (ringReg q 2)
  match (List.range 64).find? fun q => s.sched.turn ≤ q && has q with
  | some q => some q
  | none => (List.range 64).find? has

/-- R21: the serial after another. -/
def serialAfter (n : Nat) : Nat := if n = 0xFFFFFFFFFF then 1 else n + 1

/-- A completion record waits to be posted. -/
def State.complete (s : State) (c : Completion) : State := { s with sched := { s.sched with completions := s.sched.completions ++ [c] } }

/-- R452: a record read and checked: its gangs, and the lowest reason to refuse it. -/
def State.checkRecord (s : State) (ws : List Word) : List Gang × Option Nat × State :=
  let w (i : Nat) : Word := (ws[i]?).getD 0
  let root := (w 1).toNat
  let cls := Word.field (w 0) 0 2
  let r0 := recordReasons ws
  if r0.contains 1 then ([], some 1, s)
  else
    let (tab, s) := s.fwWords root (w 9) (4 * Word.field (w 0) 24 8)
    match tab with
    | none => ([], (r0 ++ [6]).min?, s)
    | some t =>
      let (gs, r1, s) := s.readGangs root cls s.dcc (fours t)
      let (ok, s) := if 0x200000 < Word.field (w 11) 0 22 then (true, s) else s.fwCan root (w 10) (Word.field (w 11) 0 22)
      (gs, (r0 ++ r1 ++ (if ok then [] else [6])).min?, s)

/-- R449: the lead core takes the next record: it refuses it, or the launch takes the next serial and queues. -/
def State.takeRecord (s : State) (q : Nat) : State :=
  let head := s.reg (ringReg q 3)
  let slot := head.toNat % (s.reg (ringReg q 1)).toNat
  let ws := s.getWords ((s.reg (ringReg q 0)).toNat / 256 * 256 + 256 * slot) 32
  let (gs, bad, s) := s.checkRecord ws
  let s := { s.bumpReg (ringReg q 3) with sched := { s.sched with turn := (q + 1) % 64 } }
  match bad with
  | some r => s.complete { ring := q, slot := slot, serial := 0, status := 3, reason := r, dcc := s.dcc }
  | none =>
    let n := serialAfter s.sched.serial
    let l := launchOf' ws n q slot (s.reg (dieReg 0 2 8)) s.dcc gs
    let (gs, ts) := numberGangs l 0 0 gs
    let l := { l with gangs := gs, nextIndex := ts.length }
    let s := { s with sched := { s.sched with serial := n, roots := Tbl.put s.sched.roots l.asid l.root } }
    ts.foldl (fun s t => s.setTask t.1 t.2) (s.setLaunch l)

/-- R449. -/
def execLaunchAccept (s : State) : Out :=
  .next (match s.nextRing with
  | none => s
  | some q => s.takeRecord q)

/-! ### Completion (R48, R49, R453) -/

/-- R453: the first completion record of a ring is posted where the ring has room. -/
def execCompletionRecordPost (ring : Nat) (s : State) : Out :=
  .next (match s.sched.completions.find? fun c => c.ring = ring with
  | none => s
  | some c =>
    let size := s.reg (ringReg ring 5)
    let head := s.reg (ringReg ring 6)
    if ringFull head (s.reg (ringReg ring 7)) size then s
    else
      let w0 : Word := BitVec.ofNat 64 (c.serial + c.status * 2 ^ 40 + c.reason * 2 ^ 48)
      let w1 : Word := BitVec.ofNat 64 (c.slot % 2 ^ 32 + c.ring * 2 ^ 32)
      let s := s.putWords ((s.reg (ringReg ring 4)).toNat / 32 * 32 + 32 * (head.toNat % size.toNat)) [w0, w1, c.dcc, 0]
      let s := s.bumpReg (ringReg ring 6)
      { s with sched := { s.sched with completions := s.sched.completions.erase c } })

/-- R553: armed trigger entries of a launch's tasks are disarmed. -/
def Xch.disarm (x : Xch) (serial : Nat) : Xch :=
  let off (e : Nat × Trigger) : Bool := e.2.st = .armed && e.2.g.toNat / 2 ^ 24 = serial
  { x with trig := x.trig.filter fun e => !off e }

/-- R48, R49, R144, R373, R453, R553: a launch whose gangs have all retired completes. -/
def State.finishLaunch (s : State) (serial : Nat) : State :=
  match Tbl.get none s.sched.launches serial with
  | none => s
  | some l =>
    if l.credited || l.gangs.any fun g => g.st ≠ .ended then s
    else
      let s := s.setLaunch { l with credited := true }
      let s := (List.range 4).foldl (fun s d => s.setXch d ((s.xchOf d).disarm serial)) s
      let s := (s.lines.filter fun e => e.2.holders.contains serial).foldl (fun s e => s.unpinLine serial (128 * e.1)) s
      let s := match l.done with
        | none => s
        | some c => s.bumpReg (ccntReg c)
      s.complete { ring := l.ring, slot := l.slot, serial := serial, status := l.status, reason := 0, dcc := s.dcc }

/-- Changes a gang of a launch. -/
def State.modGang (s : State) (serial gi : Nat) (h : Gang → Gang) : State :=
  match Tbl.get none s.sched.launches serial with
  | none => s
  | some l => s.setLaunch { l with gangs := l.gangs.mapIdx fun i g => if i = gi then h g else g }

/-- A gang of a launch. -/
def State.gang? (s : State) (serial gi : Nat) : Option (Launch × Gang) :=
  match Tbl.get none s.sched.launches serial with
  | none => none
  | some l =>
    match l.gangs[gi]? with
    | none => none
    | some g => some (l, g)

/-- R48: a gang all of whose tasks have retired ends. -/
def State.finishGang (s : State) (serial gi : Nat) : State :=
  match s.gang? serial gi with
  | none => s
  | some (_, g) =>
    if g.st = .ended || g.tasks.any fun x => (s.task x).st ≠ .retired then s
    else (s.modGang serial gi fun g => { g with st := .ended }).finishLaunch serial

/-- A task leaves every list of a table. -/
def dropGtid (g : Gtid) (t : Tbl (List Gtid)) : Tbl (List Gtid) :=
  let cut (e : Nat × List Gtid) : Nat × List Gtid := (e.1, e.2.filter (· ≠ g))
  (t.map cut).filter fun e => !e.2.isEmpty

/-- Is a request one of a task? -/
def Req.ofTask (r : Req) (g : Gtid) : Bool :=
  match r.org with
  | .task h _ => h = g
  | _ => false

/-- R42, R48: a task retires with a status: its slot is free, and nothing of it waits any more. -/
def State.retire (s : State) (g : Gtid) (status : Nat) : State :=
  let t := s.task g
  let s := s.freeSlot t.place
  let s := match t.place with
    | .inbox d b => s.setInbox d b ((s.inboxOf d b).filter (· ≠ g))
    | _ => s
  let s := { s with
    waits := s.waits.filter fun r => !r.ofTask g,
    replies := s.replies.filter fun r => r.gtid ≠ g,
    syscs := s.syscs.filter fun q => q.gtid ≠ g,
    faultHeld := s.faultHeld.filter fun f => f.gtid ≠ g || f.xop.isSome,
    shares := s.shares.filter fun e => e.1 / 8 ≠ g.toNat,
    sched := { s.sched with spawns := dropGtid g s.sched.spawns } }
  let s := s.modTask g fun t =>
    { st := .retired, exitStatus := status, isRow := t.isRow, isFiller := t.isFiller, launch := t.launch, gang := t.gang, decl := t.decl,
      asid := t.asid, root := t.root, lastPlace := t.spot, startTick := t.startTick, wdLimit := t.wdLimit, wdCount := t.wdCount }
  match Tbl.get none s.sched.launches t.launch with
  | none => s
  | some l => (s.setLaunch { l with status := max l.status status }).finishGang t.launch t.gang

/-- R45: has every engine of a share retired all it was given, port rows included? -/
def Share.idle (h : Share) : Bool :=
  h.mxq.isEmpty && h.qrq.isEmpty && h.cpq.isEmpty && h.xeq.isEmpty && h.mxLoad.isNone && h.mxComp.isNone && h.mxFin.isEmpty && h.mxFly.isEmpty &&
    h.qrRun.isNone && h.qrFly.isEmpty && h.copies.isEmpty

/-- R45, R561: the shares of a row task are done, and every exchange operation that they started has completed. -/
def State.rowDone' (s : State) (g : Gtid) : Bool :=
  (s.task g).wave.isEmpty && ((List.range 8).all fun c => (s.share g c).idle) &&
    !((List.range 4).any fun d => (s.xchOf d).ops.any fun o => o.g = g && (o.src = .port || o.src = .tile))

/-- R45, R46, R49: may a task that has issued EXIT retire? -/
def State.retireReady (s : State) (g : Gtid) : Bool :=
  let t := s.task g
  t.st = .running && t.exited && t.memOp.isNone && t.retry.isNone && t.redo.isEmpty && (!t.isRow || s.rowDone' g) && s.storesDone g none

/-- R49: are the stores of a task performed, and is none of its requests on its way? -/
def State.settledStores (s : State) (g : Gtid) : Bool := s.storesDone g none && !s.anyMoving fun r => r.ofTask g

/-- R48, R49: may a task whose gang has been ended retire? -/
def State.endReady (s : State) (g : Gtid) : Bool := (s.task g).ending ≠ 0 && (s.task g).st ≠ .retired && s.settledStores g

/-- R45, R46, R49, R530: retirement is a release: the Spine's pending stores are registered, and a remote store that has failed
raises its fault in place of it. A task whose gang has been ended retires once its stores have performed. -/
def execTaskRetire (g : Gtid) (s : State) : Out :=
  .next (if s.endReady g then s.retire g (s.task g).ending
  else if !s.retireReady g then s
  else
    let t := s.task g
    let s := if t.isRow then s.drainStores (tlbSpine t) g else s
    match t.remoteFail with
    | none => if s.retireReady g then s.retire g 0 else s
    | some (d, va) =>
      let s := s.modTask g fun t => { t with remoteFail := none }
      let r : Raised := { unit := if t.isRow then 0 else 6, code := cMEMUE, write := true, va := va, detail := d }
      if t.isRow then s.takeRowFault g 8 r t.pc false else s.takeBcFault g r t.pc false)

/-- R457: a background launch that has been queued for the ageing period counts as normal. -/
def execLaunchAgeing (serial : Nat) (s : State) : Out :=
  .next (match Tbl.get none s.sched.launches serial with
  | none => s
  | some l => if l.cls = 2 && s.reg (dieReg 0 2 0x10) ≤ s.dcc - l.queuedAt then s.setLaunch { l with aged := true } else s)

end Sys2Proof.Machine
end

