-- ==== Sys2Proof/Machine/Trace.lean ====
section
/-! DEFINITION. Halts of tasks and the Press that compresses their trace (R512, R513, R515 to R517). -/

namespace Sys2Proof.Machine

/-! ### The Press (R515 to R517) -/

def State.pressOf (s : State) (die : Nat) : Press := Tbl.get {} s.dbg.press die

def State.setPress (s : State) (die : Nat) (p : Press) : State :=
  { s with dbg := { s.dbg with press := Tbl.set {} s.dbg.press die p } }

/-- The little-endian bytes of a word, `n` of them. -/
def wordBytes (n : Nat) (w : Word) : List Byte := (List.range n).map fun i => w.extractLsb' (8 * i) 8

/-- R516: the shortest code of a field, and its bytes. -/
def pressField (prev w : Word) : Nat × List Byte :=
  let d := w - prev
  if d = 0 then (0, [])
  else if Word.sextFrom 8 d = d then (1, wordBytes 1 d)
  else if Word.sextFrom 32 d = d then (2, wordBytes 4 d)
  else (3, wordBytes 8 w)

/-- R516: the code of a GTID, its bytes, and the dictionary after it. -/
def Press.gtid (p : Press) (g : Word) : Nat × List Byte × Press :=
  if g = p.prev.gtid then (0, [], p)
  else match p.dict.findIdx? (· = g) with
    | some i => (1, [BitVec.ofNat 8 i], p)
    | none =>
      let dict := if p.dict.length < 16 then p.dict ++ [g] else p.dict.set (p.dictNo % 16) g
      (3, wordBytes 8 g, { p with dict := dict, dictNo := p.dictNo + 1 })

/-- R516: a record as the frame under way holds it: its bytes and the Press after it. -/
def Press.pack (p : Press) (r : PressRec) : List Byte × Press :=
  let (a, as) := pressField p.prev.w0 r.w0
  let (b, bs, p) := p.gtid r.gtid
  let (c, cs) := pressField p.prev.dcc r.dcc
  let (d, ds) := pressField p.prev.payload r.payload
  (BitVec.ofNat 8 (a + 4 * b + 16 * c + 64 * d) :: (as ++ bs ++ cs ++ ds), { p with prev := r })

/-- The payload bytes of a frame. -/
def pressRoom : Nat := 4096 - 32

/-- Records of the queue enter the frame while they fit (fuel: the queue). -/
def Press.pump (p : Press) : Nat → Press
  | 0 => p
  | n + 1 =>
    match p.queue with
    | [] => p
    | r :: l =>
      let (bs, p') := p.pack r
      if pressRoom < p.body.length + bs.length then p
      else ({ p' with queue := l, body := p.body ++ bs, count := p.count + 1,
                      first := if p.count = 0 then r.dcc else p.first }).pump n

/-- R515: a record reaches the Press: queued, or dropped and counted. -/
def Press.take (p : Press) (r : PressRec) : Press :=
  if 256 ≤ p.queue.length then { p with lostRecs := p.lostRecs + 1 }
  else { p with queue := p.queue ++ [r] }.pump (p.queue.length + 1)

def State.press (s : State) (die : Nat) (r : PressRec) : State := s.setPress die ((s.pressOf die).take r)

/-- R516: is the frame of a die to close: its next record does not fit, or 2^20 ticks have passed since its first? -/
def Press.closes (p : Press) (dcc : Word) : Bool := p.count ≠ 0 && (!p.queue.isEmpty || (1048576 : Word) ≤ dcc - p.first)

/-- R516: a frame as bytes. -/
def Press.frame (p : Press) (die : Nat) : List Byte :=
  wordBytes 8 (BitVec.ofNat 64 (die % 16 + p.seq % 2 ^ 32 * 2 ^ 32)) ++ wordBytes 8 p.first ++
    wordBytes 8 (BitVec.ofNat 64 (p.count + p.body.length * 2 ^ 16 + p.lostFrames % 2 ^ 32 * 2 ^ 32)) ++
    wordBytes 8 (BitVec.ofNat 64 p.lostRecs) ++ p.body ++ List.replicate (pressRoom - p.body.length) 0

/-- A frame starts: the previous fields are zero and the dictionary is empty. -/
def Press.restart (p : Press) : Press :=
  { p with body := [], count := 0, first := 0, prev := ⟨0, 0, 0, 0⟩, dict := [], dictNo := 0, seq := p.seq + 1, lostRecs := 0 }

/-- The words of a list of bytes, 8 each (fuel: the words). -/
def bytesToWords : Nat → List Byte → List Word
  | 0, _ => []
  | n + 1, bs => (bs.take 8).foldr (fun b w => (w <<< 8) ||| b.setWidth 64) 0 :: bytesToWords n (bs.drop 8)

/-- R516, R517: the frame of a die closes: it goes to the trace ring, or is dropped whole and counted. -/
def execPressFrameClose (die : Nat) (s : State) : Out :=
  let die := die % 4
  let p := s.pressOf die
  let rg (i : Nat) : Nat := ioReg 0 3 (0x1000 + 64 * die + 8 * i)
  .next (if !p.closes s.dcc then s
  else
    let size := s.reg (rg 1)
    let head := s.reg (rg 2)
    if ringFull head (s.reg (rg 3)) size then
      s.setPress die ({ p.restart with lostFrames := p.lostFrames + 1 }.pump p.queue.length)
    else
      let s := s.putWords ((s.reg (rg 0)).toNat + 4096 * (head.toNat % size.toNat)) (bytesToWords 512 (p.frame die))
      (s.bumpReg (rg 2)).setPress die ({ p.restart with lostFrames := 0 }.pump p.queue.length))

/-! ### Halts (R513) -/

/-- R513: a task is held by a debug halt, and the halt is recorded: entry index, immediate, bundle. -/
def State.halt (s : State) (g : Gtid) (idx : Nat) (imm : BitVec 32) (addr : Word) : State :=
  let w0 : Word := BitVec.ofNat 64 (idx % 16 + imm.toNat * 2 ^ 32)
  let s := s.modTask g fun t => { t with stepping := false }.hold .halt
  let s := { s with dbg := { s.dbg with ring := [w0, g, addr, s.dcc] :: s.dbg.ring } }
  s.press (s.task g).die ⟨BitVec.ofNat 64 (1 + idx % 16 * 2 ^ 8 + imm.toNat * 2 ^ 32), g, s.dcc, addr⟩

/-- A halt that no entry and no DBG causes: the spec leaves its entry index open. -/
def State.haltFree (s : State) (g : Gtid) (addr : Word) : State :=
  let (w, s) := s.drawFree
  s.halt g (w.toNat % 16) 0 addr

/-- A word of a watch entry (R512). -/
def State.watch (s : State) (i w : Nat) : Word := s.reg (ioReg 0 3 (32 * i + 8 * w))

/-- R512: the first watch entry of a task that satisfies a test on its control word and address. -/
def State.watched (s : State) (g : Gtid) (p : Word → Word → Bool) : Option Nat :=
  (List.range 16).find? fun i => s.watch i 0 = g && g ≠ 0 && p (s.watch i 2) (s.watch i 1)

/-- R512, R513: the watch entry that halts a task before it issues the bundle at `a`. -/
def State.breakAt (s : State) (g : Gtid) (a : Word) : Option Nat :=
  s.watched g fun c b => c.getLsbD 0 && b &&& ~~~15 = a &&& ~~~15

/-- R152, R513, DBG: with halts enabled for the task it halts once the bundle has issued. -/
def execDbg (f : FmtI) (s : State) : Out :=
  s.guarded f.g fun s =>
    if (s.watched s.curGtid fun c _ => c.getLsbD 1).isSome then s.halt s.curGtid 15 f.imm s.curAddr else s

end Sys2Proof.Machine
end

