-- ==== Sys2Proof/Machine/Row.lean ====
section
/-! DEFINITION. Fetch, issue and execution of bundles on a row and on a binning core: which syllables a unit runs, in
what order, and what the end of the bundle does (R59, R74 to R78, R125, R127, R151, R174, R316 to R322, R342 to R354). -/

namespace Sys2Proof.Machine

/-! ### Words of a bundle -/

def majorOf (w : Word) : Nat := Word.field w 57 7

/-- The minor field of formats A and V. -/
def minorA (w : Word) : Nat := Word.field w 25 8
def minorV (w : Word) : Nat := Word.field w 12 8

/-- R189: the occupancy of a V syllable in cycles, from its encoding. -/
def vCycles (w : Word) : Nat :=
  match majorOf w, minorV w with
  | 0x40, 3 => 4
  | 0x41, _ => 4
  | 0x46, 1 => 2
  | 0x46, 2 => 2
  | 0x47, 0 => 4
  | 0x47, 1 => 8
  | 0x48, 2 => 2
  | 0x48, 3 => 2
  | 0x49, 0 => 2
  | 0x49, 1 => 8
  | 0x49, 2 => 16
  | _, _ => 1

/-- R190: on a row, the spacing a V syllable asks for. -/
def vSpacing (w : Word) : Nat := if w = 0 || (Word.field w 51 6 = 1) then 1 else vCycles w

/-- R317, R344: the cycles of a divide-class scalar syllable, 0 for any other. -/
def divCycles (w : Word) : Nat :=
  match majorOf w, minorA w with
  | 0x01, 5 => 16
  | 0x01, 6 => 16
  | 0x01, 7 => 16
  | 0x01, 8 => 16
  | 0x07, 3 => if Word.field w 21 4 = 1 then 24 else 16
  | 0x07, 4 => if Word.field w 21 4 = 1 then 24 else 16
  | _, _ => 0

/-- R73: does the syllable take the next position as its literal? -/
def takesLiteral (w : Word) : Bool := majorOf w = 0x03 || majorOf w = 0x35

/-- The guard of a word, read from a predicate file (R61). -/
def wordGuard (p : BitVec 32) (w : Word) : Bool := (p ||| 1).getLsbD (Word.field w 52 5) != w.getLsbD 51

/-! ### Fetch (R78, R129, R319) -/

/-- May the task fetch its next bundle? A task that waits for an answer fetches ahead (R344). -/
def State.fetchReady (s : State) (g : Gtid) : Bool :=
  let t := s.task g
  let ahead (c : Cause) : Bool := c = .reply || c = .tag || c = .sysc || c = .status || c = .release || c = .fetch || c = .hold
  (t.st = .running || ((t.st = .waiting || t.st = .parked) && t.causes.all ahead)) && t.startTick ≤ s.dcc && t.fetched.isNone &&
    !t.exited && t.redo.isEmpty && (if t.isRow then s.holdsRow t else match t.place with | .bc .. => true | _ => false)

/-- The instruction cache of a task's unit, and the lines it holds (R319, R342). -/
def icKey (t : Task) : Nat := if t.isRow then tlbSpine t else 32 + bcKey t.die t.bcNo
def icSize (k : Nat) : Nat := if k < 32 then 1024 else 256

/-- The words of a line in an instruction cache. -/
def State.icLine (s : State) (k pa : Nat) : Option (List Word) :=
  ((Tbl.get [] s.icache k).find? fun e => e.1 = pa / 128).map (·.2)

/-- A miss reads the line at its home and puts it into the cache; the oldest line goes. `n` words from `pa` on are checked. -/
def State.icFill (s : State) (g : Gtid) (k pa n : Nat) (noalloc : Bool) : Option Raised × State :=
  let bad (a : Nat) (y : Word) : Raised := { unit := 0, code := cMEMUE, detail := memueDetail a y }
  match s.reachLine g pa noalloc with
  | (some (a, y), s) => (some (bad a y), s)
  | (none, s) =>
    match s.checkWords g ((List.range n).map fun i => pa + 8 * i) with
    | (some (a, y), s) => (some (bad (ueAddr a) y), s)
    | (none, s) =>
      let l := (pa / 128, s.getWords (pa / 128 * 128) 16)
      (none, { s with icache := Tbl.set [] s.icache k ((l :: Tbl.get [] s.icache k).take (icSize k)) })

/-- A task takes the fault of a fetch at `pc` (R129, R335); one that fetches ahead finds it when it runs. -/
def State.fetchFault (s : State) (g : Gtid) (r : Raised) : State :=
  let t := s.task g
  if t.isRow then (if t.st = .running then s.takeRowFault g 8 { r with unit := 0, va := t.pc } t.pc false else s)
  else
    let s := s.modTask g fun t => t.release .fetch
    if (s.task g).st = .running then s.takeBcFault g { r with unit := 6, va := t.pc } t.pc (isTranslationCode r.code) else s

/-- R78: the whole bundle is fetched as one access, through the instruction cache; a thread whose fetch misses is parked until
the bundle arrives (R319). -/
def execBundleFetch (g : Gtid) (s : State) : Out :=
  .next (if !s.fetchReady g then s
  else
    let t := s.task g
    let n := if t.isRow then 4 else 2
    let k := icKey t
    match s.translate (if t.isRow then tlbSpine t else tlbBc t) g .fetch 0 t.pc (8 * n) with
    | (.error r, s) => s.fetchFault g r
    | (.ok l, s) =>
      match l with
      | [] => s
      | x :: _ =>
        if pageRemote x.w1 || windowOf x.pa ≠ .hbm then s.fetchFault g { unit := 0, code := cPERM }
        else
          let take (s : State) : State :=
            let ws := (s.icLine k x.pa).getD []
            let w (i : Nat) : Word := if i < n then ws.getD (x.pa % 128 / 8 + i) 0 else 0
            s.modTask g fun t => { t with fetched := some { addr := t.pc, w0 := w 0, w1 := w 1, w2 := w 2, w3 := w 3 } }.release .fetch
          if (s.icLine k x.pa).isSome then take s
          else if !t.isRow && !t.causes.contains .fetch then s.modTask g fun t => t.hold .fetch
          else
            match s.icFill g k x.pa n (pageNoalloc x.w1) with
            | (some r, s) => s.fetchFault g r
            | (none, s) => take s)

/-! ### The start of a bundle on a unit -/

/-- A unit starts on its syllables: what they read is fixed (R77, R346), and nothing is raised yet. -/
def State.beginUnit (s : State) (snap : Option (Task × Share)) (carried : Tbl Word) (l : List Item) : State :=
  { s with pending := l, snap := snap, carried := carried, raised := [], flagAcc := 0, vDests := [] }

/-- A scalar syllable to be executed again, alone (R322, R352). -/
def redoItem (u : Agent) (r : Redo) : Item :=
  { unit := u, addr := r.addr, isV := false, isE := false, word := 0, lit := 0, instr := some r.instr }

/-- The context that a syllable executed again reads: the registers as they stood before its bundle (R77). -/
def Task.asBefore (t : Task) (b : Option Before) : Task :=
  match b with
  | none => t
  | some b => { t with r := b.r, p := b.p, fmode := b.fmode, vshape := b.vshape, vcarry := b.vcarry, vec := b.vec }

/-- R513: does a breakpoint hold back the next bundle? -/
def State.broken (s : State) (g : Gtid) : Bool :=
  let t := s.task g
  !t.brkPast &&
    match t.fetched with
    | none => false
    | some f => (s.breakAt g f.addr).isSome

/-- R461: is the gang of a task being saved? Its tasks then issue nothing further. -/
def State.saving (s : State) (t : Task) : Bool :=
  match Tbl.get none s.sched.launches t.launch with
  | none => false
  | some l =>
    match l.gangs[t.gang]? with
    | none => false
    | some x => x.st = .saving

/-- May the Spine issue, as far as the task goes (R41, R344, R362, R456, R508)? -/
def State.spineFree (s : State) (t : Task) : Bool :=
  t.isRow && t.st = .running && s.holdsRow t && t.memOp.isNone && t.retry.isNone && t.startTick ≤ s.dcc && !s.saving t &&
    !s.withheld 0 t

/-- R344, R345, R362: is the next bundle of the context ready to issue in this cycle? -/
def State.spineReady (s : State) (g : Gtid) : Bool :=
  let t := s.task g
  s.spineFree t && t.redo.isEmpty && t.fetched.isSome && !t.exited && t.issueAt ≤ t.rowCycle && t.wave.length < 17 &&
    !s.broken g

/-- The wavefront entry of a bundle that issues (R345, R346). -/
def waveOf (t : Task) (f : Fetched) : WaveEntry :=
  { idx := t.bundleIdx, addr := f.addr, m := if majorOf f.w0 = 0x03 then 0 else f.w1, v := f.w2, e := f.w3,
    issued := t.rowCycle, carried := t.r, csr := [], done := 0 }

/-- R343, R344, R352: the Spine issues the next bundle and starts on its X syllable; a syllable that a fault or a release
has held back executes alone first. -/
def execSpineIssue (g : Gtid) (s : State) : Out :=
  let t := s.task g
  .next (if !s.pending.isEmpty then s
  else if s.spineFree t && !t.redo.isEmpty then
    match t.redo with
    | [] => s
    | r :: l => (s.modTask g fun t => { t with redo := l }).beginUnit none [] [redoItem (.spine g) r]
  else if !s.spineReady g then s
  else
    match t.fetched with
    | none => s
    | some f =>
      let s := s.modTask g fun t =>
        { t with wave := t.wave ++ [waveOf t f], bundleIdx := t.bundleIdx + 1, fetched := none, nextPc := none, brkPast := false }
      s.beginUnit none [] [{ unit := .spine g, addr := f.addr, isV := false, isE := false, word := f.w0, lit := f.w1 }])

/-- Is the task held by a fault, a watchdog expiry or a halt? -/
def Task.frozenNow (t : Task) : Bool := t.causes.any fun c => c = .fault || c = .watchdog || c = .halt

/-- R343, R354: the entry core `c` executes now: the one of age 2 + 2c, or, in the catch-up cycle, the one whose syllables
a fault suppressed; another core may have faulted again in that cycle. -/
def State.dueEntry (s : State) (g : Gtid) (c : Nat) : Option WaveEntry :=
  let t := s.task g
  match t.wave.find? fun e => e.idx = (s.share g c).nextIdx && !e.done.getLsbD c with
  | none => none
  | some e =>
    if t.catchUp.getLsbD c then (if (t.frozenNow && t.frozeAt ≠ s.cycle) || !s.holdsRow t then none else some e)
    else if t.rowCycle = e.issued + 2 + 2 * c then some e
    else none

/-- The syllables of a bundle on a core: M, V and E, a literal position apart (R73). -/
def coreItems (g : Gtid) (c : Nat) (e : WaveEntry) : List Item :=
  let it (v x : Bool) (w l : Word) : Item := { unit := .core g c, addr := e.addr, isV := v, isE := x, word := w, lit := l }
  if majorOf e.m = 0x35 then [it false false e.m e.v, it false true e.e 0]
  else [it false false e.m 0, it true false e.v 0, it false true e.e 0]

/-- R343: core `c` executes the M, V and E syllables of the bundle due to it. -/
def execCoreExecute (g : Gtid) (c : Nat) (s : State) : Out :=
  .next (if !s.pending.isEmpty || 8 ≤ c then s
  else
    match s.dueEntry g c with
    | none => s
    | some e => { s.beginUnit (some (s.task g, s.share g c)) e.carried (coreItems g c e) with spClaims := some [] })

/-- The bytes that a syllable of major 0x09 reads or writes (R130). -/
def memBytes (min : Nat) (f : FmtM) : Nat := if 12 ≤ min then widthOf f else if min = 6 then 8 else 2 ^ (if min < 8 then min / 2 else min - 8)

/-- R323, R326: the entries of its BC's request queue that the S syllable of a thread needs, at most the 64 there are. -/
def State.bcNeed (s : State) (g : Gtid) (e : Enc) : Nat :=
  let s := { s with cur := .bc g, snap := none }
  let words (a : Word) (n : Nat) : Nat := (a.toNat % 8 + n + 7) / 8
  match e with
  | .m maj min f =>
    if !s.guardTrue f.g then 0
    else if maj = 0x09 then words (s.ea f) (memBytes min.toNat f)
    else if maj = 0x11 then min' 64 ((s.rowRuns f (s.vctx 0) (min = 2)).map fun r => words r.1 r.2).sum
    else if maj = 0x0A || maj = 0x0C then 1
    else 0
  | .a maj min _ f => if maj = 0x0F && (min = 3 || min = 4) && s.guardTrue f.g then 1 else 0
  | _ => 0
where
  min' (a b : Nat) : Nat := min a b

/-- Has the request queue of a thread's BC the entries that a syllable needs? -/
def State.bcRoom (s : State) (g : Gtid) (e : Option Enc) : Bool :=
  match e with
  | none => true
  | some e => s.bcQueued (bcKey (s.task g).die (s.task g).bcNo) + s.bcNeed g e ≤ 64

/-- R324: the requests of a thread that it does not wait for, remote ones included. -/
def Task.openRequests (t : Task) : Nat := t.unacked + (t.remoteOut.map (·.2)).sum

/-- R316: is a binning thread ready? -/
def State.bcReady (s : State) (g : Gtid) : Bool :=
  let t := s.task g
  let k := bcKey t.die t.bcNo
  !t.isRow && t.st = .running && (match t.place with | .bc .. => true | _ => false) && t.memOp.isNone && t.retry.isNone &&
    t.readyAt ≤ s.cycle && t.startTick ≤ s.dcc && !s.saving t && !s.withheld 1 t && t.openRequests < 16 &&
    match t.redo with
    | r :: _ => s.bcRoom g r.instr.enc
    | [] =>
      !t.exited && !s.broken g &&
        match t.fetched with
        | none => false
        | some f =>
          (takesLiteral f.w0 || f.w1 = 0 || Tbl.get 0 s.bcVec k ≤ s.cycle) && (divCycles f.w0 = 0 || Tbl.get 0 s.bcDiv k ≤ s.cycle) &&
            s.bcRoom g (parse f.w0 f.w1)

/-- R318: a thread issues: its V syllable runs first, then its S syllable, both on the registers as they stood (R77). -/
def execBcIssue (g : Gtid) (s : State) : Out :=
  let t := s.task g
  .next (if !s.pending.isEmpty || !s.bcReady g then s
  else
    match t.redo with
    | r :: l =>
      let s := s.modTask g fun t => { t with redo := l, lastIssue := s.cycle + 1, readyAt := s.cycle + 8 }
      { s.beginUnit (some ((s.task g).asBefore r.before, {})) [] [redoItem (.bc g) r] with vDests := r.vDests }
    | [] =>
      match t.fetched with
      | none => s
      | some f =>
        let lit := takesLiteral f.w0
        let cS := if wordGuard t.p f.w0 then divCycles f.w0 else 0
        let cV := if lit || f.w1 = 0 || !wordGuard t.p f.w1 then 1 else vCycles f.w1
        let k := bcKey t.die t.bcNo
        let s := s.modTask g fun t => { t with lastIssue := s.cycle + 1, readyAt := s.cycle + max 8 (max cS cV), nextPc := none, brkPast := false }
        let s := { s with bcVec := if lit || f.w1 = 0 then s.bcVec else Tbl.set 0 s.bcVec k (s.cycle + cV),
                          bcDiv := if cS = 0 then s.bcDiv else Tbl.set 0 s.bcDiv k (s.cycle + cS) }
        let it (v : Bool) (w l : Word) : Item := { unit := .bc g, addr := f.addr, isV := v, isE := false, word := w, lit := l }
        s.beginUnit (some (s.task g, {})) [] ((if lit then [] else [it true f.w1 0]) ++ [it false f.w0 f.w1]))

/-! ### Running one syllable -/

/-- The unit and position that decode an item. -/
def State.itemUnit (s : State) (it : Item) : Pos × UnitKind :=
  match it.unit with
  | .core _ _ => (if it.isE then .e else if it.isV then .v else .m, .core)
  | .bc g => (if it.isV then .v else .s, .bc (256 / (s.task g).bcMode))
  | _ => (.x, .spine)

/-- R580: the UNIT of a fault found in the E position, by the major of its word. -/
def eUnitOf (w : Word) : Nat :=
  match majorOf w with
  | 0x60 => 3
  | 0x61 => 4
  | 0x62 => 5
  | 0x63 => 8
  | 0x64 => 2
  | _ => 1

/-- The head of the syllables still to run becomes the one that runs. -/
def State.takeItem (s : State) (it : Item) (rest : List Item) : State :=
  { s with pending := rest, cur := it.unit, curAddr := it.addr, curE := it.isE, curV := it.isV }

/-- What an item decodes to: an item that executes again holds its instruction. -/
noncomputable def State.itemInstr (s : State) (it : Item) : Except Fate Instr :=
  match it.instr with
  | some i => .ok i
  | none => decode (s.itemUnit it).1 (s.itemUnit it).2 it.word it.lit

/-- R322: on a binning thread, the S syllable of a bundle whose V syllable has faulted does not execute. -/
def State.skipItem (s : State) (it : Item) : Bool :=
  match it.unit with
  | .bc _ => !it.isV && !s.raised.isEmpty
  | _ => false

/-! ### The end of a bundle -/

/-- R127: the loop check for a bundle at `q`, from level `L - 1` down. -/
def loopCheck (t : Task) (q : Word) : Nat → Task × Word
  | 0 => (t, q + 32)
  | L + 1 =>
    let l := Tbl.get {} t.loops L
    if l.act && l.le = q then
      if 1 < l.lc.toNat then ({ t with loops := Tbl.set {} t.loops L { l with lc := l.lc - 1 } }, l.ls)
      else loopCheck { t with loops := Tbl.set {} t.loops L { l with act := false } } q L
    else loopCheck t q L

/-- R125, R127: the Spine's PC after a bundle. -/
def Task.advance (t : Task) (q : Word) : Task :=
  match t.nextPc with
  | some w => { t with pc := w, nextPc := none }
  | none => let (t, w) := loopCheck t q 4; { t with pc := w }

/-- R344: the least row cycle of the next issue after the bundle of an entry; `x` is its X syllable, 0 where the guard is false. -/
def issueAfter (e : WaveEntry) (x : Word) (taken : Bool) : Nat :=
  e.issued + max (max (if taken then 2 else 1) (divCycles x)) (if majorOf e.m = 0x35 then 1 else vSpacing e.v)

/-- The end of a bundle on the Spine (R127, R133, R352): a fault leaves the syllable to be executed again alone, unless it
is TRAP's, whose bundle counts as completed (R152). -/
def State.endSpine (s : State) (g : Gtid) (it : Item) (i : Option Instr) : State :=
  let s := if it.instr.isSome then s
    else s.modTask g fun t =>
      let at' := match t.wave.getLast? with
        | none => t.issueAt
        | some e => issueAfter e (if wordGuard t.p it.word then it.word else 0) t.nextPc.isSome
      { t.advance it.addr with issueAt := at' }
  let s := if !it.instr.isSome && (s.task g).stepping then s.haltFree g it.addr else s
  match s.raised with
  | [] => s
  | r :: _ =>
    let again : Redo := { addr := it.addr, instr := i.getD .nop }
    let s := if r.code = cTRAP then s
      else s.modTask g fun t => { t with redo := if it.instr.isSome then again :: t.redo else t.redo ++ [again] }
    { s with raised := [] }.takeRowFault g 8 r it.addr false

/-- The fault of least UNIT (R59). -/
def leastUnit (r : Raised) : List Raised → Raised
  | [] => r
  | x :: l => leastUnit (if x.unit < r.unit then x else r) l

/-- The CSR writes of a bundle take effect on a core (R151). -/
def applyCsr (h : Share) (c : Nat) (l : List CsrWrite) : Share :=
  l.foldl (fun h w => if w.all || w.core = c then h.setCsr w.num w.op w.val else h) h

/-- Entries that every core has executed leave the wavefront (R345). -/
def dropDone (w : List WaveEntry) : List WaveEntry := w.filter fun e => e.done ≠ BitVec.allOnes 8

/-- The end of a bundle on a core. With a fault none of its syllables has executed there (R351), and the core is to catch up
(R354); otherwise the carried CSR writes take effect, then the flags (R151, R174). Two syllables with one UNIT set MORE (DEDUCED,
log entry 9). -/
def State.endCore (s : State) (g : Gtid) (c : Nat) (it : Item) : State :=
  let bit : BitVec 8 := BitVec.twoPow 8 c
  match s.raised with
  | r :: l =>
    let f := leastUnit r l
    let s := match s.snap with
      | some (_, h) => s.setShare g c h
      | none => s
    let s := { s with raised := [] }.takeRowFault g c f it.addr (!l.isEmpty)
    s.modTask g fun t => { t with catchUp := t.catchUp ||| bit,
                                  frame := t.frame ++ ((r :: l).filter (· ≠ f)).map fun x => (c, x) }
  | [] =>
    let idx := (s.share g c).nextIdx
    let csr := match (s.task g).wave.find? fun e => e.idx = idx with
      | some e => e.csr
      | none => []
    let was := match s.snap with
      | some (_, h) => h
      | none => s.share g c
    let s := s.modShare g c fun h =>
      let h := applyCsr h c csr
      { h with fmode := h.fmode ||| s.flagAcc, nextIdx := idx + 1, past := (was.pastOf idx :: h.past).take 20 }
    s.modTask g fun t =>
      { t with catchUp := t.catchUp &&& ~~~bit,
               wave := dropDone (t.wave.map fun e => if e.idx = idx then { e with done := e.done ||| bit } else e) }

/-- The task of the bundle as it stood before it, but for the requests that answers have ended and a failure that has been
told. A syllable executed again alone has written nothing. -/
def State.undoTask (s : State) (g : Gtid) (it : Item) : State :=
  match s.snap, it.instr with
  | some (t, _), none =>
    let u := s.task g
    s.setTask g { t with remoteFail := u.remoteFail, remoteOut := u.remoteOut, unacked := u.unacked }
  | _, _ => s

/-- A syllable executed again alone that has met a fault, or must migrate, is to be executed again. -/
def State.backRedo (s : State) (t : Task) (it : Item) (i : Option Instr) : List Redo :=
  if it.instr.isSome then { s.redoOf (i.getD .nop) with addr := it.addr } :: t.redo else t.redo

/-- The end of a bundle on a binning thread (R322, R330, R335): a fault found at issue leaves neither syllable executed,
and so does a migration; TRAP's bundle counts as completed (R152). -/
def State.endBc (s : State) (g : Gtid) (it : Item) (i : Option Instr) : State :=
  let alone := it.instr.isSome
  match (s.task g).migTo with
  | some b =>
    (s.undoTask g it).modTask g fun t =>
      { t with migTo := some b, migAt := s.cycle, brkPast := true, redo := s.backRedo t it i }.hold .migration
  | none =>
    let go (s : State) : State :=
      s.modTask g fun t =>
        let t := { t with fmode := t.fmode ||| s.flagAcc }
        if alone then t
        else { t with pc := t.nextPc.getD (it.addr + 16), nextPc := none, fetched := none }
    match s.raised with
    | [] => go s
    | r :: l =>
      let f := leastUnit r l
      if f.code = cTRAP then { go s with raised := [] }.takeBcFault g f it.addr false
      else
        let s := (s.undoTask g it).modTask g fun t => { t with brkPast := true, redo := s.backRedo t it i }
        { s with raised := [] }.takeBcFault g f it.addr (isTranslationCode f.code && !f.hard)

/-- The end of a bundle on the unit that has run its last syllable `it`, which decoded to `i`. -/
def State.endBundle (s : State) (it : Item) (i : Option Instr) : State :=
  if !s.pending.isEmpty then s
  else
    let s := match it.unit with
      | .spine g => s.endSpine g it i
      | .core g c => s.endCore g c it
      | .bc g =>
        let s := s.endBc g it i
        if !it.instr.isSome && (s.task g).stepping then s.haltFree g it.addr else s
      | .none => s
    { s.takePorts with snap := none, carried := [], flagAcc := 0, vDests := [], cur := .none, curAddr := 0, curE := false, curV := false }

end Sys2Proof.Machine
end

