-- ==== Sys2Proof/Machine/Rotor.lean ====
section
/-! DEFINITION. Rotor arithmetic: rows that share an exponent, alignment, vectoring, rotation, gain compensation, and the
two views of a triangular register (R164 to R168, R253, R257 to R263). -/

namespace Sys2Proof.Machine

/-- R167: the depth of a code; 0 where the code is none. -/
def depthOf (code : Nat) : Nat :=
  match code with
  | 1 => 8
  | 2 => 16
  | 3 => 24
  | 4 => 32
  | 6 => 48
  | 7 => 56
  | _ => 0

/-- R257: the compensation constant of a depth. -/
def gainConst (n : Nat) : Nat :=
  match n with
  | 8 => 0x136EAAA970B20EF8
  | 16 => 0x136E9DB515603470
  | 24 => 0x136E9DB5086BD841
  | _ => 0x136E9DB5086BCB4D

/-- R259: an arithmetic shift that truncates toward -∞. -/
def asrInt (w : Int) (k : Nat) : Int := w / 2 ^ (min k 63)

/-- Mantissas that share an exponent. -/
structure QRow where
  ws : List Int
  e : Int

def QRow.isZero (r : QRow) : Bool := r.ws.all (· = 0)

/-- The largest magnitude of a list. -/
def largestOf (l : List Int) : Nat := l.foldl (fun m w => max m w.natAbs) 0

/-- R259: a row renormalised, and whether its exponent was clamped. -/
def QRow.renorm (r : QRow) : QRow × Bool :=
  let M := largestOf r.ws
  if M = 0 then ({ r with e := 0 }, false)
  else
    let k : Int := 60 - Nat.log2 M
    let e := r.e - k
    let ws := r.ws.map fun w => if k < 0 then asrInt w (-k).toNat else w * 2 ^ k.toNat
    if e < -32768 then ({ ws := ws, e := -32768 }, true)
    else if 32767 < e then ({ ws := ws, e := 32767 }, true)
    else ({ ws := ws, e := e }, false)

/-- R260: two rows brought to a common exponent. -/
def alignRows (x y : QRow) : QRow × QRow :=
  if x.isZero && y.isZero then ({ x with e := 0 }, { y with e := 0 })
  else if x.isZero then ({ x with e := y.e }, y)
  else if y.isZero then (x, { y with e := x.e })
  else
    let e := max x.e y.e
    ({ ws := x.ws.map fun w => asrInt w (e - x.e).toNat, e := e }, { ws := y.ws.map fun w => asrInt w (e - y.e).toNat, e := e })

/-- ⌊log₂ |y|⌋ of a finite value that is not zero. -/
def valLog (y : FVal) : Int :=
  match y with
  | .fin _ m e => Nat.log2 m + e
  | _ => 0

def FVal.isZero : FVal → Bool
  | .fin _ m _ => m = 0
  | _ => false

def FVal.isFinite : FVal → Bool
  | .fin .. => true
  | _ => false

/-- R258: a row of values enters: its mantissas and exponent, and whether it held a NaN or an infinity. -/
def enterRow (l : List FVal) : QRow × Bool :=
  if !l.all FVal.isFinite then ({ ws := l.map fun _ => 0, e := 0 }, true)
  else
    let nz := l.filter (!·.isZero)
    match nz with
    | [] => ({ ws := l.map fun _ => 0, e := 0 }, false)
    | y :: r =>
      let F := r.foldl (fun b z => max b (valLog z)) (valLog y) + 1
      ({ ws := l.map fun v => match v with
          | .fin n m e => (roundInt 0 n m (e + 61 - F)).1
          | _ => 0,
         e := F }, false)

/-- R168. -/
def prerotate (q : Nat) (x y : Int) : Int × Int :=
  match q with
  | 0 => (x, y)
  | 1 => (y, -x)
  | 2 => (-x, -y)
  | _ => (-y, x)

/-- One micro-rotation of sign `sg` at place `i`. -/
def microRot (pos : Bool) (i : Nat) (x y : Int) : Int × Int :=
  if pos then (x - asrInt y i, y + asrInt x i) else (x + asrInt y i, y - asrInt x i)

/-- R261, the loop: the sign bits chosen from place `i` on. -/
def vectorBits : Nat → Nat → Int → Int → Nat
  | 0, _, _, _ => 0
  | n + 1, i, x, y =>
    let pos := y < 0
    let p := microRot pos i x y
    (if pos then 2 ^ i else 0) + vectorBits n (i + 1) p.1 p.2

/-- The word of a null rotation (R166). -/
def nullRot : Word := 0x8000000000000000

/-- R261: vectoring of an aligned pair, at the depth of a code. -/
def vectorPair (code : Nat) (x y : Int) : Word :=
  if y = 0 then nullRot
  else
    let q := if 0 < x && (y.natAbs : Int) ≤ x then 0 else if x < 0 && (y.natAbs : Int) ≤ -x then 2 else if 0 < y then 1 else 3
    let p := prerotate q x y
    BitVec.ofNat 64 (q * 2 ^ 61 + code * 2 ^ 56 + vectorBits (depthOf code) 0 p.1 p.2)

/-- The micro-rotations of a word on a pair, from place `i` on. -/
def rotSteps (W : Word) : Nat → Nat → Int × Int → Int × Int
  | 0, _, p => p
  | n + 1, i, p => rotSteps W n (i + 1) (microRot (W.getLsbD i) i p.1 p.2)

/-- R262: a word that rotates, on one pair. -/
def rotPair (W : Word) (x y : Int) : Int × Int :=
  rotSteps W (depthOf (Word.field W 56 5)) 0 (prerotate (Word.field W 61 2) x y)

/-- R262, R167: does the word rotate? -/
def rotates (W : Word) : Bool := !W.getLsbD 63 && depthOf (Word.field W 56 5) ≠ 0

/-- R262 on rows. -/
def rotRows (W : Word) (x y : QRow) : QRow × QRow :=
  let ps := (x.ws.zip y.ws).map fun p => rotPair W p.1 p.2
  ({ x with ws := ps.map (·.1) }, { y with ws := ps.map (·.2) })

/-- A product with C_n / 2^61, rounded to even (R263). -/
def timesGain (n : Nat) (w : Int) : Int := (roundInt 0 (w < 0) (w.natAbs * gainConst n) (-61)).1

def QRow.compensate (r : QRow) (n : Nat) : QRow := { r with ws := r.ws.map (timesGain n) }

/-! ### Triangular registers (R253) -/

/-- The storage position of element (i, j) in the triangle view and in the panel view. -/
def triPos (i j : Nat) : Nat := 32 * i - i * (i - 1) / 2 + (j - i)
def panelPos (r j : Nat) : Nat := 32 * r + j

def TriReg.exp (t : TriReg) (i : Nat) : Int := (Tbl.get 0 t.e i).toInt

def TriReg.mant (t : TriReg) (p : Nat) : Int := (Tbl.get 0 t.w p).toInt

/-- Row `i` over the columns `lo` to `lo + n - 1`. -/
def TriReg.row (t : TriReg) (pos : Nat → Nat → Nat) (i lo n : Nat) : QRow :=
  { ws := (List.range n).map fun j => t.mant (pos i (lo + j)), e := t.exp i }

def TriReg.setMants (t : TriReg) (pos : Nat → Nat → Nat) (i : Nat) : Nat → List Int → TriReg
  | _, [] => t
  | j, w :: r => ({ t with w := Tbl.set 0 t.w (pos i j) (BitVec.ofInt 64 w) } : TriReg).setMants pos i (j + 1) r

def TriReg.setRow (t : TriReg) (pos : Nat → Nat → Nat) (i lo : Nat) (r : QRow) : TriReg :=
  ({ t with e := Tbl.set 0 t.e i (BitVec.ofInt 16 r.e) } : TriReg).setMants pos i lo r.ws

/-- The sticky bits of R254. -/
def TriReg.note (t : TriReg) (bits : Word) (b : Bool) : TriReg := if b then { t with status := t.status ||| bits } else t

def stMM : Word := 1
def stBADIN : Word := 2
def stSING : Word := 4
def stEXPS : Word := 8
def stPLAN : Word := 16

/-- A row renormalised and stored. -/
def TriReg.putRenorm (t : TriReg) (pos : Nat → Nat → Nat) (i lo : Nat) (r : QRow) : TriReg :=
  let (r, clamped) := r.renorm
  (t.setRow pos i lo r).note stEXPS clamped

/-- The value of an element as a float (R164). -/
def rotorVal (w e : Int) : FVal := .fin (w < 0) w.natAbs (e - 61)

/-! ### Triangularisation (R268) -/

/-- One stream row through boundary cell `i` and its inner cells; `y` holds its columns from `i` on. -/
def TriReg.absorb (t : TriReg) (code : Nat) (i n : Nat) (y : QRow) : Word × QRow × TriReg :=
  let (X, Y) := alignRows (t.row triPos i i n) y
  let W := vectorPair code (X.ws.headD 0) (Y.ws.headD 0)
  if W = nullRot then (W, { y with ws := y.ws.tail }, t)
  else
    let (X, Y) := rotRows W X Y
    let d := depthOf code
    let t := t.putRenorm triPos i i (X.compensate d)
    let (Y, clamped) := (QRow.compensate { Y with ws := Y.ws.tail } d).renorm
    (W, Y, t.note stEXPS clamped)

/-- The rows of the triangle from `i` on: the angle words, first row first, and the register. -/
def TriReg.absorbRows (t : TriReg) (code : Nat) : Nat → Nat → QRow → List Word × TriReg
  | 0, _, _ => ([], t)
  | n + 1, i, y =>
    let (W, y, t) := t.absorb code i (n + 1) y
    let (ws, t) := t.absorbRows code n (i + 1) y
    (W :: ws, t)

/-! ### Rotations of panel rows (R263, R270, R271) -/

/-- A gain count that rises by one. -/
def TriReg.count (t : TriReg) (i : Nat) : TriReg :=
  let g := Tbl.get 0 t.gn i
  if g = 0xFFFF then t.note stMM true else { t with gn := Tbl.set 0 t.gn i (g + 1) }

/-- R270: a word is applied to rows P and Q over columns 0 to c - 1; `code` is qcfg's depth. -/
def TriReg.applyWord (t : TriReg) (W : Word) (P Q c code : Nat) (deferred : Bool) (zero : Option Nat := none) : TriReg :=
  if !rotates W then t
  else
    let (X, Y) := alignRows (t.row panelPos P 0 c) (t.row panelPos Q 0 c)
    let (X, Y) := rotRows W X Y
    let Y := match zero with
      | none => Y
      | some k => { Y with ws := Y.ws.set k 0 }
    let d := depthOf (Word.field W 56 5)
    if deferred then
      (((t.putRenorm panelPos P 0 X).putRenorm panelPos Q 0 Y).count P).count Q |>.note stMM (Word.field W 56 5 ≠ code)
    else (t.putRenorm panelPos P 0 (X.compensate d)).putRenorm panelPos Q 0 (Y.compensate d)

/-! ### Back-substitution (R272) -/

/-- The linear mode: the quotient of `y` by `A`, place by place. -/
def divSteps (A : Int) : Nat → Nat → Int → Int → Int
  | 0, _, _, z => z
  | n + 1, q, y, z =>
    if (decide (0 ≤ y)) = (decide (0 < A)) then divSteps A n (q + 1) (y - asrInt A q) (z + 2 ^ (61 - q))
    else divSteps A n (q + 1) (y + asrInt A q) (z - 2 ^ (61 - q))

/-- The unknown of row `i`, given those below it: its value m × 2^e, and whether the pivot is zero. -/
def TriReg.unknown (t : TriReg) (depth N k i : Nat) (xs : List (Int × Int)) : (Int × Int) × Bool :=
  let v (j : Nat) : FVal := rotorVal (t.mant (triPos i j)) (t.exp i)
  let s := (xs.zip (List.range xs.length)).foldl (fun s x =>
    addVal s (mulVal (v (i + 1 + x.2)) (.fin (0 ≤ x.1.1) x.1.1.natAbs x.1.2))) (v (N + k))
  let (b, _) := enterRow [s]
  let (a, _) := ({ ws := [t.mant (triPos i i)], e := t.exp i } : QRow).renorm
  let A := a.ws.headD 0
  let B := b.ws.headD 0
  if A = 0 then ((0, 0), true)
  else if B = 0 then ((0, 0), false)
  else ((divSteps A depth 0 (asrInt B 1) 0, b.e + 1 - a.e - 61), false)

end Sys2Proof.Machine
end

