-- ==== Sys2Proof/Machine/Whisk.lean ====
section
/-! DEFINITION. The Whisk, engine QR: its syllables, the start of an instruction and its steps (R251 to R274). -/

namespace Sys2Proof.Machine

/-! ### qcfg (R255) -/

def qCols (q : Word) : Nat := Word.field q 0 6
def qNrhs (q : Word) : Nat := Word.field q 8 4
def qDepth (q : Word) : Nat := Word.field q 12 5
def qIfmt (q : Word) : Nat := Word.field q 17 4
def qOfmt (q : Word) : Nat := Word.field q 21 4
def qGm (q : Word) : Bool := q.getLsbD 25

/-- R256. -/
def qcfgValid (q : Word) : Bool :=
  1 ≤ qIfmt q && qIfmt q ≤ 4 && 1 ≤ qOfmt q && qOfmt q ≤ 4 && depthOf (qDepth q) ≠ 0 && 1 ≤ qCols q && qCols q ≤ 32 &&
    qNrhs q ≤ 8 && qNrhs q < qCols q

/-! ### The syllables (R267 to R274) -/

/-- R256, R264: the core checks qcfg, and hands the command to QR. -/
def State.issueQr (s : State) (op : EngOp) (f : FmtE) : Out :=
  s.guarded f.g fun s =>
    let q := s.rdShare.qcfg
    if !qcfgValid q || (qGm q && (op = .qtri || op = .qang || op = .qsolve)) then s.raiseCode 4 cILLOP
    else s.issueCmd (s.cmdOf op f)

/-- R267: qcfg is written with the bundle's results; the engine has nothing to do. -/
def execQcfg (f : FmtE) (s : State) : Out :=
  s.guarded f.g fun s =>
    let v := s.opA f &&& qcfgRw
    (s.modCurShare fun h => { h with qcfg := v }).issueCmd (s.cmdOf .qcfg f)

/-- R268. -/
def execQtri (f : FmtE) (s : State) : Out := s.issueQr .qtri f
/-- R270. -/
def execQapply (f : FmtE) (s : State) : Out := s.issueQr .qapply f
/-- R271. -/
def execQang (f : FmtE) (s : State) : Out := s.issueQr .qang f
/-- R270. -/
def execQrot (f : FmtE) (s : State) : Out := s.issueQr .qrot f
/-- R272. -/
def execQsolve (f : FmtE) (s : State) : Out := s.issueQr .qsolve f
/-- R273. -/
def execQgain (f : FmtE) (s : State) : Out := s.issueQr .qgain f
/-- R274. -/
def execQldt (f : FmtE) (s : State) : Out := s.issueQr .qldt f
/-- R274. -/
def execQstt (f : FmtE) (s : State) : Out := s.issueQr .qstt f

/-! ### Start (R264) -/

/-- R358: does QR, which works on one instruction at a time, work for the other context of the row? -/
def State.qrElsewhere (s : State) (g : Gtid) (c : Nat) : Bool :=
  match s.partner (s.task g) with
  | none => false
  | some q => s.engineOn q c && (s.share q c).qrRun.isSome

/-- May the oldest command of QR start? -/
def State.qrCanStart (s : State) (g : Gtid) (c : Nat) : Bool :=
  let h := s.share g c
  s.engineFree g c 2 && h.qrRun.isNone && !s.qrElsewhere g c &&
    match h.qrq with
    | [] => false
    | cmd :: _ => h.canPop 2 cmd.f

/-- R264: the oldest QR instruction of a core starts, taking its pops. -/
def execQrStart (g : Gtid) (c : Nat) (s : State) : Out :=
  let h := s.share g c
  .next (if !s.qrCanStart g c then s
  else
    match h.qrq with
    | [] => s
    | cmd :: rest => s.setShare g c { ({ h with qrq := rest }.takePops 2 cmd.f) with qrRun := some { cmd := cmd, phase := 1, due := s.cycle } })

/-! ### Steps -/

/-- The register an instruction works on: MOD[1:0]. -/
def Cmd.tNo (c : Cmd) : Nat := c.f.mod.toNat % 4

def Share.treg (h : Share) (c : Cmd) : TriReg := Tbl.get {} h.t c.tNo

def Share.setT (h : Share) (c : Cmd) (t : TriReg) : Share := { h with t := Tbl.set {} h.t c.tNo t }

/-- QR of a core takes a fault; the step is repeated on resume (R265, R266). -/
def State.qrFault (s : State) (g : Gtid) (c : Nat) (cmd : Cmd) (r : Raised) : State := s.takeRowFault g c r cmd.addr false

/-- A step that takes `n` cycles is done: the instruction goes on at `r` after them, or retires in the last of them (PHASE 2
until then). -/
def State.qrNext (s : State) (g : Gtid) (c : Nat) (r : Running) (more : Bool) (n : Nat := 1) : State :=
  s.modShare g c fun h =>
    if more then { h with qrRun := some { r with due := s.cycle + n } }
    else if n ≤ 1 then { h with qrRun := none }.retire 2 r.cmd.seq
    else { h with qrRun := some { r with phase := 2, due := s.cycle + n - 1 } }

/-- R252: the cycles of a rotation at the depth of a code; 1 where the code names no depth. -/
def rotCycles (code : Nat) : Nat := max 1 (depthOf code / 8)

/-- `n` float elements of a value, the first lowest. -/
def floatsOf (fmt v n : Nat) : List FVal := (List.range n).map fun j => fDecode (floatFmt fmt) (elemBits (fmtBits fmt) v j)

/-- R269: the angle words of a row that is read now: word `i` is recorded in the last cycle of cell (i, i)'s work on it. -/
def angleWords (cmd : Cmd) (now d : Nat) (off : Word) (ws : List Word) : List QrWord :=
  ((List.range ws.length).zip ws).map fun e =>
    { cmd := cmd, due := now + d * (2 * e.1 + 1) - 1, off := off + BitVec.ofNat 64 (8 * e.1), w := e.2 }

/-- The angle words due by cycle `now` are recorded, in order; a write that faults is made again after the resume (fuel: the
words). -/
def State.recordAngles (s : State) (g : Gtid) (c now : Nat) (on : Bool) : Nat → State
  | 0 => s
  | n + 1 =>
    match (s.share g c).qrFly.find? fun x => x.due ≤ now && (on || !x.bad) with
    | none => s
    | some x =>
      match s.spStore g c 4 x.off.toNat 8 x.w.toNat with
      | (.error e, s) =>
        let s := s.modShare g c fun h => { h with qrFly := h.qrFly.map fun y => if y = x then { y with bad := true } else y }
        if on then s.qrFault g c x.cmd e else s.recordAngles g c now on n
      | (.ok _, s) => (s.modShare g c fun h => { h with qrFly := h.qrFly.erase x }).recordAngles g c now on n

/-- R265: the rows in the array complete before the state of a core is saved. -/
def State.landAngles (s : State) (g : Gtid) (c : Nat) : State :=
  let l := (s.share g c).qrFly
  s.recordAngles g c ((l.map (·.due)).foldl max 0) false l.length

/-- R268: a stream row of QTRI. -/
def State.qtriStep (s : State) (g : Gtid) (c : Nat) (r : Running) : State :=
  let cmd := r.cmd
  let q := cmd.qcfg
  let m := Word.field cmd.b 32 16
  let cols := qCols q
  let s := if r.row = 0 && cmd.f.mod.getLsbD 2 then s.modShare g c fun h => h.setT cmd {} else s
  if m ≤ r.row then s.qrNext g c r false
  else
    match s.spLoad g c 4 (cmd.a + BitVec.ofNat 64 (r.row * Word.field cmd.b 0 32)).toNat (cols * (fmtBits (qIfmt q) / 8)) with
    | (.error e, s) => s.qrFault g c cmd e
    | (.ok v, s) =>
      let (y, bad) := enterRow (floatsOf (qIfmt q) v cols)
      let (ws, t) := (((s.share g c).treg cmd).note stBADIN bad).absorbRows (qDepth q) cols 0 y
      let d := rotCycles (qDepth q)
      let fly := if cmd.f.mod.getLsbD 3 then angleWords cmd s.cycle d (cmd.c + BitVec.ofNat 64 (r.row * cols * 8)) ws else []
      let r := { r with row := r.row + 1 }
      s.modShare g c fun h =>
        { h.setT cmd t with
          qrFly := h.qrFly ++ fly,
          qrRun := some (if r.row < m then { r with due := s.cycle + d } else { r with phase := 2, due := s.cycle + d * (2 * cols - 1) - 1 }) }

/-- R270: one entry of a plan; a word of no depth sets NV (R167). -/
def State.applyEntry (s : State) (g : Gtid) (c : Nat) (cmd : Cmd) (W : Word) (P Q : Nat) : State :=
  let q := cmd.qcfg
  if P = Q || 15 < P || 15 < Q then s.modShare g c fun h => h.setT cmd ((h.treg cmd).note stPLAN true)
  else
    s.modShare g c fun h =>
      let h := if !W.getLsbD 63 && depthOf (Word.field W 56 5) = 0 then { h with fmode := h.fmode ||| fNV } else h
      h.setT cmd ((h.treg cmd).applyWord W P Q (qCols q) (qDepth q) (qGm q))

/-- R270: the cycles of an entry. -/
def entryCycles (W : Word) (P Q : Nat) : Nat :=
  if P = Q || 15 < P || 15 < Q || !rotates W then 1 else rotCycles (Word.field W 56 5)

/-- R270: QAPPLY. -/
def State.qapplyStep (s : State) (g : Gtid) (c : Nat) (r : Running) : State :=
  let cmd := r.cmd
  let n := Word.field cmd.b 0 16
  if n ≤ r.row then s.qrNext g c r false
  else
    match s.spLoad g c 4 (cmd.a + BitVec.ofNat 64 (16 * r.row)).toNat 16 with
    | (.error e, s) => s.qrFault g c cmd e
    | (.ok v, s) =>
      let W := BitVec.ofNat 64 v
      let P := v / 2 ^ 64 % 256
      let Q := v / 2 ^ 72 % 256
      let r := { r with row := r.row + 1 }
      (s.applyEntry g c cmd W P Q).qrNext g c r (r.row < n) (entryCycles W P Q)

/-- R270: QROT. -/
def State.qrotStep (s : State) (g : Gtid) (c : Nat) (r : Running) : State :=
  let P := Word.field r.cmd.b 0 4
  let Q := Word.field r.cmd.b 4 4
  (s.applyEntry g c r.cmd r.cmd.a P Q).qrNext g c r false (entryCycles r.cmd.a P Q)

/-- R264, R271: the angle word of QANG is written to its register as it retires. -/
def State.qangWrite (s : State) (g : Gtid) (c : Nat) (r : Running) : State :=
  let w := BitVec.ofInt 64 ((r.vals.head?.map (·.1)).getD 0)
  (s.modShare g c fun h => { h with a := Tbl.set 0 h.a r.cmd.f.opa.toNat w }).qrNext g c r false

/-- R271: QANG: the rotation, in the cycles of its depth (R252), then the register's write. -/
def State.qangStep (s : State) (g : Gtid) (c : Nat) (r : Running) : State :=
  let cmd := r.cmd
  let q := cmd.qcfg
  let cols := qCols q
  let P := Word.field cmd.b 0 4
  let Q := Word.field cmd.b 4 4
  let K := Word.field cmd.b 8 5
  let t := (s.share g c).treg cmd
  let n := rotCycles (qDepth q)
  let done (s : State) (W : Word) : State :=
    let r := { r with vals := [((W.toNat : Int), 0)] }
    if n ≤ 1 then s.qangWrite g c r else s.qrNext g c r false n
  if P = Q || cols ≤ K then done (s.modShare g c fun h => h.setT cmd (t.note stPLAN true)) nullRot
  else
    let (X, Y) := alignRows (t.row panelPos P 0 cols) (t.row panelPos Q 0 cols)
    let W := vectorPair (qDepth q) (X.ws.getD K 0) (Y.ws.getD K 0)
    let s := if cmd.f.mod.getLsbD 2 then s
      else s.modShare g c fun h => h.setT cmd (t.applyWord W P Q cols (qDepth q) false (some K))
    done s W

/-- The solution of a right-hand side is written (R272). -/
def State.putSolution (s : State) (g : Gtid) (c : Nat) (fmt : Nat) (off : Word) : List (Int × Int) → Except Raised Unit × State
  | [] => (.ok (), s)
  | x :: r =>
    match s.spStore g c 4 off.toNat (fmtBits fmt / 8) (roundDyadic (floatFmt fmt) 0 false x.1 x.2 false).bits with
    | (.error e, s) => (.error e, s)
    | (.ok _, s) => s.putSolution g c fmt (off + BitVec.ofNat 64 (fmtBits fmt / 8)) r

/-- R272: QSOLVE: an unknown, or the writing of a solution (PHASE 2). K is the right-hand side, STEP the unknowns done. -/
def State.qsolveStep (s : State) (g : Gtid) (c : Nat) (r : Running) : State :=
  let cmd := r.cmd
  let q := cmd.qcfg
  let nrhs := qNrhs q
  let N := qCols q - nrhs
  let t := (s.share g c).treg cmd
  if r.group = 0 && r.row = 0 && r.phase = 1 && (List.range N).any (fun i => Tbl.get 0 t.gn i ≠ 0) then
    (s.modShare g c fun h => h.setT cmd ((h.treg cmd).note stMM true)).qrFault g c cmd { unit := 4, code := cGAIN }
  else if nrhs = 0 || N = 0 then s.qrNext g c r false
  else if r.phase = 2 then
    match s.putSolution g c (qOfmt q) (cmd.a + BitVec.ofNat 64 (r.group * Word.field cmd.b 0 32)) r.vals with
    | (.error e, s) => s.qrFault g c cmd e
    | (.ok _, s) => s.qrNext g c { r with phase := 1, group := r.group + 1, row := 0, vals := [] } (r.group + 1 < nrhs)
  else
    let (x, sing) := t.unknown (depthOf (qDepth q)) N r.group (N - 1 - r.row) r.vals
    let d := rotCycles (qDepth q)
    (s.modShare g c fun h => h.setT cmd ((h.treg cmd).note stSING sing)).qrNext g c
      { r with row := r.row + 1, vals := x :: r.vals, phase := if r.row + 1 = N then 2 else 1 } true
      (if r.row + 1 = N then d else d + 1)

/-- R273: QGAIN. -/
def State.qgainStep (s : State) (g : Gtid) (c : Nat) (r : Running) : State :=
  let cmd := r.cmd
  let q := cmd.qcfg
  let t := (s.share g c).treg cmd
  let rows := (List.range 16).filter fun i => cmd.a.getLsbD i
  let n := (rows.head?.map fun i => (Tbl.get 0 t.gn i).toNat).getD 0
  if r.group = 0 && (t.status.getLsbD 0 || rows.any fun i => (Tbl.get 0 t.gn i).toNat ≠ n) then
    (s.modShare g c fun h => h.setT cmd ((h.treg cmd).note stMM true)).qrFault g c cmd { unit := 4, code := cGAIN }
  else if n = 0 then s.qrNext g c r false
  else
    let t := rows.foldl (fun t i => t.putRenorm panelPos i 0 ((t.row panelPos i 0 (qCols q)).compensate (depthOf (qDepth q)))) t
    let more := r.group + 1 < n
    let t := if more then t else { t with gn := rows.foldl (fun gn i => Tbl.set 0 gn i 0) t.gn }
    (s.modShare g c fun h => h.setT cmd t).qrNext g c { r with group := r.group + 1 } more

/-! ### Loads and stores of a register (R274) -/

def Cmd.form (c : Cmd) : Nat := (c.f.mod.extractLsb' 2 2).toNat

/-- Word `i` of the raw image of a register. -/
def TriReg.imageWord (t : TriReg) (i : Nat) : Word :=
  let four (h : Tbl (BitVec 16)) (k : Nat) : Word :=
    BitVec.ofNat 64 ((List.range 4).foldl (fun n j => n + (Tbl.get 0 h (4 * k + j)).toNat * 2 ^ (16 * j)) 0)
  if i < 528 then Tbl.get 0 t.w i
  else if i < 536 then four t.e (i - 528)
  else if i < 544 then four t.gn (i - 536)
  else t.status

/-- Word `i` of the image is written; reserved status bits read as zero. -/
def TriReg.setImageWord (t : TriReg) (i : Nat) (v : Word) : TriReg :=
  let four (h : Tbl (BitVec 16)) (k : Nat) : Tbl (BitVec 16) :=
    (List.range 4).foldl (fun h j => Tbl.set 0 h (4 * k + j) (BitVec.ofNat 16 (Word.field v (16 * j) 16))) h
  if i < 528 then { t with w := Tbl.set 0 t.w i v }
  else if i < 536 then { t with e := four t.e (i - 528) }
  else if i < 544 then { t with gn := four t.gn (i - 536) }
  else { t with status := v &&& 0x1F }

/-- The words of beat `b` of the image: the first, and how many. -/
def imageBeat (b : Nat) : Nat × Nat := (64 * b, min 64 (545 - 64 * b))

/-- Rows of a float form (R274), the columns of row `i`, and the view. -/
def Cmd.formRows (c : Cmd) : Nat := if c.form = 1 then qCols c.qcfg else 16
def Cmd.formCols (c : Cmd) (i : Nat) : Nat × Nat := if c.form = 1 then (i, qCols c.qcfg - i) else (0, qCols c.qcfg)
def Cmd.formPos (c : Cmd) : Nat → Nat → Nat := if c.form = 1 then triPos else panelPos

/-- The offset of row `i` of a float form: its first element. -/
def Cmd.formAt (c : Cmd) (i fmt : Nat) : Nat :=
  (c.a + BitVec.ofNat 64 (i * Word.field c.b 0 32 + (c.formCols i).1 * (fmtBits fmt / 8))).toNat

/-- R274: QLDT. -/
def State.qldtStep (s : State) (g : Gtid) (c : Nat) (r : Running) : State :=
  let cmd := r.cmd
  let t := (s.share g c).treg cmd
  if cmd.form = 0 then
    let (w0, n) := imageBeat r.row
    match s.spLoad g c 4 (cmd.a + BitVec.ofNat 64 (512 * r.row)).toNat (8 * n) with
    | (.error e, s) => s.qrFault g c cmd e
    | (.ok v, s) =>
      let t := (List.range n).foldl (fun t i => t.setImageWord (w0 + i) (BitVec.ofNat 64 (elemBits 64 v i))) t
      (s.modShare g c fun h => h.setT cmd t).qrNext g c { r with row := r.row + 1 } (r.row + 1 < 9)
  else
    let f := qIfmt cmd.qcfg
    let (lo, n) := cmd.formCols r.row
    match s.spLoad g c 4 (cmd.formAt r.row f) (n * (fmtBits f / 8)) with
    | (.error e, s) => s.qrFault g c cmd e
    | (.ok v, s) =>
      let (y, bad) := enterRow (floatsOf f v n)
      let t := ((if r.row = 0 then {} else t).setRow cmd.formPos r.row lo y).note stBADIN bad
      (s.modShare g c fun h => h.setT cmd t).qrNext g c { r with row := r.row + 1 } (r.row + 1 < cmd.formRows)

/-- R165: an element leaves, rounded to the output format; a mantissa of zero gives +0. -/
def rotorOut (fmt : Nat) (w e : Int) : Nat := (roundDyadic (floatFmt fmt) 0 false w (e - 61) false).bits

/-- R274: QSTT. -/
def State.qsttStep (s : State) (g : Gtid) (c : Nat) (r : Running) : State :=
  let cmd := r.cmd
  let t := (s.share g c).treg cmd
  if cmd.form = 0 then
    let (w0, n) := imageBeat r.row
    let v := (List.range n).foldr (fun i a => (t.imageWord (w0 + i)).toNat + 2 ^ 64 * a) 0
    match s.spStore g c 4 (cmd.a + BitVec.ofNat 64 (512 * r.row)).toNat (8 * n) v with
    | (.error e, s) => s.qrFault g c cmd e
    | (.ok _, s) => s.qrNext g c { r with row := r.row + 1 } (r.row + 1 < 9)
  else
    let f := qOfmt cmd.qcfg
    let (lo, n) := cmd.formCols r.row
    let v := (t.row cmd.formPos r.row lo n).ws.foldr (fun w a => rotorOut f w (t.exp r.row) + 2 ^ fmtBits f * a) 0
    match s.spStore g c 4 (cmd.formAt r.row f) (n * (fmtBits f / 8)) v with
    | (.error e, s) => s.qrFault g c cmd e
    | (.ok _, s) => s.qrNext g c { r with row := r.row + 1 } (r.row + 1 < cmd.formRows)

/-- The step of an instruction of QR that is due. -/
def State.qrStep (s : State) (g : Gtid) (c : Nat) (r : Running) : State :=
  if r.phase = 2 && r.cmd.op = .qang then s.qangWrite g c r
  else if r.phase = 2 && r.cmd.op = .qtri then s
  else if r.phase = 2 && r.cmd.op ≠ .qsolve then s.qrNext g c r false
  else
    match r.cmd.op with
    | .qtri => s.qtriStep g c r
    | .qapply => s.qapplyStep g c r
    | .qang => s.qangStep g c r
    | .qrot => s.qrotStep g c r
    | .qsolve => s.qsolveStep g c r
    | .qgain => s.qgainStep g c r
    | .qldt => s.qldtStep g c r
    | .qstt => s.qsttStep g c r
    | _ => s.qrNext g c r false

/-- R277: an access of QR has lost its port: the instruction's later steps are a cycle late. -/
def State.qrDelay (s : State) (g : Gtid) (c : Nat) : State :=
  s.modShare g c fun h =>
    { h with qrRun := h.qrRun.map fun r => { r with due := max r.due s.cycle + 1 },
             qrFly := h.qrFly.map fun x => { x with due := max x.due s.cycle + 1 } }

/-- The angle words that are due, at once (R269). -/
def State.angleStep (s : State) (g : Gtid) (c : Nat) : State :=
  s.contend (fun s => s.recordAngles g c s.cycle (s.engineOn g c) (s.share g c).qrFly.length) fun s => s.qrDelay g c

/-- QTRI retires in the last cycle of its last row, its angle words recorded. -/
def State.qtriEnd (s : State) (g : Gtid) (c : Nat) : State :=
  match (s.share g c).qrRun with
  | none => s
  | some r =>
    if r.cmd.op = .qtri && r.phase = 2 && r.due ≤ s.cycle && (s.share g c).qrFly.isEmpty then s.qrNext g c r false else s

/-- R264, R265: QR of a core performs one step, whole: a stream row, a plan entry, an unknown, a gain multiplication, a row or
a beat; the instruction retires in the last cycle of its last one. Angle words of rows in the array are recorded though
a fault has stopped the engine. -/
def execQrRetire (g : Gtid) (c : Nat) (s : State) : Out :=
  .next (if !(match (s.task g).place with | .row .. => true | _ => false) || 8 ≤ c then s
  else
    let s := s.angleStep g c
    if !s.engineOn g c || ((s.task g).isFiller && s.qrElsewhere g c) then s
    else
      match (s.share g c).qrRun with
      | none => s
      | some r =>
        let s := if s.cycle < r.due then s else s.contend (fun s => s.qrStep g c r) fun s => s.qrDelay g c
        (s.angleStep g c).qtriEnd g c)

/-! ### The micro-PC (R265) -/

/-- The minor opcode of a QR instruction. -/
def qrMinor (op : EngOp) : Nat :=
  match op with
  | .qtri => 1
  | .qapply => 2
  | .qang => 3
  | .qrot => 4
  | .qsolve => 5
  | .qgain => 6
  | .qldt => 7
  | .qstt => 8
  | _ => 0

def Share.qpc (h : Share) : Word :=
  match h.qrRun with
  | none => 0
  | some r => BitVec.ofNat 64 (qrMinor r.cmd.op + 16 * r.phase + 2 ^ 16 * (r.row % 2 ^ 32) + 2 ^ 48 * (r.group % 2 ^ 16))

end Sys2Proof.Machine
end

