-- ==== Sys2Proof/Machine/Sched.lean ====
section
/-! DEFINITION. The binding of gangs, their start, pre-emption and restore, SPAWN's binding, and the filler switch
(R16, R19, R29, R313, R334, R339, R357 to R363, R439, R454 to R462). -/

namespace Sys2Proof.Machine

/-! ### Who binds next (R455, R457) -/

/-- R455: is a launch eligible? -/
def State.eligible (s : State) (l : Launch) : Bool := l.after.all fun a => a.2 ≤ (s.reg (ccntReg a.1)).toNat

/-- R457: the effective class. -/
def Launch.effective (l : Launch) : Nat := if l.cls = 2 && l.aged then 1 else l.cls

/-- A gang by its launch's serial and its place in the gang table. -/
abbrev GangRef := Nat × Nat

/-- A gang that waits for its slots. -/
structure Waiting where
  launch : Launch
  gi : Nat
  gang : Gang

def Waiting.ref (w : Waiting) : GangRef := (w.launch.serial, w.gi)

/-- R457: the place in the order: effective class, serial, table order. -/
def Waiting.key (w : Waiting) : Nat := (w.launch.effective * 2 ^ 40 + w.launch.serial) * 2 ^ 16 + w.gi

def insertWaiting (w : Waiting) : List Waiting → List Waiting
  | [] => [w]
  | x :: r => if w.key < x.key then w :: x :: r else x :: insertWaiting w r

/-- The gangs of the module, each with its launch. -/
def State.gangs (s : State) : List Waiting :=
  (s.sched.launches.map fun e => match e.2 with
    | none => []
    | some l => (List.range l.gangs.length).zip l.gangs |>.map fun g => { launch := l, gi := g.1, gang := g.2 : Waiting }).flatten

/-- The gangs that are queued, their launches eligible, in the order of R457; fillers apart. -/
def State.waitingGangs (s : State) (filler : Bool) : List Waiting :=
  (s.gangs.filter fun w => (w.gang.st = .queued || w.gang.st = .out) && (w.launch.cls = 3) = filler && s.eligible w.launch).foldl
    (fun l w => insertWaiting w l) []

/-- R457: has a gang been passed over for the ageing period? -/
def State.overdue (s : State) (g : Gang) : Bool :=
  match g.passed with
  | none => false
  | some t => s.reg (dieReg 0 2 0x10) ≤ s.dcc - t

/-! ### Reservation (R312, R313, R456, R458, R462) -/

/-- Slots reserved so far: a place for each task, and the modes of the clusters concerned. -/
structure Plan where
  places : List (Gtid × Place) := []
  modes : List (Nat × Nat) := []

/-- The tasks of a gang that are to be bound: the declared ones of a fresh bind, the saved ones of a restore. -/
def State.toBind (s : State) (g : Gang) : List Gtid :=
  g.tasks.filter fun x => (s.task x).st = .preempted ||
    ((s.task x).st = .queued && !(s.sched.spawns.any fun e => e.2.contains x))

/-- The task in a row context is of a primary that has given up the filler bank (R30, R458). -/
def State.fillerRoom (s : State) (d r : Nat) : Bool :=
  (s.rowTask d r true).isNone &&
    (match s.rowTask d r false with
     | none => true
     | some p => (s.task p).gaveBank)

/-- R481: does a die bind nothing while a repair runs on it? -/
def State.repairing (s : State) (d : Nat) : Bool := !(s.reg (dieReg d 3 0x18)).getLsbD 63

/-- The free rows of the module for primaries, or for fillers, in ascending order. -/
def State.freeRows (s : State) (filler : Bool) : List (Nat × Nat) :=
  ((List.range 32).map fun i => (i / 8, i % 8)).filter fun x =>
    !s.repairing x.1 && (if filler then s.fillerRoom x.1 x.2 else (s.rowTask x.1 x.2 false).isNone)

/-- R456, R462: rows for row tasks, each on the die it is tied to, if it is tied to one. -/
def placeRows (filler : Bool) : List (Gtid × Option Nat) → List (Nat × Nat) → Option (List (Gtid × Place))
  | [], _ => some []
  | (g, d) :: rest, free =>
    match free.find? fun x => d.all (· = x.1) with
    | none => none
    | some x => (placeRows filler rest (free.filter (· ≠ x))).map fun l => (g, .row x.1 x.2 filler) :: l

def Place.isBcOf (p : Place) (d : Nat) : Bool :=
  match p with
  | .bc d' _ _ => d' = d
  | .inbox d' _ => d' = d
  | _ => false

/-- R313: does the cluster of a die hold no thread? -/
def State.clusterFree (s : State) (p : Plan) (d : Nat) : Bool :=
  !(s.tasks.any fun e => e.2.place.isBcOf d) && !(p.places.any fun e => e.2.isBcOf d)

/-- The mode of a die's cluster in a plan. -/
def State.clusterMode (s : State) (p : Plan) (d : Nat) : Nat :=
  match p.modes.find? fun e => e.1 = d with
  | some e => e.2
  | none => Tbl.get 16 s.sched.modes d

/-- R312, R313: the first free slot on a die whose cluster is free or in the mode, slot by slot over the cores. -/
def State.planSlot (s : State) (p : Plan) (mode d : Nat) : Option Place :=
  if !s.repairing d && (s.clusterFree p d || s.clusterMode p d = mode) then
    ((List.range (16 * mode)).find? fun i =>
      (s.slotTask d (i % 16) (i / 16)).isNone && !p.places.any (fun e => e.2 = .bc d (i % 16) (i / 16))).map
        fun i => .bc d (i % 16) (i / 16)
  else none

/-- R456, R462: slots for binning tasks: a restored one on the die it was saved on. -/
def State.placeBcs (s : State) (p : Plan) : List Gtid → Option Plan
  | [] => some p
  | g :: rest =>
    let t := s.task g
    let dies := if t.st = .preempted then [t.die] else [0, 1, 2, 3]
    match dies.findSome? fun d => (s.planSlot p t.bcMode d).map fun x => (d, x) with
    | none => none
    | some (d, x) => s.placeBcs { places := p.places ++ [(g, x)], modes := (d, t.bcMode) :: p.modes } rest

/-- R456: slots for every task of a gang, or none. -/
def State.reserve (s : State) (w : Waiting) : Option Plan :=
  let ts := s.toBind w.gang
  let tied (x : Gtid) : Gtid × Option Nat := (x, (w.gang.rowsOn.find? fun e => e.1 = x).map (·.2))
  let rows := (ts.filter fun x => (s.task x).isRow).map tied
  let filler : Bool := w.launch.cls = 3
  match placeRows filler (rows.filter (·.2.isSome) ++ rows.filter (·.2.isNone)) (s.freeRows filler) with
  | none => none
  | some l => s.placeBcs { places := l } (ts.filter fun x => !(s.task x).isRow)

/-! ### Victims (R458, R460) -/

/-- The module with some gangs out of their slots. -/
def State.without (s : State) (out : List GangRef) : State :=
  { s with tasks := s.tasks.filter fun e => !out.contains (e.2.launch, e.2.gang) }

/-- The kinds of slot a gang's tasks hold: rows, binning slots. -/
def State.slotKinds (s : State) (g : Gang) : Bool × Bool :=
  (g.tasks.any fun x => (match (s.task x).place with | .row _ _ false => true | _ => false),
   g.tasks.any fun x => (match (s.task x).place with | .bc .. => true | .inbox .. => true | _ => false))

/-- R460: does a gang hold slots of a kind that another needs? -/
def State.holdsNeeded (s : State) (w v : Waiting) : Bool :=
  let ts := s.toBind w.gang
  let k := s.slotKinds v.gang
  (k.1 && ts.any fun x => (s.task x).isRow) || (k.2 && ts.any fun x => !(s.task x).isRow)

/-- R460: the order of victims: filler, background, normal; the highest serial first. -/
def Waiting.victimKey (w : Waiting) : Nat := ((3 - w.launch.effective) * 2 ^ 40 + (2 ^ 40 - 1 - w.launch.serial)) * 2 ^ 16 + (2 ^ 16 - 1 - w.gi)

def insertVictim (w : Waiting) : List Waiting → List Waiting
  | [] => [w]
  | x :: r => if w.victimKey < x.victimKey then w :: x :: r else x :: insertVictim w r

def State.canReserve (s : State) (w : Waiting) (out : List GangRef) : Bool := ((s.without out).reserve w).isSome

/-- Victims taken in order until the gang can be reserved. -/
def State.takeVictims (s : State) (w : Waiting) (out : List GangRef) : List Waiting → Option (List GangRef)
  | [] => none
  | v :: rest =>
    let out := out ++ [v.ref]
    if s.canReserve w out then some out else s.takeVictims w out rest

/-- R460: the victims of an urgent gang: only as many as it needs. -/
def State.victims (s : State) (w : Waiting) : Option (List GangRef) :=
  if w.launch.cls ≠ 0 then none
  else
    let c := (s.gangs.filter fun v => (v.gang.st = .bound || v.gang.st = .started) && v.launch.cls ≠ 0 && s.holdsNeeded w v).foldl
      (fun l v => insertVictim v l) []
    match s.takeVictims w [] c with
    | none => none
    | some out => some (out.foldl (fun o v => if s.canReserve w (o.filter (· ≠ v)) then o.filter (· ≠ v) else o) out)

/-- R458: the filler gangs to be pre-empted before the places of a plan are used: of a row whose new primary keeps its
bank. -/
def State.fillersAside (s : State) (p : Plan) : List GangRef :=
  p.places.filterMap fun e =>
    match e.2 with
    | .row d r false =>
      if (s.task e.1).gaveBank then none
      else (s.rowTask d r true).map fun f => ((s.task f).launch, (s.task f).gang)
    | _ => none

/-- Is a gang being saved? Nothing binds while one is. -/
def State.anySaving (s : State) : Bool := s.gangs.any fun w => w.gang.st = .saving

/-- R456, R457, R460: the first gang in order that can be reserved, or can be after victims are saved; past a gang that has
been passed over long enough, only gangs of its launch. -/
def State.firstBindable (s : State) (only : Option Nat) : List Waiting → Option Waiting
  | [] => none
  | w :: rest =>
    if only.all (· = w.launch.serial) && ((s.reserve w).isSome || (s.victims w).isSome) then some w
    else s.firstBindable (only <|> (if s.overdue w.gang then some w.launch.serial else none)) rest

/-- The gang that is bound next. -/
def State.nextGang (s : State) : Option Waiting :=
  if s.anySaving then none else s.firstBindable none (s.waitingGangs false) <|> s.firstBindable none (s.waitingGangs true)

/-! ### Loading (R29, R357, R454, R554, R556) -/

/-- The scratchpad of every share begins with the scratch image (R454). -/
def loadScratch (n v : Nat) (h : Share) : Share := h.spWrite 0 n v

/-- R454: spfill at bind. -/
def spfillOf (t : Task) : Word := if t.isFiller || t.gaveBank then 56 + 8 * 256 else 0

/-- The schedule tables of a gang's declarations, read at bind. -/
def State.readScheds (s : State) (root : Nat) : List Decl → Option (List (List Word)) × State
  | [] => (some [], s)
  | d :: r =>
    match (if d.schedLen = 0 then (some [], s) else s.fwWords root d.schedVa d.schedLen) with
    | (none, s) => (none, s)
    | (some ws, s) =>
      match s.readScheds root r with
      | (none, s) => (none, s)
      | (some l, s) => (some (ws :: l), s)

/-- An image of a table, read at bind: none where it cannot be read, empty where there is none. -/
def State.readImage (s : State) (root : Nat) (va : Word) : Option (List Word) × State :=
  if va = 0 then (some [], s) else s.fwWords root va (imageBytes / 8)

/-- A sparse table of words. -/
def wordTable (ws : List Word) : Tbl Word := ((List.range ws.length).zip ws).filter fun e => e.2 ≠ 0

/-- R554, R556: the images of a gang are loaded into the exchange tables of a die. -/
def State.loadTables (s : State) (d : Nat) (routes tiles : List Word) : State :=
  s.modXch d fun x =>
    { x with route := if routes.isEmpty then x.route else wordTable routes, tile := if tiles.isEmpty then x.tile else wordTable tiles }

/-- R454: a bind record; the context save area is firmware's to choose. -/
def bindRecord (t : Task) (g : Gtid) (restore : Bool) (save : Word) : List Word :=
  let kind : Nat := if !t.isRow then 3 else if t.isFiller then 2 else 1
  let mode : Nat := if t.isRow then 0 else if t.bcMode = 2 then 0 else if t.bcMode = 4 then 1 else if t.bcMode = 8 then 2 else 3
  [BitVec.ofNat 64 (kind + (if restore then 8 else 0) + (if t.gaveBank then 16 else 0) + mode * 256), g,
   BitVec.ofNat 64 t.asid, BitVec.ofNat 64 t.root, t.pc, save, t.wdLimit, t.wdCount]

/-- R406, R462: the scratchpad of a restored share: only the saved banks keep their bytes. -/
def keepBanks (first count : Nat) (h : Share) : Share :=
  { h with spm := h.spm.filter fun e => (e.1 / 2 ^ 15 + 64 - first) % 64 < count }

/-- The shares of a fresh row task (R29, R454). They are no writes for error injection (DESIGN CHOICE, log entry 35). -/
def State.freshShares (s : State) (g : Gtid) (n v : Nat) : State :=
  (List.range 8).foldl (fun s c => s.setShare g c (loadScratch n v { spfill := spfillOf (s.task g) })) s

/-- R78, R396: the code that a task executes first is read anew. -/
def State.coldCode (s : State) (g : Gtid) : State := { s with icache := Tbl.set [] s.icache (icKey (s.task g)) [] }

/-- R396: the first bundle of a task on a row sees what happened before it: nothing older stays in the row's caches. -/
def State.coldUnit (s : State) (g : Gtid) (d r : Nat) : State := (s.coldCode g).selfInvalidate (8 * d + r)

/-- A task takes its place with its context (R29, R363, R454, R462). -/
def State.bindTask (s : State) (l : Launch) (ran : Bool) (ts : Word) (scheds : List (List Word)) (n v : Nat) (g : Gtid) (p : Place) : State :=
  let t := s.task g
  let restore : Bool := t.st = .preempted
  let (save, s) := s.drawFree
  let rec' := bindRecord t g restore save
  let s := s.writeSlot p rec'
  let s := s.modTask g fun t =>
    let t := { t with place := p, slotRec := rec', startTick := ts, readyAt := s.cycle, lastIssue := 0, fetched := none,
                      fillActive := false, yielding := 0 }
    if !restore then { t with st := .bound, sched := (scheds[t.decl]?).getD [] }
    else { t with st := if ran then t.heldState else .bound }
  match p with
  | .row d r _ =>
    if restore then
      (List.range 8).foldl (fun s c => s.modShare g c (keepBanks l.spFirst l.spCount)) (s.coldUnit g d r)
    else (s.coldUnit g d r).freshShares g n v
  | .bc .. => s.coldCode g
  | _ => s

/-- R457: gangs passed over by a bind have their time started. -/
def State.markPassed (s : State) (w : Waiting) : State :=
  let filler : Bool := w.launch.cls = 3
  ((s.waitingGangs filler).filter fun x => x.key < w.key && x.launch.serial ≠ w.launch.serial && x.gang.passed.isNone).foldl
    (fun s x => s.modGang x.launch.serial x.gi fun g => { g with passed := some s.dcc }) s

/-- R456: the gang commits to a plan: its contexts are loaded, and its start tick is set. A table or image that cannot be read
leaves the gang queued (DESIGN CHOICE, log entry 8); route and tile images are loaded at a restore too (DEDUCED, log entry 34). -/
def State.commitGang (s : State) (w : Waiting) (p : Plan) : State :=
  let l := w.launch
  let ts := s.dcc + 1024
  match s.readScheds l.root w.gang.decls with
  | (none, s) => s
  | (some scheds, s) =>
    match s.readImage l.root w.gang.routes with
    | (none, s) => s
    | (some routes, s) =>
      match s.readImage l.root w.gang.tiles with
      | (none, s) => s
      | (some tiles, s) =>
        match (if l.scratch = 0 then (some 0, s) else s.fwRead l.root l.scratch l.scratchLen) with
        | (none, s) => s
        | (some v, s) =>
          let n := if l.scratch = 0 then 0 else l.scratchLen
          let s := s.markPassed w
          let dies := (List.range 4).filter fun d => p.places.any fun e =>
            match e.2 with
            | .row d' _ _ => d' = d
            | .bc d' _ _ => d' = d
            | _ => false
          let s := dies.foldl (fun s d => s.loadTables d routes tiles) s
          let modes : Tbl Nat := p.modes.foldl (fun (m : Tbl Nat) (e : Nat × Nat) => Tbl.set 16 m e.1 e.2) s.sched.modes
          let s := { s with sched := { s.sched with modes := modes } }
          let s := p.places.foldl (fun s e => s.bindTask l w.gang.ran ts scheds n v e.1 e.2) s
          s.modGang l.serial w.gi fun g => { g with st := .bound, ts := ts, passed := none }

/-- Gangs that are to leave their slots (R460). -/
def State.markSaving (s : State) (out : List GangRef) : State :=
  out.foldl (fun s v => s.modGang v.1 v.2 fun g => { g with st := .saving }) s

/-- R456, R458, R460: the lead core considers a gang: it is bound, or what it needs is to be pre-empted first. -/
def State.considerGang (s : State) (serial gi : Nat) (from' : GangState) : State :=
  match s.nextGang with
  | none => s
  | some w =>
    if w.ref ≠ (serial, gi) || w.gang.st ≠ from' then s
    else match s.reserve w with
      | none => s.markSaving ((s.victims w).getD [])
      | some p =>
        let aside := s.fillersAside p
        if aside.isEmpty then s.commitGang w p else s.markSaving aside

/-- R456. -/
def execGangBind (serial gi : Nat) (s : State) : Out := .next (s.considerGang serial gi .queued)

/-- R462, R363: a pre-empted gang is restored. -/
def execRestore (serial gi : Nat) (s : State) : Out := .next (s.considerGang serial gi .out)

/-- R42, R454: a bound task of a gang whose start tick has come runs; its slot entry shows STARTED. -/
def State.startTask (s : State) (x : Gtid) : State :=
  let s := s.modTask x fun t =>
    { t with st := if t.st = .bound then t.heldState else t.st,
             slotRec := match t.slotRec with | [] => [] | w :: r => (w ||| 4) :: r }
  match (s.task x).place.reg with
  | none => s
  | some b => s.setReg b (s.reg b ||| 4)

/-- R16, R42, R47, R454: at TS the gang starts; a task that joins it later starts when it is bound. -/
def execGangStart (serial gi : Nat) (s : State) : Out :=
  .next (match s.gang? serial gi with
  | none => s
  | some (_, g) =>
    if (g.st ≠ .bound && g.st ≠ .started) || s.dcc < g.ts then s
    else
      let late : Bool := g.st = .started
      let s := s.modGang serial gi fun g => { g with st := .started, ran := true }
      (g.tasks.filter fun x => (s.task x).bound && (!late || (s.task x).st = .bound)).foldl State.startTask s)

/-! ### SPAWN (R47, R339, R463) -/

/-- May a spawned task take a slot of the die, and which? -/
def State.spawnSlot (s : State) (die : Nat) (g : Gtid) : Option Place :=
  let t := s.task g
  match s.gang? t.launch t.gang with
  | none => none
  | some (_, x) => if x.st = .started then s.planSlot {} t.bcMode die else none

/-- R42, R47, R339: the first spawned task of a die whose gang runs takes a free slot: it is bound. -/
def execSpawnBind (die : Nat) (s : State) : Out :=
  let die := die % 4
  let q := Tbl.get [] s.sched.spawns die
  .next (match q.findSome? fun g => (s.spawnSlot die g).map fun p => (g, p) with
  | none => s
  | some (g, p) =>
    let t := s.task g
    let (save, s) := s.drawFree
    let ts := match s.gang? t.launch t.gang with
      | none => 0
      | some (_, x) => x.ts
    let rec' := bindRecord t g false save
    let s := { s with sched := { s.sched with spawns := Tbl.set [] s.sched.spawns die (q.filter (· ≠ g)),
                                              modes := Tbl.set 16 s.sched.modes die t.bcMode } }
    ((s.writeSlot p rec').modTask g fun t =>
      { t with st := .bound, place := p, slotRec := rec', startTick := ts, wdCount := 0, readyAt := s.cycle, lastIssue := 0 }).coldCode g)

/-! ### Saving (R148, R334, R362, R406, R439, R461) -/

/-- Is a request of a task under way to its home? A tagged wait that stands at a home is not. -/
def State.requestsDone (s : State) (g : Gtid) : Bool := !s.anyMoving fun r => r.ofTask g

/-- R362, R461: may a task of a gang be saved as it stands? A hold for scratchpad arbitration alone does not stop the row. -/
def State.saveReady (s : State) (g : Gtid) : Bool :=
  let t := s.task g
  !t.bound ||
    (s.requestsDone g && t.retry.isNone && s.storesDone g none &&
      (if t.isRow then
        (t.memOp.isNone || t.causes.any fun c => c = .tag || c = .status) &&
          (t.wave.isEmpty || t.frozenNow || t.causes.contains .hold || t.causes.contains .stall || !s.holdsRow t)
       else true))

/-- R148: a tagged wait at a home is withdrawn; its syllable executes again after the restore. -/
def State.withdraw (s : State) (g : Gtid) : State :=
  if s.waits.any fun r => r.ofTask g then
    let s := { s with waits := s.waits.filter fun r => !r.ofTask g }
    let again : List Redo := ((s.task g).memOp.map (·.redo)).toList
    s.modTask g fun t => { t with redo := again ++ t.redo, memOp := none }.release .tag |>.release .reply
  else s

/-- R240, R265, R308: what is under way in the arrays and on the ring of a core completes before its state is saved. -/
def State.settleCore (s : State) (g : Gtid) (c : Nat) : State :=
  let s := (s.landAll g c (s.share g c).mxFly.length).landAngles g c
  s.modShare g c fun h => h.takeAllRing h.ring.length

/-- A task leaves its slot with its context saved (R42, R43, R406, R461): a release of its stores, then an acquire. -/
def State.saveTask (s : State) (g : Gtid) : State :=
  if !(s.task g).bound then s
  else
    let s := s.withdraw g
    let t := s.task g
    let s := if t.isRow then
        ((List.range 8).foldl (fun s c => s.settleCore g c) (s.drainStores (tlbSpine t) g)).selfInvalidate (tlbSpine t)
      else s
    let s := s.freeSlot t.place
    let s := match t.place with
      | .inbox d b => s.setInbox d b ((s.inboxOf d b).filter (· ≠ g))
      | _ => s
    s.modTask g fun t =>
      let u := ((t.release .migration).release .fetch).release .port
      { u with st := .preempted, lastPlace := t.spot, place := .none, fetched := none, migTo := none, fillActive := false,
               yielding := 0, waitCycles := 0, slotRec := [] }

/-- The routes that the tasks of a gang started are saved (R439). -/
def State.saveRoutes (s : State) (serial : Nat) (g : Gang) : State :=
  (List.range 4).foldl (fun s d =>
    match (s.collOf d).active with
    | none => s
    | some r => if g.tasks.contains r.gtid then s.saveRoute d serial else s) s

/-- The dies that hold a saved route of a gang. -/
def State.routeDiesOf (s : State) (g : Gang) : List Nat :=
  (List.range 4).filter fun d => (s.collOf d).saved.any fun r => !r.cancelled && g.tasks.contains r.gtid

/-- The filler that holds the row of a task of the gang gives it back first (R362). -/
def State.returnRows (s : State) (g : Gang) : State :=
  g.tasks.foldl (fun s x =>
    match (s.task x).place with
    | .row d r _ =>
      match s.rowTask d r false with
      | none => s
      | some p => s.modTask p fun t => { t with fillActive := false, yielding := 0 }
    | _ => s) s

/-- R461: a victim gang whose tasks have stopped is saved, and queued again. -/
def execPreempt (serial gi : Nat) (s : State) : Out :=
  .next (match s.gang? serial gi with
  | none => s
  | some (_, g) =>
    if g.st ≠ .saving || !g.tasks.all s.saveReady then s
    else
      let s := s.returnRows g
      let s := s.saveRoutes serial g
      let dies := s.routeDiesOf g
      let rows := (g.tasks.filter fun x => (s.task x).isRow && (s.task x).bound && dies.contains (s.task x).die).map
        fun x => (x, (s.task x).die)
      let s := g.tasks.foldl State.saveTask s
      s.modGang serial gi fun g =>
        { g with st := .out, queuedAt := s.dcc, passed := none, routeDies := dies, rowsOn := rows })

/-! ### The filler switch (R359 to R361, R458, R509) -/

/-- R359: do the conditions of the switch hold on a row? -/
def State.switchReady (s : State) (die row : Nat) : Bool :=
  match s.rowTask die row false, s.rowTask die row true with
  | some p, some f =>
    let t := s.task p
    t.fillOn && !t.fillActive && !(s.task f).frozenNow && (s.task f).st ≠ .bound && max 1 t.thresh ≤ t.yielding && s.admits die row
  | _, _ => false

/-- R360. -/
def execFillerSwitch (die row : Nat) (s : State) : Out :=
  .next (if !s.switchReady (die % 4) (row % 8) then s
  else match s.rowTask (die % 4) (row % 8) false with
    | none => s
    | some p => s.modTask p fun t => { t with fillActive := true })

/-- R361: is the row to go back to its primary? -/
def State.returnReady (s : State) (die row : Nat) : Bool :=
  match s.rowTask die row false with
  | none => false
  | some p =>
    let t := s.task p
    t.fillActive &&
      (!t.causes.contains .hold || !s.admits die row ||
        (match s.rowTask die row true with
         | none => true
         | some f => (s.task f).frozenNow || 4096 ≤ (s.task f).waitCycles))

/-- R361. -/
def execFillerReturn (die row : Nat) (s : State) : Out :=
  .next (if !s.returnReady (die % 4) (row % 8) then s
  else match s.rowTask (die % 4) (row % 8) false with
    | none => s
    | some p => s.modTask p fun t => { t with fillActive := false, yielding := 0 })

end Sys2Proof.Machine
end

