-- ==== Sys2Proof/Machine/Service.lean ====
section
/-! DEFINITION. Posting fault records and core fault frames, their service by firmware, the resume of a task, the watchdog,
and the end of a gang by command (R44, R48, R54 to R59, R308 to R311, R353, R418, R419, R422, R424, R447, R463, R464, R543,
R580). -/

namespace Sys2Proof.Machine

/-! ### The core fault frame (R309 to R311) -/

/-- A code word of a frame (R310). -/
def codeWord (r : Raised) : Word :=
  BitVec.ofNat 64 (r.code + (if r.write then 2 ^ 8 else 0) + (if r.spad then 2 ^ 9 else 0) + (if codeRestarts r.code then 2 ^ 10 else 0))

/-- The fault of a unit among those of a core. -/
def faultOf (l : List Raised) (u : Nat) : Option Raised := l.find? fun r => r.unit = u

/-- R310: code word and address word of a unit. -/
def codePair (l : List Raised) (u : Nat) : List Word :=
  match faultOf l u with
  | none => [0, 0]
  | some r => [codeWord r, r.va]

/-- R305: the core queues and the port queues by number. -/
def coreQueues : List (Nat × Nat) :=
  [(0, 1), (0, 2), (0, 3), (1, 0), (1, 2), (1, 3), (2, 0), (2, 1), (2, 3), (3, 0), (3, 1), (3, 2)]
def portQueues : List (Nat × Nat) := [(0, 4), (1, 4), (2, 4), (3, 4)]

/-- Occupancies, five bits a queue. -/
def occupancy (h : Share) (qs : List (Nat × Nat)) : Word :=
  BitVec.ofNat 64 (((List.range qs.length).zip qs).map fun e => Tbl.get 0 h.tokens (queueKey e.2.1 e.2.2) * 2 ^ (5 * e.1)).sum

/-- R310: CPC of a channel. -/
def Share.cpc (h : Share) (ch : Nat) : Word :=
  match h.copies.find? fun x => x.due && x.cmd.chan = ch with
  | none => 0
  | some x => BitVec.ofNat 64 (x.beat % 2 ^ 31 + 2 ^ 31 + x.cmd.id.toNat * 2 ^ 32)

/-- R310, R353: NEXT of a core: the bundle in the wavefront that it executes next, or the Spine's next. -/
def nextOf (t : Task) (h : Share) : Word :=
  match t.wave.find? fun e => e.idx = h.nextIdx with
  | some e => e.addr
  | none => t.pc

/-- R310: word 1 of a core's block. -/
def unitWord (h : Share) (l : List Raised) : Word :=
  BitVec.ofNat 64
    ((([1, 2, 3, 4, 5] : List Nat).map fun u => if (faultOf l u).isSome then 2 ^ u else 0).sum +
      (if (faultOf l 8).isSome then 2 ^ 7 else 0) + h.mxq.length * 2 ^ 8 + h.qrq.length * 2 ^ 16 + h.cpq.length * 2 ^ 24 +
      h.copies.length * 2 ^ 32)

/-- R310: words 12 to 26 of a core's block. -/
def lateWords (h : Share) (l : List Raised) : List Word :=
  [h.mpc0, h.mpc1, h.qpc, occupancy h coreQueues, occupancy h portQueues] ++ ((List.range 8).map h.cpc) ++ codePair l 8

/-- R310: a core's block. -/
def frameBlock (t : Task) (h : Share) (l : List Raised) : List Word :=
  [nextOf t h, unitWord h l] ++ (([1, 2, 3, 4, 5] : List Nat).map (codePair l)).flatten ++ lateWords h l ++ List.replicate 5 0

/-- The faults of a core in the present freeze. -/
def Task.coreFaults (t : Task) (c : Nat) : List Raised := (t.frame.filter fun e => e.1 = c).map (·.2)

/-- R309: header word 3. -/
def frameCores (t : Task) : Word :=
  BitVec.ofNat 64 (((List.range 8).map fun c => if (t.coreFaults c).isEmpty then 0 else 2 ^ c).sum +
    (if (t.coreFaults 8).isEmpty then 0 else 2 ^ 8))

/-- R309, R352: the header. -/
def frameHeader (t : Task) (g : Gtid) : List Word :=
  [g, t.frameAt, (match t.redo with | r :: _ => r.addr | [] => t.pc), frameCores t, 0, 0, 0, 0]

/-- R311: a freeze's first record writes the frame anew; a later one updates it in place. -/
def State.writeFrame (s : State) (f : FaultRec) : State :=
  let t := s.task f.gtid
  let base := f.frame.toNat
  if f.frame = 0 then s
  else if f.fresh then
    s.putWords base (frameHeader t f.gtid ++ ((List.range 8).map fun c => frameBlock t (s.share f.gtid c) (t.coreFaults c)).flatten)
  else
    let s := s.putWords (base + 24) [s.memWord (base + 24) ||| frameCores t]
    match f.row with
    | none => s
    | some c =>
      if 8 ≤ c then s
      else
        let h := s.share f.gtid c
        let l := t.coreFaults c
        let b := base + 64 + 256 * c
        let bits := unitWord h l &&& 0xBE
        let s := s.putWords (b + 8) [s.memWord (b + 8) ||| bits]
        let s := ([1, 2, 3, 4, 5] : List Nat).foldl (fun s u => if (faultOf l u).isSome then s.putWords (b + 16 * u) (codePair l u) else s) s
        s.putWords (b + 96) (lateWords h l)

/-! ### Posting (R54 to R56, R422) -/

/-- R55, R56: the words of a record. -/
def FaultRec.words (f : FaultRec) : List Word :=
  [BitVec.ofNat 64 (f.kind + f.code * 2 ^ 16 + f.unit * 2 ^ 24 + f.die * 2 ^ 28 + f.core % 64 * 2 ^ 30 +
     (if f.restart then 2 ^ 36 else 0) + (if f.write then 2 ^ 37 else 0) + (if f.noframe then 2 ^ 38 else 0) +
     (if f.more then 2 ^ 39 else 0)),
   f.gtid, f.dcc, f.va, f.detail, f.bundle, f.frame, BitVec.ofNat 64 (f.seqNo % 2 ^ 32)]

/-- R515: the trace record of a fault. -/
def FaultRec.press (f : FaultRec) : PressRec :=
  { w0 := ((f.words[0]?).getD 0 &&& ~~~0xFF) ||| 2, gtid := f.gtid, dcc := f.dcc, payload := f.va }

/-- The place of a record among those of its cycle: the Spine's first, then the cores in order (R59). -/
def FaultRec.order (f : FaultRec) : Nat :=
  match f.row with
  | some c => if c < 8 then c + 1 else 0
  | none => 9

/-- Are two records of one task and one cycle, a row's? -/
def FaultRec.together (f x : FaultRec) : Bool := x.gtid = f.gtid && x.cycle = f.cycle && f.row.isSome && x.row.isSome

/-- R54, R59: the record of a die that is posted next, the oldest; those of one freeze in their order. The first of them writes
the frame anew. -/
def State.nextPost (s : State) (die : Nat) : Option FaultRec :=
  match s.faultPend.find? fun f => f.die = die with
  | none => none
  | some f =>
    let l := s.faultPend.filter fun x => x = f || f.together x
    let least := l.foldl (fun b x => if x.order < b.order then x else b) f
    some least

/-- A record leaves its unit; where it was to be the first of a freeze in another's place, that one no longer is. -/
def State.unkeep (s : State) (f : FaultRec) : Bool × State :=
  let l := s.faultPend.erase f
  (f.fresh || l.any fun x => f.together x && x.fresh,
   { s with faultPend := l.map fun x => if f.together x then { x with fresh := false } else x })

/-- R54, R422: the next record that a die's units hold is posted to its fault queue, if there is room. -/
def execFaultRecordPost (die : Nat) (s : State) : Out :=
  let die := die % 4
  let rg (o : Nat) : Nat := dieReg die 0 o
  .next (match s.nextPost die with
  | none => s
  | some f =>
    let size := s.reg (rg 0x8048)
    let head := s.reg (rg 0x8050)
    if ringFull head (s.reg (rg 0x8058)) size then s
    else
      let n := Tbl.get 0 s.sched.faultSeq die
      let (fresh, s) := s.unkeep f
      let s := s.writeFrame { f with fresh := fresh }
      let f' := { f with seqNo := n }
      let s := s.putWords ((s.reg (rg 0x8040)).toNat / 64 * 64 + 64 * (head.toNat % size.toNat)) f'.words
      let s := s.bumpReg (rg 0x8050)
      let s := { s with faultOut := s.faultOut ++ [f'], faultHeld := s.faultHeld ++ [f'],
                        sched := { s.sched with faultSeq := Tbl.set 0 s.sched.faultSeq die ((n + 1) % 2 ^ 32) } }
      s.press die f'.press)

/-! ### The end of a gang (R48, R58, R464) -/

/-- R48, R464: is the task frozen or parked on a fault or a watchdog expiry? -/
def Task.faulted (t : Task) : Bool :=
  (t.st = .frozen || t.st = .parked) && t.causes.any fun c => c = .fault || c = .watchdog || c = .translation

/-- R48, R49: a task of a gang that ends: it executes nothing further, its waits end, and it retires at once, or when its stores
have performed. -/
def State.endTask (s : State) (x : Gtid) : State :=
  let t := s.task x
  let code : Nat := if t.faulted then 1 else 2
  let s := { s with waits := s.waits.filter fun r => !r.ofTask x }
  let s := if t.isRow && t.bound then
      (List.range 8).foldl (fun s c => s.modShare x c fun h => { h with stopped := true }) (s.drainStores (tlbSpine t) x)
    else s
  let s := s.modTask x fun t => { t with ending := code, memOp := none, retry := none, redo := [] }.hold .ended
  if s.endReady x then s.retire x code else s

/-- An operation of an ended task: a send goes on to its end, anything else is dropped, and so is what waits on a fault (R543). -/
def XOp.endsWith (o : XOp) : Bool := o.stuck || o.kind ≠ .put

/-- R48, R464: every task of a gang that has not retired ends; what was saved of it is discarded, and its operations
that wait on a fault are dropped (R543). -/
def State.endGang (s : State) (serial gi : Nat) : State :=
  match s.gang? serial gi with
  | none => s
  | some (_, g) =>
    let mine (x : Gtid) : Bool := g.tasks.contains x
    let s := (List.range 4).foldl (fun s d =>
      let s := s.modColl d fun c => { c with saved := c.saved.filter fun r => !mine r.gtid }
      s.modXch d fun x => { x with ops := x.ops.filter fun o => !(o.endsWith && mine o.g) }) s
    (g.tasks.filter fun x => (s.task x).st ≠ .retired && (s.task x).ending = 0).foldl State.endTask s

/-- R504, R537: a command is answered with a status and a body. -/
def State.reply (s : State) (w : Caller) (st : Nat) (body : List Byte) : State := { s with answered := .reply w st body :: s.answered }

/-- A status that the spec calls a failure and gives no number: any but zero. -/
def State.failReply (s : State) (w : Caller) : State :=
  let (v, s) := s.drawFree
  s.reply w (1 + v.toNat % 255) []

/-- R485: in recovery the sideband port accepts only firmware update, and the host port is down. -/
def State.command (s : State) (w : Caller) (h : State → State) : State := if s.sec.recovery then s.failReply w else h s

/-- R464. -/
def execKill (w : Caller) (g : Gtid) (s : State) : Out :=
  let t := s.task g
  .next (s.command w fun s =>
    if t.st = .absent then
      let (v, s) := s.drawFree
      s.reply w (v.toNat % 256) []
    else (s.endGang t.launch t.gang).reply w 0 [])

/-! ### Resume (R58, R308, R352, R354, R437, R543) -/

/-- Does another record still hold the task of a record in its freeze? -/
def State.heldByOther (s : State) (f : FaultRec) : Bool :=
  (s.faultHeld ++ s.faultPend).any fun x => x.gtid = f.gtid && x ≠ f && x.xop.isNone && x.unit ≠ 9 && x.code ≠ cWDOG

/-- R336: may a wake message reach the thread? -/
def State.wakeable (s : State) (g : Gtid) : Bool := !(s.task g).isRow && (s.task g).bound

/-- R58, R463: what the record of a task held up goes on. -/
def State.resumeRec (s : State) (f : FaultRec) : State :=
  let s' := { s with faultHeld := s.faultHeld.erase f }
  match f.xop with
  | some id =>
    match s.xop id with
    | none => s'
    | some o => s'.resumeOp o
  | none =>
    if f.unit = 9 then s'.resumeRoutes f.gtid
    else if f.code = cWDOG then s'.modTask f.gtid fun t => { t with wdCount := 0 }.release .watchdog
    else if (s.task f.gtid).causes.contains .translation then
      (if s.wakeable f.gtid then s'.wake f.die f.gtid else s)
    else if s.heldByOther f then s'
    else
      let s := s'.unfreeze f.gtid
      if (s.task f.gtid).isRow then (List.range 8).foldl (fun s c => s.pumpStage f.gtid c) s else s

/-- The records of a task that are posted and not resumed. -/
def State.heldOf (s : State) (g : Gtid) : List FaultRec := s.faultHeld.filter fun f => f.gtid = g

/-- R58: a resume of a record: one with RESTART 0, or of an operation that can do nothing further, is refused, and the gang
ends. -/
def execResumeTask (g : Gtid) (n : Nat) (s : State) : Out :=
  .next (match (s.heldOf g)[n]? with
  | none => s
  | some f =>
    if !f.restart then
      let t := s.task g
      ({ s with faultHeld := s.faultHeld.erase f }).endGang t.launch t.gang
    else s.resumeRec f)

/-! ### Service (R418, R419) -/

/-- A record goes to the host's event ring of its die (R447). -/
def State.forward (s : State) (f : FaultRec) : State :=
  { s with sched := { s.sched with events := Tbl.set [] s.sched.events f.die (Tbl.get [] s.sched.events f.die ++ [f]) } }

/-- R407: the level 0 entry of an address: its place. -/
def State.leafAt (s : State) (va : Word) : Nat → Nat → Option Nat
  | 0, t => some (t + 16 * levelIndex va 0)
  | l + 1, t =>
    let e := t + 16 * levelIndex va (l + 1)
    let w0 := s.memWord e
    if w0.getLsbD 0 && !badEntry (l + 1) w0 (s.memWord (e + 8)) && !Word.leafBit w0 then s.leafAt va l (frameOf w0) else none

/-- R418: the entry of an address whose page is to be served from the pool. -/
def State.demandLeaf (s : State) (root : Nat) (va : Word) : Option Nat :=
  if !canonical va || root / 2 ^ 40 ≠ 0 then none
  else match s.leafAt va 3 (root / 2 ^ 16 * 2 ^ 16) with
    | none => none
    | some e => if (s.memWord e).toNat % 2 = 0 && (s.memWord e).getLsbD 1 && (s.memWord e).getLsbD 5 then some e else none

/-- R418, R424: the next frame of a die's pool that is not on the list of bad pages (fuel: the frames supplied). -/
def State.takeFrame (s : State) (die : Nat) : Nat → Option Nat × State
  | 0 => (none, s)
  | n + 1 =>
    let rg (o : Nat) : Nat := dieReg die 0 o
    let head := s.reg (rg 0x8070)
    let size := (s.reg (rg 0x8068)).toNat
    if head = s.reg (rg 0x8078) || size = 0 then (none, s)
    else
      let f := (s.memWord ((s.reg (rg 0x8060)).toNat / 64 * 64 + 8 * (head.toNat % size))).toNat / 2 ^ 16 * 2 ^ 16
      let s := s.bumpReg (rg 0x8070)
      if (Tbl.find? s.sec.badPages (f / 2 ^ 16 % 2 ^ 32)).isSome then s.takeFrame die n else (some f, s)

/-- R418: a frame's words are zero and its tags empty. -/
def State.zeroFrame (s : State) (f : Nat) : State :=
  let s := s.putWords f (List.replicate 8192 0)
  { s with tags := s.tags.filter fun e => e.1 / 2 ^ 16 ≠ f / 2 ^ 16 }

/-- R418: the leaf takes the frame, and the die's translations of the page are invalidated. -/
def State.serveLeaf (s : State) (die asid e frame : Nat) (va : Word) : State :=
  let s := s.zeroFrame frame
  let w0 := (s.memWord e &&& 0xFFFF00000000FFFF) ||| BitVec.ofNat 64 (frame % 2 ^ 48) ||| 1
  (s.putWords e [w0]).dropTlb die fun t => t.asid = asid && t.meets va 1

/-- R418, R419: what firmware does with a record. -/
def State.serveRec (s : State) (f : FaultRec) : State :=
  let t := s.task f.gtid
  if f.code ≠ cABSENT then s.forward f
  else match s.walk 0 t.root f.va with
    | (.leaf .., s) => s.resumeRec f
    | (_, s) =>
      match s.demandLeaf t.root f.va with
      | none => s.forward f
      | some e =>
        match s.takeFrame f.die (s.reg (dieReg f.die 0 0x8078) - s.reg (dieReg f.die 0 0x8070)).toNat with
        | (none, s) => s.forward { f with noframe := true }
        | (some p, s) => (s.serveLeaf f.die t.asid e p f.va).resumeRec f

/-- R418: firmware takes the next record of a die's fault queue, in sequence order. -/
def execFaultService (die : Nat) (s : State) : Out :=
  .next (match s.faultOut.find? fun f => f.die = die % 4 with
  | none => s
  | some f =>
    if s.reg (dieReg (die % 4) 0 0x8048) = 0 then s
    else ({ s with faultOut := s.faultOut.erase f }.bumpReg (dieReg (die % 4) 0 0x8058)).serveRec f)

/-- R447: a forwarded record enters the host's event ring, if it has room. -/
def execEventRecordPost (die : Nat) (s : State) : Out :=
  let die := die % 4
  let rg (o : Nat) : Nat := dieReg die 2 o
  .next (match Tbl.get [] s.sched.events die with
  | [] => s
  | f :: rest =>
    let size := s.reg (rg 0x20)
    let head := s.reg (rg 0x28)
    if ringFull head (s.reg (rg 0x30)) size then s
    else
      let s := s.putWords ((s.reg (rg 0x18)).toNat / 64 * 64 + 64 * (head.toNat % size.toNat)) f.words
      { s.bumpReg (rg 0x28) with sched := { s.sched with events := Tbl.set [] s.sched.events die rest } })

/-! ### The watchdog (R44, R463) -/

/-- R44: do ticks count for the task? Frozen by the expiry itself it goes on counting (DEDUCED, log entry 7). -/
def Task.wdCounts (t : Task) : Bool :=
  t.st = .bound || t.st = .running || t.st = .waiting || t.st = .parked || (t.st = .frozen && !t.causes.contains .halt)

/-- R463: has the count of a task reached its limit? -/
def Task.wdExpired (t : Task) : Bool := t.bound && t.wdLimit ≤ t.wdCount && !t.causes.contains .watchdog && t.st ≠ .retired

/-- R44, R57, R463: the task is frozen or parked with WDOG. A Bound task keeps its state until its gang starts (DEDUCED, log entry
6). -/
def execWatchdogExpiry (g : Gtid) (s : State) : Out :=
  let t := s.task g
  .next (if !t.wdExpired then s
  else
    let fresh := !t.causes.any fun c => c = .fault || c = .watchdog
    let f := { s.recordOf g { unit := if t.isRow then 0 else 6, code := cWDOG } 8 t.pc false with fresh := fresh }
    (s.modTask g fun t =>
      { t with frame := if fresh then [] else t.frame, frameAt := if fresh then s.dcc else t.frameAt }.hold .watchdog).keepRecord f)

end Sys2Proof.Machine
end

