-- ==== Sys2Proof/Machine/Ras.lean ====
section
/-! DEFINITION. Uncorrectable errors and the tasks they stop, spares, post-package repair and the list of bad pages
(R385, R424, R475 to R481). -/

namespace Sys2Proof.Machine

/-! ### Uncorrectable errors (R384, R385) -/

/-- The unit of a core that an array serves, by its sub-array (R384). -/
def subUnit (sub : Nat) : Nat :=
  match sub with
  | 0 => 1
  | 1 => 2
  | 2 => 3
  | 3 => 3
  | 4 => 4
  | _ => 5

/-- The bundle of the instruction that unit `u` of a core is at (R580). -/
def Share.atWork (h : Share) (t : Task) (u : Nat) : Word :=
  match u with
  | 3 => ((h.mxComp <|> h.mxLoad).map (·.cmd.addr)).getD t.pc
  | 4 => (h.qrRun.map (·.cmd.addr)).getD t.pc
  | 5 => ((h.copies.find? (·.due)).map (·.cmd.addr)).getD t.pc
  | _ => nextOf t h

/-- The row's engine that accesses memory: CP with a due copy, else MX with a tile to load; none where neither does. -/
def State.engineAtWork (s : State) (g : Gtid) : Option (Nat × Nat) :=
  match (List.range 8).find? fun c => (s.share g c).copies.any (·.due) with
  | some c => some (c, 5)
  | none => ((List.range 8).find? fun c => (s.share g c).mxLoad.isSome).map fun c => (c, 3)

/-- The bundle that a task's scalar unit is at: that of the access it waits for, or the last one issued (R580). -/
def Task.scalarAt (t : Task) : Word :=
  match t.memOp with
  | some m => m.redo.addr
  | none => ((t.wave.getLast?).map (·.addr)).getD t.pc

/-- R385, R580: the access of a task that found an error in memory or on the way to it faults: the one it waits for, else that of an
engine of its row, else its Spine's or thread's. -/
def State.faultAccess (s : State) (g : Gtid) (r : Raised) : State :=
  let t := s.task g
  match t.memOp with
  | some m => s.failAccess g ((m.parts.findIdx? fun p => p.2.isNone).getD 0) r.code r.detail
  | none =>
    if !t.isRow then s.takeBcFault g { r with unit := 6 } t.pc false
    else match s.engineAtWork g with
      | some (c, u) => s.takeRowFault g c { r with unit := u } ((s.share g c).atWork t u) false
      | none => s.takeRowFault g 8 r t.scalarAt false

/-- R385: an uncorrectable error faults the access that found it; one without a requester faults nothing. Where
the error does not give the virtual address of the access, it is a free value. -/
def execUncorrectableError (e : ErrSite) (s : State) : Out :=
  let s := s.noteUncorrectable e (0x50 ≤ e.array && e.array < 0x60)
  .next (if e.gtid = 0 then s
  else
    let t := s.task e.gtid
    let (va, s) := s.drawFree
    let sp : Bool := e.array < 0x40 && e.sub = 0
    let r : Raised := { unit := 0, code := cMEMUE, va := if sp then BitVec.ofNat 64 e.loc else va, spad := sp,
                        detail := memueDetail (if 0x40 ≤ e.array then e.pa else 0) e.syndrome }
    if e.array = 0x80 then
      match (s.collOf (e.die % 4)).active with
      | some x => (s.collRecord (e.die % 4) x r).modColl (e.die % 4) fun c => { c with active := some { x with fault := true } }
      | none => s
    else if e.array = 0x81 then
      match (s.xchOf (e.die % 4)).ops.find? fun o => o.g = e.gtid with
      | some o => s.xFault o r
      | none => s
    else if !t.bound then s
    else if e.array < 0x40 then
      let c := e.array % 8
      let u := subUnit e.sub
      if t.isRow then s.takeRowFault e.gtid c { r with unit := u } ((s.share e.gtid c).atWork t u) false else s
    else if !t.isRow && e.array < 0x50 && e.sub = 1 then s.takeBcFault e.gtid { r with unit := 7 } t.pc false
    else if 0x60 ≤ e.array && e.array < 0x80 then
      (if t.isRow then s.takeRowFault e.gtid 8 r t.pc false else s.takeBcFault e.gtid { r with unit := 6 } t.pc false)
    else s.faultAccess e.gtid r)

/-! ### Spares (R477 to R480) -/

/-- The kinds of unit that have a spare. -/
inductive SpareKind where
  | mc | bc | slice
  deriving DecidableEq, Repr

def spareKind (n : Nat) : Option SpareKind :=
  match n with
  | 0 => some .mc
  | 1 => some .bc
  | 2 => some .slice
  | _ => none

/-- The place of a substitution in sparemap: its low bit. -/
def sparePlace (k : SpareKind) (row : Nat) : Nat :=
  match k with
  | .mc => 4 * row
  | .bc => 32
  | .slice => 36

def sparemapReg (die : Nat) : Nat := dieReg die 3 0
def sparestatReg (die : Nat) : Nat := dieReg die 3 8

/-- The number of a kind. -/
def SpareKind.no (k : SpareKind) : Nat :=
  match k with
  | .mc => 0
  | .bc => 1
  | .slice => 2

/-- The logical unit that a spare serves, if it serves one: of each row an MC, of each die a BC and a slice. -/
def State.spared (s : State) (die : Nat) (k : SpareKind) (row : Nat) : Option Nat :=
  (s.sec.spares.find? fun x => x.1 = die && x.2.1 = k.no && (k ≠ .mc || x.2.2.1 = row)).map (·.2.2.2)

/-- R477: a substitution is recorded or withdrawn: sparemap shows its unit, or 0xF. -/
def State.setSpared (s : State) (die : Nat) (k : SpareKind) (row : Nat) (unit : Option Nat) : State :=
  let i := sparePlace k row
  let m := s.reg (sparemapReg die)
  let others := s.sec.spares.filter fun x => !(x.1 = die && x.2.1 = k.no && (k ≠ .mc || x.2.2.1 = row))
  { s with sec := { s.sec with spares := others ++ (unit.map fun u => (die, k.no, row, u)).toList } }.setReg (sparemapReg die)
    (BitVec.ofNat 64 (m.toNat - Word.field m i 4 * 2 ^ i + unit.getD 15 % 16 * 2 ^ i))

/-- R478: is a unit idle? A saved context names the row it was saved from. -/
def State.unitIdle (s : State) (die : Nat) (k : SpareKind) (row : Nat) : Bool :=
  match k with
  | .mc => (s.rowTask die row false).isNone && (s.rowTask die row true).isNone &&
      !s.tasks.any fun e => e.2.st = .preempted && (e.2.lastPlace = .row die row false || e.2.lastPlace = .row die row true)
  | .bc => !s.tasks.any fun e => e.2.place.isBcOf die
  | .slice => s.quietDie die

/-- Is a die, row and unit number in range? -/
def spareRange (die : Nat) (k : SpareKind) (unit row : Nat) : Bool :=
  die < 4 &&
    (match k with
     | .mc => row < 8 && unit < 8
     | .bc => unit < 16
     | .slice => unit < 16)

/-- The lines of a slice, or of a list of addresses, leave it, written back (R374). -/
def State.flushLines (s : State) (p : Nat → Bool) : State :=
  (s.lines.filter fun e => p (128 * e.1) && e.2.resident && !e.2.held && e.2.holders.isEmpty).foldl (fun s e =>
    let pa := 128 * e.1
    let s := s.writeBackLine pa
    s.setLine pa { s.line pa with resident := false }) s

/-- Every entry of a TLB goes. -/
def State.emptyTlb (s : State) (k : Nat) : State := { s with tlbs := Tbl.set [] s.tlbs k [] }

/-- The flipped bits of an array of a die go with its unit. -/
def State.dropFlips (s : State) (die array : Nat) : State :=
  { s with flips := s.flips.filter fun e => e.1 / 2 ^ 48 ≠ die * 2 ^ 12 + array }

/-- R479, R480: the unit that now answers to a logical index has every state at its bind or reset value. -/
def State.freshUnit (s : State) (die : Nat) (k : SpareKind) (unit row : Nat) : State :=
  match k with
  | .mc =>
    let t0 := 104 + 6 * (8 * (8 * die + row) + unit)
    (List.range 6).foldl (fun s i => s.emptyTlb (t0 + i)) (s.dropFlips die (8 * row + unit))
  | .bc =>
    let base := tileAddr die unit 0
    let here (a : Nat) : Bool := a / 2 ^ 19 = base / 2 ^ 19
    let s := (s.dropFlips die (0x40 + unit)).emptyTlb (32 + 16 * die + unit)
    { s with mem := s.mem.filter fun e => !here e.1, tags := s.tags.filter fun e => !here e.1,
             bcVec := Tbl.set 0 s.bcVec (bcKey die unit) 0, bcDiv := Tbl.set 0 s.bcDiv (bcKey die unit) 0 }
  | .slice =>
    let k := 32 * die + unit
    let s := (List.range 11).foldl (fun s w => s.setReg (dieReg die 0 (0x10000 + 128 * unit + 8 * w)) 0) (s.dropFlips die (0x50 + unit))
    { s with slcLast := Tbl.set 0 s.slcLast k s.cycle }

/-- The end of a spare command: sparestat and the reply (R477, R505). -/
def State.spareDone (s : State) (w : Caller) (die st : Nat) : State :=
  let s := if die < 4 then s.setReg (sparestatReg die) (BitVec.ofNat 64 (2 ^ 63 + st)) else s
  s.reply w st []

/-- R374, R479: a slice's lines are written back and invalidated before another unit takes its place. -/
def State.leaveUnit (s : State) (die : Nat) (k : SpareKind) (unit : Nat) : State :=
  match k with
  | .slice => s.flushLines fun pa => windowOf pa = .hbm && paDie pa = die && homeSlice pa = unit
  | _ => s

/-- R479. -/
def execSpare (w : Caller) (die kind unit row : Nat) (s : State) : Out :=
  .next (s.command w fun s => match spareKind kind with
  | none => s.spareDone w die 3
  | some k =>
    if die < 4 && (k ≠ .mc || row < 8) && (s.spared die k row).isSome then s.spareDone w die 2
    else if !spareRange die k unit row then s.spareDone w die 3
    else if !s.unitIdle die k row then s.spareDone w die 1
    else (((s.leaveUnit die k unit).freshUnit die k unit row).setSpared die k row (some unit)).spareDone w die 0)

/-- R480: a substitution in force is withdrawn; without one the arguments are bad. The field of sparemap
reads 0xF both for none and for unit 15 (log entry 30). -/
def execUnspare (w : Caller) (die kind unit row : Nat) (s : State) : Out :=
  .next (s.command w fun s => match spareKind kind with
  | none => s.spareDone w die 3
  | some k =>
    if !spareRange die k unit row || s.spared die k row ≠ some unit then s.spareDone w die 3
    else if !s.unitIdle die k row then s.spareDone w die 1
    else (((s.leaveUnit die k unit).freshUnit die k unit row).setSpared die k row none).spareDone w die 0)

/-! ### Post-package repair (R475, R481) -/

/-- The part of D that names an HBM row: its stack, pseudo-channel, bank and row bits (R382, R475). -/
def hbmRow (d : Nat) : Nat :=
  d / 2 ^ 23 % 2 ^ 15 * 2 ^ 23 + d / 2 ^ 16 % 16 * 2 ^ 16 + hbmChannel d * 2 ^ 10 + hbmStack d * 2 ^ 8

/-- R475: the starts of the eight 256-byte spans of the row that holds D. -/
def rowSpans (d : Nat) : List Nat :=
  (List.range 8).map fun k =>
    let hi := d / 2 ^ 23 % 2 ^ 15 * 2 ^ 23 + k * 2 ^ 20 + d / 2 ^ 16 % 16 * 2 ^ 16
    hi + ((hi / 2 ^ 16 % 64) ^^^ hbmChannel d) * 2 ^ 10 + hbmStack d * 2 ^ 8

/-- The physical addresses of the row's 64 atoms. -/
def rowAtoms (die d : Nat) : List Nat :=
  ((rowSpans d).map fun b => (List.range 8).map fun i => die * 2 ^ 38 + b + 32 * i).flatten

/-- R481: an atom is read with correction and written back, or found uncorrectable and written as zero with empty tags. -/
def State.repairAtom (s : State) (a : Nat) : Nat × State :=
  match s.checkWord 0 a with
  | (none, s) => (0, s.correct a)
  | (some _, s) =>
    let s := (s.memWrite a 32 0).correct a
    (1, (List.range 4).foldl (fun s i => s.setTag (a + 8 * i) false) s)

def State.repairAtoms (s : State) : List Nat → Nat × State
  | [] => (0, s)
  | a :: r =>
    let (m, s) := s.repairAtom a
    let (n, s) := s.repairAtoms r
    (m + n, s)

/-- The end of a repair: pprstat. -/
def pprDone (ue st : Nat) : Word := BitVec.ofNat 64 (2 ^ 63 + ue % 2 ^ 16 * 2 ^ 32 + st)

/-- R481: a repair that was started with GO. -/
def execPprRepair (die : Nat) (s : State) : Out :=
  let die := die % 4
  let st := dieReg die 3 0x18
  let d := Word.field (s.reg (dieReg die 3 0x10)) 0 38
  .next (if (s.reg st).getLsbD 63 then s
  else
    let s := s.setReg st (pprDone 0 0)
    if !s.quietDie die then s.setReg st (pprDone 0 1)
    else if !Config.repairLeft s.sec.repairs die (hbmRow d) then s.setReg st (pprDone 0 2)
    else
      let atoms := rowAtoms die d
      let s := s.flushLines fun pa => atoms.any fun a => a / 128 * 128 = pa
      let (n, s) := s.repairAtoms atoms
      { s with sec := { s.sec with repairs := s.sec.repairs ++ [(die, hbmRow d)] } }.setReg st (pprDone n 0))

/-! ### Bad pages (R424) -/

/-- R424: an entry of the list of bad pages: frame and cause. -/
def execBadadd (w : Caller) (entry : Word) (s : State) : Out :=
  let f := Word.field entry 16 32
  .next (s.command w fun s => if 4096 ≤ s.sec.badPages.length || (Tbl.find? s.sec.badPages f).isSome then s.failReply w
  else { s with sec := { s.sec with badPages := Tbl.put s.sec.badPages f (Word.field entry 8 8) } }.reply w 0 [])

/-- R424: management clears an entry. -/
def execBadclr (w : Caller) (entry : Word) (s : State) : Out :=
  let f := Word.field entry 16 32
  .next (s.command w fun s => if (Tbl.find? s.sec.badPages f).isNone then s.failReply w
  else { s with sec := { s.sec with badPages := Tbl.erase s.sec.badPages f } }.reply w 0 [])

end Sys2Proof.Machine
end

