-- ==== Sys2Proof/Machine/Masters.lean ====
section
/-! DEFINITION. The two masters' reads and writes of control blocks (R11, R387, R420, R443, R446, R448, R477, R500 to R503,
R505, R514, R520, R539). -/

namespace Sys2Proof.Machine

/-- A command register takes a command: the bits a write sets, DONE and the status clear; a write while DONE = 0 is ignored,
and a number that names no command starts none. -/
def State.startCmd (s : State) (pa : Nat) (v : Word) (known : Nat → Bool) (mask : Nat) : State :=
  let rw := match regSpec pa with
    | none => 0
    | some r => r.rw
  let old := s.reg pa
  if !old.getLsbD 63 then s
  else if known (v.toNat % mask) then s.setReg pa (v &&& rw)
  else s.setReg pa ((old &&& ~~~rw) ||| (v &&& rw))

/-- R477, R481: a write of pprcmd: GO starts a repair, unless one runs. -/
def State.writePpr (s : State) (die : Nat) (v : Word) : State :=
  let st := dieReg die 3 0x18
  if !v.getLsbD 63 then s.writeReg (dieReg die 3 0x10) v
  else if !(s.reg st).getLsbD 63 then s
  else (s.writeReg (dieReg die 3 0x10) v).setReg st 0

/-- A write to a compute die's control blocks. -/
def State.writeDie (s : State) (die blk off : Nat) (v : Word) : State :=
  let pa := dieReg die blk off
  match blk, off with
  | 0, 0x0000 => s.startCmd pa v (fun c => 1 ≤ c && c ≤ 3) 4
  | 0, 0x8000 => s.startCmd pa v (fun c => 1 ≤ c && c ≤ 3) 4
  | 0, 0x10800 => if v = 1 then s.push (.sliceCounterClear die) else s
  | 1, 0x0000 => s.push (.hintPost die 0 v)
  | 1, 0x10080 => if (s.reg pa).getLsbD 63 && v.getLsbD 0 then s.setReg pa 0 else s
  | 2, 0x0000 => if (s.task v).die = die then s.push (.bwake v) else s
  | 3, 0x0010 => s.writePpr die v
  | _, _ =>
    if blk = 2 && die = 0 && 0x1000 ≤ off && off < 0x2000 && off % 64 = 0x10 then s.doorbell ((off - 0x1000) / 64) v
    else s.writeReg pa v

/-- A write to an I/O die's control blocks. -/
def State.writeIo (s : State) (side blk off : Nat) (v : Word) : State :=
  let pa := ioReg side blk off
  match side, blk, off with
  | 0, 1, 0x0000 => s.startCmd pa v (fun c => 1 ≤ c && c ≤ 4) 16
  | 0, 3, 0x0800 => s.startCmd pa v (fun c => 1 ≤ c && c ≤ 5) 16
  | 0, 3, 0x5018 => s.push (.pairClear v)
  | _, _, _ =>
    if blk = 3 && 0x3000 ≤ off && off < 0x3000 + 8 * 19 then s.setReg pa 0
    else if side = 0 && blk = 3 && 0x100000 ≤ off && off < 0x180000 && off % 128 < 64 then s.setReg pa v
    else s.writeReg pa v

/-- R503: a master writes a 64-bit word at a control-block address; the host's write to an M-only register is ignored, and so
is any to an address that no chapter defines. -/
def State.masterWrite (s : State) (host : Bool) (pa : Nat) (v : Word) : State :=
  match regSpec pa with
  | none => s
  | some r =>
    if r.mOnly && host then s
    else match windowOf pa with
      | .die => s.writeDie (paDie pa) (blkOf pa) (offOf pa) v
      | .io => s.writeIo (pa / 2 ^ 38 % 2) (blkOf pa) (offOf pa) v
      | _ => s

/-- A master reads a 64-bit word at a control-block address (R11, R473, R502). -/
def State.masterRead (s : State) (pa : Nat) : Word × State :=
  match windowOf pa with
  | .die => (s.view pa, (s.readReg pa).2)
  | .io => (s.view pa, (s.readReg pa).2)
  | _ => (0, s)

/-- R503: a master's write reaches a register. -/
def execRegisterWrite (host : Bool) (pa : Nat) (v : Word) (s : State) : Out := .next (s.masterWrite host pa v)

/-- R11: a read of an RC register clears it. -/
def execReadClearRegister (pa : Nat) (s : State) : Out := .next (s.masterRead pa).2

/-- The address of a command lies in a control block. -/
def isBlock (pa : Nat) : Bool := windowOf pa = .die || windowOf pa = .io

/-- R505: the word at a control-block address; an address outside the blocks fails. -/
def execRegread (w : Caller) (pa : Nat) (s : State) : Out :=
  .next (s.command w fun s => if !isBlock pa then s.failReply w
  else
    let (v, s) := s.masterRead (pa / 8 * 8)
    s.reply w 0 (wordBytes 8 v))

/-- R505: a write by either master. -/
def execRegwrite (w : Caller) (pa : Nat) (v : Word) (s : State) : Out :=
  .next (s.command w fun s => if !isBlock pa then s.failReply w
  else
    let host : Bool := match w with
      | .lcp _ _ => true
      | .sideband _ => false
    (s.masterWrite host (pa / 8 * 8) v).reply w 0 [])

end Sys2Proof.Machine
end

