-- ==== Sys2Proof/Machine/Debug.lean ====
section
/-! DEFINITION. Breakpoints, debug commands, program-counter samples and the counter grids (R512 to R515, R518, R519). -/

namespace Sys2Proof.Machine

def dbgReg (off : Nat) : Nat := ioReg 0 3 off

/-! ### Breakpoints and samples -/

/-- R513: a task whose next bundle matches a watch entry halts before it issues. -/
def execBreakpointHalt (g : Gtid) (s : State) : Out :=
  let t := s.task g
  .next (if t.st ≠ .running || !s.broken g then s
  else match t.fetched with
    | none => s
    | some f =>
      match s.breakAt g f.addr with
      | none => s
      | some i => (s.modTask g fun t => { t with brkPast := true }).halt g i 0 f.addr)

/-- R515: every dbgsamp ticks the PC of each bound task with a watch entry is sampled. -/
def State.sampleDue (s : State) (g : Gtid) : Bool :=
  let n := s.reg (dbgReg 0x820)
  n ≠ 0 && s.dcc.toNat % n.toNat = 0 && (s.task g).bound && (s.watched g fun _ _ => true).isSome

/-- R515: a PC sample goes to the Press of the task's die. -/
def execPcSample (g : Gtid) (s : State) : Out :=
  .next (if s.sampleDue g then s.press (s.task g).die ⟨3, g, s.dcc, (s.task g).pc⟩ else s)

/-! ### Commands (R514) -/

/-- R514: what a command ends with: DONE and STAT. -/
def State.debugDone (s : State) (st : Nat) : State :=
  s.setReg (dbgReg 0x800) ((s.reg (dbgReg 0x800) &&& 0xF) ||| BitVec.ofNat 64 (2 ^ 63 + st * 2 ^ 60))

/-- The task dbggtid names. -/
def State.debugTask (s : State) : Gtid := s.reg (dbgReg 0x808)

/-- R514: has command `k` been written and not ended? -/
def State.debugCmd (s : State) (k : Nat) : Bool :=
  let v := s.reg (dbgReg 0x800)
  !v.getLsbD 63 && v.toNat % 16 = k

/-- R514: is the task halted? -/
def Task.halted (t : Task) : Bool := t.causes.contains .halt && t.st ≠ .absent && t.st ≠ .retired

/-- R514, HALT: the task halts at its bundle boundary. -/
def execHalt (s : State) : Out :=
  let g := s.debugTask
  let t := s.task g
  .next (if !s.debugCmd 1 then s
  else if t.st = .absent || t.st = .retired then s.debugDone 2
  else (if t.halted then s else s.haltFree g t.pc).debugDone 0)

/-- R514, RESUME: the task leaves the halt. -/
def execResume (s : State) : Out :=
  let g := s.debugTask
  .next (if !s.debugCmd 2 then s
  else if !(s.task g).halted then s.debugDone 3
  else (s.modTask g fun t => t.release .halt).debugDone 0)

/-- R514, STEP: one bundle issues, and the task halts again. -/
def execStep (s : State) : Out :=
  let g := s.debugTask
  .next (if !s.debugCmd 3 then s
  else if !(s.task g).halted then s.debugDone 3
  else (s.modTask g fun t => { t.release .halt with stepping := true }).debugDone 0)

/-- A 64-bit piece of a wide register. -/
def pieceOf {n : Nat} (b : BitVec n) (i : Nat) : Word := b.extractLsb' (64 * i) 64

/-- A wide register with one piece replaced. -/
def setPiece {n : Nat} (b : BitVec n) (i : Nat) (v : Word) : BitVec n :=
  (b &&& ~~~((BitVec.allOnes 64).setWidth n <<< (64 * i))) ||| (v.setWidth n <<< (64 * i))

/-- R514: the words of a vector register and of a mask, and how many registers the unit has. -/
def Task.vecWords (t : Task) : Nat := if t.isRow then 128 else 32
def Task.maskWords (t : Task) : Nat := if t.isRow then 32 else 8
def Task.vecCount (t : Task) : Nat := if t.isRow then 64 else 256 / t.bcMode

/-- R514: does a selection name a word of the task? `f` is the file, `c` the core, `i` the index. -/
def Task.selOk (t : Task) (f c i : Nat) : Bool :=
  let core := !t.isRow || c < 8
  match f with
  | 0 => t.isRow && i < 64
  | 1 => t.isRow && core && i < 32
  | 2 => !t.isRow && i < 32
  | 3 => core && i < t.vecCount * t.vecWords
  | 4 => i = 0
  | 5 => core && i < 8 * t.maskWords
  | 6 => t.isRow && core && i < 8192
  | 7 => t.isRow && core && i < 4 * 545
  | 8 =>
    csrHeld (if t.isRow then .spine else .bc (256 / t.bcMode)) i && (i < 0x100 || core) && !(i = 4 && t.isFiller)
  | _ => false

/-- R28: the bits of a mask within the shape. -/
def shapeMask (w : Word) : BitVec 2048 := BitVec.ofNat 2048 (2 ^ min 2048 (shapeRows w * shapeCols w) - 1)

/-- R514, R27, R28: the word a selection names. -/
def State.debugRead (s : State) (g : Gtid) (f c i : Nat) : Word :=
  let t := s.task g
  let h := s.share g c
  let vf := if t.isRow then h.vec else t.vec
  let live := shapeMask (if t.isRow then h.vshape else t.vshape)
  match f with
  | 0 => Tbl.get 0 t.r i
  | 1 => Tbl.get 0 h.a i
  | 2 => Tbl.get 0 t.r i
  | 3 => pieceOf (Tbl.get 0 vf.v (i / t.vecWords)) (i % t.vecWords)
  | 4 => ((if t.isRow && c < 8 then h.p else t.p) ||| 1).setWidth 64
  | 5 =>
    let k := i / t.maskWords
    pieceOf ((if k = 0 then BitVec.allOnes 2048 else Tbl.get 0 vf.m k) &&& live) (i % t.maskWords)
  | 6 => Tbl.get 0 h.z i
  | 7 => (Tbl.get {} h.t (i / 545)).imageWord (i % 545)
  | _ => if i < 0x100 then t.csr g s.dcc i else h.csr i

/-- A vector file with one word of a vector or of a mask replaced; m0 is fixed, and so are the bits of a mask beyond the shape
(R27, R28). -/
def VecFile.setVecWord (vf : VecFile) (n k : Nat) (v : Word) : VecFile :=
  { vf with v := Tbl.set 0 vf.v n (setPiece (Tbl.get 0 vf.v n) k v) }

def VecFile.setMaskWord (vf : VecFile) (live : BitVec 2048) (n k : Nat) (v : Word) : VecFile :=
  let old := Tbl.get 0 vf.m n
  if n = 0 then vf else { vf with m := Tbl.set 0 vf.m n ((setPiece old k v &&& live) ||| (old &&& ~~~live)) }

/-- R514, R27, R40: the word a selection names is written. -/
def State.debugWrite (s : State) (g : Gtid) (f c i : Nat) (v : Word) : State :=
  let t := s.task g
  let vec (h : VecFile → VecFile) : State :=
    if t.isRow then s.modShare g c fun x => { x with vec := h x.vec } else s.modTask g fun t => { t with vec := h t.vec }
  match f with
  | 0 => s.modTask g fun t => { t with r := Tbl.set 0 t.r i v }
  | 1 => s.modShare g c fun h => { h with a := Tbl.set 0 h.a i v }
  | 2 => s.modTask g fun t => { t with r := Tbl.set 0 t.r i v }
  | 3 => vec fun x => x.setVecWord (i / t.vecWords) (i % t.vecWords) v
  | 4 =>
    if t.isRow && c < 8 then s.modShare g c fun h => { h with p := v.setWidth 32 ||| 1 }
    else s.modTask g fun t => { t with p := v.setWidth 32 ||| 1 }
  | 5 =>
    let live := shapeMask (if t.isRow then (s.share g c).vshape else t.vshape)
    vec fun x => x.setMaskWord live (i / t.maskWords) (i % t.maskWords) v
  | 6 => s.modShare g c fun h => { h with z := Tbl.set 0 h.z i v }
  | 7 => s.modShare g c fun h => { h with t := Tbl.set {} h.t (i / 545) ((Tbl.get {} h.t (i / 545)).setImageWord (i % 545) v) }
  | _ =>
    if i < 0x100 then s.modTask g fun t => t.setCsr i .write v else s.modShare g c fun h => h.setCsr i .write v

/-- R514: FILE, CORE and INDEX of dbgsel. -/
def State.debugSel (s : State) : Nat × Nat × Nat :=
  let w := s.reg (dbgReg 0x810)
  (Word.field w 0 4, Word.field w 4 4, Word.field w 16 16)

/-- R514, READ. -/
def execRead (s : State) : Out :=
  let g := s.debugTask
  let (f, c, i) := s.debugSel
  .next (if !s.debugCmd 4 then s
  else if !(s.task g).halted then s.debugDone 3
  else if !(s.task g).selOk f c i then s.debugDone 4
  else (s.setReg (dbgReg 0x818) (s.debugRead g f c i)).debugDone 0)

/-- R514, WRITE. -/
def execWrite (s : State) : Out :=
  let g := s.debugTask
  let (f, c, i) := s.debugSel
  .next (if !s.debugCmd 5 then s
  else if !(s.task g).halted then s.debugDone 3
  else if !(s.task g).selOk f c i then s.debugDone 4
  else (s.debugWrite g f c i (s.reg (dbgReg 0x818))).debugDone 0)

/-! ### Counter grids (R518, R519) -/

/-- R519: the register `w` of grid ring `i`. -/
def gridReg (i w : Nat) : Nat := dbgReg (0x2000 + 64 * i + 8 * w)

/-- A grid entry: flits and stall cycles. -/
def State.gridEntry (s : State) (k : Nat) : Word :=
  BitVec.ofNat 64 (Tbl.get 0 s.dbg.flits k % 2 ^ 32 + Tbl.get 0 s.dbg.stalls k % 2 ^ 32 * 2 ^ 32)

/-- Fresh free words. -/
def State.drawWords (s : State) : Nat → List Word × State
  | 0 => ([], s)
  | n + 1 =>
    let (w, s) := s.drawFree
    let (l, s) := s.drawWords n
    (w :: l, s)

/-- R519: the entries of die `i` (compute dies, then north and south). What the omega links of a compute die carry, and the
frames of the host port, the spec leaves to the implementation: free values. -/
def State.gridEntries (s : State) (i : Nat) : List Word × State :=
  if i < 4 then s.drawWords 774
  else
    let links := (List.range 128).map fun k => s.gridEntry (128 * (i - 4) + k)
    if i = 4 then
      let (w, s) := s.drawFree
      (links ++ [w, 0, 0, 0], s)
    else (links ++ [s.gridEntry 256, s.gridEntry 264, s.gridEntry 272, 0], s)

/-- R518: the counts of a die start anew. -/
def State.clearGrid (s : State) (i : Nat) : State :=
  let keep (e : Nat × Nat) : Bool := i < 4 || (if i = 4 then 128 ≤ e.1 else e.1 < 128)
  { s with dbg := { s.dbg with flits := s.dbg.flits.filter keep, stalls := s.dbg.stalls.filter keep } }

/-- R519: at a multiple of 2^20 ticks a die stores its grid, or drops and counts it, and clears its counts. -/
def execGridStore (i : Nat) (s : State) : Out :=
  .next (if 6 ≤ i || s.dcc.toNat % 1048576 ≠ 0 then s
  else
    let size := s.reg (gridReg i 1)
    let head := s.reg (gridReg i 2)
    let (es, s) := s.gridEntries i
    let bytes := 32 + 8 * es.length
    let s :=
      if ringFull head (s.reg (gridReg i 3)) size then
        { s with dbg := { s.dbg with gridDrops := Tbl.set 0 s.dbg.gridDrops i (Tbl.get 0 s.dbg.gridDrops i + 1) } }
      else
        let s := s.putWords ((s.reg (gridReg i 0)).toNat / 8 * 8 + bytes * (head.toNat % size.toNat)) ([BitVec.ofNat 64 i, s.dcc, 0, 0] ++ es)
        s.bumpReg (gridReg i 2)
    s.clearGrid i)

end Sys2Proof.Machine
end

