-- ==== Sys2Proof/Machine/Float.lean ====
section
/-! DEFINITION. Scalar floating point (R120 to R123), on the Spine and on a binning thread. -/

namespace Sys2Proof.Machine

/-- The format of MOD[15:12] (R120). -/
def fltFmt (f : FmtA) : FloatFmt := floatFmt (f.mod.extractLsb' 12 4).toNat

/-- The rounding mode of MOD[11:9] (R120). -/
def State.fltMode (s : State) (f : FmtA) : Nat := s.roundMode (f.mod.extractLsb' 9 3).toNat

/-- S(D) := op(A, B) on values, with the mode (R120). -/
def State.fltOp (s : State) (f : FmtA) (op : FloatFmt → Nat → FVal → FVal → FRes) : Out :=
  s.guarded f.g fun s =>
    let F := fltFmt f
    s.wrFloat f.d (op F (s.fltMode f) (fDecode F (s.rdInt f.sa).toNat) (fDecode F (s.rdInt f.sb).toNat))

/-- R120, FADD. -/
def execFadd (f : FmtA) (s : State) : Out := s.fltOp f fAdd

/-- R120, FSUB. -/
def execFsub (f : FmtA) (s : State) : Out := s.fltOp f fun F m a b => fAdd F m a b.neg

/-- R120, FMUL. -/
def execFmul (f : FmtA) (s : State) : Out := s.fltOp f fMul

/-- R120, FDIV. -/
def execFdiv (f : FmtA) (s : State) : Out := s.fltOp f fDiv

/-- R120, FSQRT. -/
def execFsqrt (f : FmtA) (s : State) : Out := s.fltOp f fun F m a _ => fSqrt F m a

/-- R120, FMA: A × B + S(D). -/
def execFma (f : FmtA) (s : State) : Out :=
  s.guarded f.g fun s =>
    let F := fltFmt f
    let v (r : BitVec 6) := fDecode F (s.rdInt r).toNat
    s.wrFloat f.d (fFma F (s.fltMode f) (v f.sa) (v f.sb) (v f.d))

/-- R120, FMIN. -/
def execFmin (f : FmtA) (s : State) : Out :=
  s.guarded f.g fun s => s.wrFloat f.d (fMinMax (fltFmt f) false (s.rdInt f.sa).toNat (s.rdInt f.sb).toNat)

/-- R120, FMAX. -/
def execFmax (f : FmtA) (s : State) : Out :=
  s.guarded f.g fun s => s.wrFloat f.d (fMinMax (fltFmt f) true (s.rdInt f.sa).toNat (s.rdInt f.sb).toNat)

/-- R121: the condition of FCMP. -/
def fltCond (n : Nat) : FCond :=
  match n with
  | 0 => .eq
  | 1 => .lt
  | 2 => .le
  | _ => .un

/-- R121, FCMP. -/
def execFcmp (f : FmtA) (s : State) : Out :=
  s.guarded f.g fun s =>
    let r := fCmp (fltFmt f) (fltCond (f.mod.extractLsb' 0 3).toNat) (s.rdInt f.sa).toNat (s.rdInt f.sb).toNat
    (s.wrPred f.d.toNat r.1).orFlags r.2

/-- R122, FCVT. -/
def execFcvt (f : FmtA) (s : State) : Out :=
  s.guarded f.g fun s =>
    let src := floatFmt (f.mod.extractLsb' 5 4).toNat
    s.wrFloat f.d (fConvert (fltFmt f) (s.fltMode f) s.saturates (fDecode src (s.rdInt f.sa).toNat))

/-- The bounds of an integer type of R122: 0 signed 64, 1 unsigned 64, 2 signed 32, 3 unsigned 32. -/
def intTypeBounds (t : Nat) : Int × Int :=
  match t with
  | 0 => (-(2 ^ 63), 2 ^ 63 - 1)
  | 1 => (0, 2 ^ 64 - 1)
  | 2 => (-(2 ^ 31), 2 ^ 31 - 1)
  | _ => (0, 2 ^ 32 - 1)

/-- The value of a register read as an integer type of R122. -/
def intTypeRead (t : Nat) (w : Word) : Int :=
  match t with
  | 0 => w.toInt
  | 1 => w.toNat
  | 2 => (w.setWidth 32).toInt
  | _ => (w.setWidth 32).toNat

/-- R122, FCVTI. -/
def execFcvti (f : FmtA) (s : State) : Out :=
  s.guarded f.g fun s =>
    let b := intTypeBounds (f.mod.extractLsb' 3 2).toNat
    let r := fToInt (s.fltMode f) b.1 b.2 (fDecode (fltFmt f) (s.rdInt f.sa).toNat)
    (s.wrInt f.d (BitVec.ofInt 64 r.1)).orFlags r.2

/-- R122, FCVTF. -/
def execFcvtf (f : FmtA) (s : State) : Out :=
  s.guarded f.g fun s =>
    s.wrFloat f.d (fFromInt (fltFmt f) (s.fltMode f) false (intTypeRead (f.mod.extractLsb' 3 2).toNat (s.rdInt f.sa)))

end Sys2Proof.Machine
end

