-- ==== Sys2Proof/Machine/Secure.lean ====
section
/-! DEFINITION. The boot chain, firmware images, identity, key slots and attestation (R483 to R490, R499, R505). -/

namespace Sys2Proof.Machine

/-! ### Strings of bytes -/

/-- The bytes of a 384-bit value, the most significant first. -/
def digestBytes (d : BitVec 384) : List Byte := (List.range 48).map fun i => d.extractLsb' (8 * (47 - i)) 8

/-- `n` bytes of a string from offset `o` on; bytes beyond its end read zero. -/
def bytesAt (bs : List Byte) (o n : Nat) : List Byte := (List.range n).map fun i => (bs[o + i]?).getD 0

/-- Word at byte offset `o` of a string. -/
def wordIn (bs : List Byte) (o : Nat) : Word := BitVec.ofNat 64 (leNat (bytesAt bs o 8))

def allZero (bs : List Byte) : Bool := bs.all (· = 0)

/-! ### The security block (R486, R499) -/

def secReg (off : Nat) : Nat := ioReg 0 0 off

/-- Words of the block from an offset on, as bytes. -/
def State.secBytes (s : State) (off : Nat) : Nat → List Byte
  | 0 => []
  | n + 1 => wordBytes 8 (s.reg (secReg off)) ++ s.secBytes (off + 8) n

/-- Bytes into consecutive registers. -/
def State.setSec (s : State) (off : Nat) (bs : List Byte) : State :=
  (List.range (bs.length / 8)).foldl (fun s i => s.setReg (secReg (off + 8 * i)) (wordIn bs (8 * i))) s

/-- R486: measurement register `i`. -/
def State.measured (s : State) (i : Nat) : List Byte := s.secBytes (64 * i) 6

/-- R486: a measurement register is extended. -/
def State.extend (s : State) (i : Nat) (v : List Byte) : State :=
  s.setSec (64 * i) (digestBytes (Config.sha384 (s.measured i ++ v)))

/-! ### Images (R484, R485) -/

def imageKind (bs : List Byte) : Nat := (wordIn bs 0).toNat
def imageSvn (bs : List Byte) : Nat := (wordIn bs 8).toNat
def imageDigest (bs : List Byte) : List Byte := bytesAt bs 64 48

/-- R485: is an image accepted for a KIND? -/
def State.imageOk (s : State) (kind : Nat) (bs : List Byte) : Bool :=
  let len := (wordIn bs 16).toNat
  imageKind bs = kind && 1 ≤ kind && kind ≤ 4 && imageSvn bs < 2 ^ 16 && 1 ≤ len && len ≤ 2 ^ 24 && bs.length = 256 + len &&
    allZero (bytesAt bs 24 40) && allZero (bytesAt bs 112 48) &&
    Config.ecdsaOk Config.firmwareKey (Config.sha384 (bs.take 160)) (bytesAt bs 160 96) &&
    digestBytes (Config.sha384 (bs.drop 256)) = imageDigest bs &&
    Tbl.get 0 s.sec.minSvn kind ≤ imageSvn bs

/-- The accepted copy of a KIND: copy A first (R485). -/
def State.acceptedCopy (s : State) (kind : Nat) : Option (Bool × List Byte) :=
  let a := Tbl.get [] s.sec.copyA kind
  let b := Tbl.get [] s.sec.copyB kind
  if s.imageOk kind a then some (false, a) else if s.imageOk kind b then some (true, b) else none

/-- R483, R485, R486: the images are verified and measured in order; one that is not accepted leaves the module in
recovery. -/
def State.bootFrom (s : State) : List Nat → State
  | [] => s
  | k :: r =>
    match s.acceptedCopy k with
    | none => { s with sec := { s.sec with recovery := true } }
    | some (b, img) =>
      ({ s with sec := { s.sec with fromB := Tbl.set false s.sec.fromB k b } }.extend (k - 1) (imageDigest img)).bootFrom r

/-- Is a register kept in module flash: the key slot table with its counter, and sparemap (R480, R489)? -/
def flashReg (pa : Nat) : Bool :=
  (secReg 0x1000 ≤ pa && pa < secReg 0x1708) || (List.range 4).any fun d => pa = sparemapReg d

/-- R12, R379, R442, R480, R483, R489, R505: module reset: what flash and fuses hold stays, and the boot chain runs. -/
def execModuleReset (s : State) : Out :=
  let kept : Sec := { s.sec with recovery := false, actgen := [], fromB := [] }
  .next ({ State.reset with regs := s.regs.filter fun e => flashReg e.1, sec := kept, free := s.free }.bootFrom [1, 2, 3, 4])

/-! ### Commands on firmware (R485, R505) -/

/-- R505: an accepted image is written over the copy that was not booted from; any other is refused with status 1. -/
def execFwupdate (w : Caller) (img : List Byte) (s : State) : Out :=
  let k := imageKind img
  .next (if !s.imageOk k img then s.reply w 1 []
  else if Tbl.get false s.sec.fromB k then { s with sec := { s.sec with copyA := Tbl.put s.sec.copyA k img } }.reply w 0 []
  else { s with sec := { s.sec with copyB := Tbl.put s.sec.copyB k img } }.reply w 0 [])

/-- R485: the fused minimum rises, never above the SVN of an accepted copy in flash. -/
def execSvn (w : Caller) (kind svn : Nat) (s : State) : Out :=
  let copies := [Tbl.get [] s.sec.copyA kind, Tbl.get [] s.sec.copyB kind]
  .next (s.command w fun s =>
    if 1 ≤ kind && kind ≤ 4 && Tbl.get 0 s.sec.minSvn kind ≤ svn && copies.any (fun c => s.imageOk kind c && svn ≤ imageSvn c) then
      { s with sec := { s.sec with minSvn := Tbl.set 0 s.sec.minSvn kind svn } }.reply w 0 []
    else s.failReply w)

/-! ### Key slots (R489, R490) -/

/-- The offset of a key slot, and of the command counter. -/
def slotOff (i : Nat) : Nat := 0x1000 + 112 * i
def ctrOff : Nat := 0x1700

def State.slotState (s : State) (i : Nat) : Nat := Word.field (s.reg (secReg (slotOff i + 96))) 0 8
def State.slotGen (s : State) (i : Nat) : Nat := Word.field (s.reg (secReg (slotOff i + 96))) 16 16
def State.slotKey (s : State) (i : Nat) : List Byte := s.secBytes (slotOff i) 12

/-- STATE and LASTGEN of a slot. -/
def State.setSlot (s : State) (i st gen : Nat) : State := s.setReg (secReg (slotOff i + 96)) (BitVec.ofNat 64 (st + gen * 2 ^ 16))

/-- R489: the owner key hash is set once. -/
def execOwner (w : Caller) (hash : BitVec 384) (s : State) : Out :=
  .next (s.command w fun s =>
    if s.sec.ownerHash ≠ 0 then s.reply w 4 []
    else { s with sec := { s.sec with ownerHash := hash } }.reply w 0 [])

/-- R490: the status of an enrolment command. -/
def State.enrolStatus (s : State) (b : List Byte) : Nat :=
  let op := Word.field (wordIn b 0) 0 8
  let slot := Word.field (wordIn b 0) 8 4
  let owner := bytesAt b 112 96
  let key := bytesAt b 16 96
  if s.sec.ownerHash = 0 || s.sec.ownerHash ≠ Config.sha384 owner then 2
  else if !Config.ecdsaOk owner (Config.sha384 (bytesAt b 0 208)) (bytesAt b 208 96) then 1
  else if wordIn b 8 ≠ s.reg (secReg ctrOff) + 1 then 3
  else if b.length ≠ 304 || Word.field (wordIn b 0) 12 52 ≠ 0 || !(op = 1 || op = 2) ||
      (op = 1 && (s.slotState slot = 1 || !Config.onCurve key)) || (op = 2 && (s.slotState slot ≠ 1 || !allZero key)) then 4
  else 0

/-- R490: the checks in their order, then the slot, the counter and M4. -/
def State.enrolCmd (s : State) (w : Caller) (b : List Byte) : State :=
  let op := Word.field (wordIn b 0) 0 8
  let slot := Word.field (wordIn b 0) 8 4
  match s.enrolStatus b with
  | 0 =>
    let s := if op = 1 then (s.setSec (slotOff slot) (bytesAt b 16 96)).setSlot slot 1 0 else s.setSlot slot 2 (s.slotGen slot)
    ((s.setReg (secReg ctrOff) (wordIn b 8)).extend 4 (digestBytes (Config.sha384 (bytesAt b 0 112)))).reply w 0 []
  | n => s.reply w n []

/-- Does the command revoke? -/
def isRevoke (b : List Byte) : Bool := Word.field (wordIn b 0) 0 8 = 2

/-- R490. -/
def execEnrol (w : Caller) (body : List Byte) (s : State) : Out :=
  .next (s.command w fun s => if isRevoke body then s else s.enrolCmd w body)

/-- R490. -/
def execRevoke (w : Caller) (body : List Byte) (s : State) : Out :=
  .next (s.command w fun s => if isRevoke body then s.enrolCmd w body else s)

/-! ### Attestation (R488) -/

/-- The first 544 bytes of a report. -/
def State.report (s : State) (nonce : List Byte) : List Byte :=
  let short (n : Nat) : List Byte := leBytes n 2
  wordBytes 8 (BitVec.ofNat 64 (1 + 640 * 2 ^ 16)) ++ wordBytes 8 Config.serial ++ bytesAt nonce 0 48 ++
    ((List.range 8).map s.measured).flatten ++ wordBytes 8 s.dcc ++
    ((List.range 4).map fun i => short (Tbl.get 0 s.sec.minSvn (i + 1))).flatten ++
    ((List.range 16).map fun i => short (Tbl.get 0 s.sec.actgen i)).flatten ++
    digestBytes (Config.sha384 (s.secBytes 0x1000 225))

/-- R488: the report, signed with the identity key. -/
def execAttest (w : Caller) (nonce : List Byte) (s : State) : Out :=
  .next (s.command w fun s =>
    if nonce.length ≠ 48 then s.failReply w
    else
      let b := s.report nonce
      let sig := Config.identitySign (Config.sha384 b)
      s.reply w 0 (b ++ (List.range 96).map fun i => sig.extractLsb' (8 * (95 - i)) 8))

end Sys2Proof.Machine
end

