-- ==== Sys2Proof/Machine/Loader.lean ====
section
/-! DEFINITION. Signed weight loading: manifests, sessions, shards and the commit of a generation (R491 to R497, R500). -/

namespace Sys2Proof.Machine

def ldReg (off : Nat) : Nat := ioReg 0 1 off

/-- The bytes of memory from a physical address on. -/
def State.memBytes (s : State) (pa n : Nat) : List Byte := (List.range n).map fun i => s.memByte (pa + i)

/-! ### The manifest (R491, R492) -/

/-- Shard entry `i` of a manifest. -/
def shardOf (m : List Byte) (i : Nat) : Shard :=
  let o := 128 + 64 * i
  let w := wordIn m (o + 48)
  { die := Word.field w 40 2, res := Word.field w 42 2, expert := Word.field w 48 16, off := Word.field (wordIn m (o + 56)) 0 38,
    len := Word.field w 0 40, digest := BitVec.ofNat 384 ((bytesAt m o 48).foldl (fun v b => 256 * v + b.toNat) 0) }

/-- R492: does an entry break its field limits? -/
def entryBad (m : List Byte) (i : Nat) : Bool :=
  let w := wordIn m (128 + 64 * i + 48)
  let o := wordIn m (128 + 64 * i + 56)
  let s := shardOf m i
  s.len = 0 || s.res = 3 || Word.field w 44 4 ≠ 0 || (if s.res = 0 then s.expert ≠ 0xFFFF else 1024 ≤ s.expert) ||
    Word.field o 38 26 ≠ 0 || s.off % 128 ≠ 0

/-- R492: do two entries name one expert of a die, or overlap there? -/
def entriesClash (a b : Shard) : Bool :=
  a.die = b.die && ((a.res ≠ 0 && b.res ≠ 0 && a.expert = b.expert) || (a.off < b.off + b.len && b.off < a.off + a.len))

def anyClash : List Shard → Bool
  | [] => false
  | a :: r => r.any (entriesClash a) || anyClash r

def manGen (m : List Byte) : Nat := Word.field (wordIn m 8) 16 16
def manSlot (m : List Byte) : Nat := Word.field (wordIn m 8) 32 4
def manShards (m : List Byte) : Nat := (wordIn m 16).toNat

/-- R491, R492: is the header malformed? -/
def headBad (m : List Byte) : Bool :=
  wordIn m 0 ≠ 0x4D4E4647 || Word.field (wordIn m 8) 0 16 ≠ 1 || manGen m = 0 || Word.field (wordIn m 8) 36 28 ≠ 0 ||
    manShards m = 0 || 65536 < manShards m || !allZero (bytesAt m 24 8) || !allZero (bytesAt m 80 48)

def manEntries (m : List Byte) : List Shard := (List.range (manShards m)).map (shardOf m)

/-- R492: is a manifest malformed? -/
def manBad (m : List Byte) : Bool := headBad m || (List.range (manShards m)).any (entryBad m) || anyClash (manEntries m)

/-- The signed part of a manifest, and its signature. -/
def manSigned (m : List Byte) : List Byte := m.take (128 + 64 * manShards m)
def manSig (m : List Byte) : List Byte := bytesAt m (128 + 64 * manShards m) 96

/-- The manifest at a physical address of local HBM: its header alone where that is malformed. -/
def State.readManifest (s : State) (pa : Nat) : List Byte :=
  let h := s.memBytes pa 128
  if windowOf pa ≠ .hbm then []
  else if headBad h then h else s.memBytes pa (128 + 64 * manShards h + 96)

/-! ### LOAD (R493) -/

/-- R493: PABASE and VABASE of the four dies. -/
def State.readPlace (s : State) : List (Nat × Word) :=
  let p := (s.reg (ldReg 0x10)).toNat / 64 * 64
  (List.range 4).map fun d => ((s.memWord (p + 16 * d)).toNat, s.memWord (p + 16 * d + 8))

/-- The physical range of a shard. -/
def shardRange (place : List (Nat × Word)) (x : Shard) : Nat × Nat := (((place[x.die]?).map (·.1)).getD 0 + x.off, x.len)

def rangesMeet (a b : Nat × Nat) : Bool := a.1 < b.1 + b.2 && b.1 < a.1 + a.2

/-- R493: is a shard's place not in its die's local HBM, or within an active generation? -/
def State.placeBad (s : State) (place : List (Nat × Word)) (x : Shard) : Bool :=
  let base := ((place[x.die]?).map (·.1)).getD 0
  base % 2 ^ 16 ≠ 0 || base / 2 ^ 38 ≠ x.die || (x.die + 1) * 2 ^ 38 < base + x.off + x.len ||
    s.ldr.active.any fun e => e.2.any (rangesMeet (shardRange place x))

/-- R493: the status of LOAD. -/
def State.loadStatus (s : State) (m : List Byte) (place : List (Nat × Word)) : Nat :=
  if s.ldr.session.isSome then 1
  else if manBad m then 2
  else if s.slotState (manSlot m) ≠ 1 then 3
  else if !Config.ecdsaOk (s.slotKey (manSlot m)) (Config.sha384 (manSigned m)) (manSig m) then 4
  else if manGen m ≤ s.slotGen (manSlot m) then 5
  else if (manEntries m).any (s.placeBad place) then 6
  else 0

/-- R496: the status word of a shard. -/
def Shard.word (x : Shard) : Word :=
  BitVec.ofNat 64 (x.st + min 255 x.tries * 2 ^ 8 + (x.pieces.map (·.2.length)).sum % 2 ^ 40 * 2 ^ 24)

/-- R500: ldsess and ldcount follow the session. -/
def State.countShards (s : State) : State :=
  match s.ldr.session with
  | none => (s.setReg (ldReg 0x30) 0).setReg (ldReg 0x38) 0
  | some x =>
    let n (st : Nat) : Nat := (x.shards.filter (·.st = st)).length % 65536
    (s.setReg (ldReg 0x30) (BitVec.ofNat 64 x.num)).setReg (ldReg 0x38)
      (BitVec.ofNat 64 (n 0 + n 1 * 2 ^ 16 + n 2 * 2 ^ 32 + n 3 * 2 ^ 48))

/-- The loader writes the status word of a shard (R496). -/
def State.writeStatus (s : State) (x : Session) (i : Nat) : State :=
  match x.shards[i]? with
  | none => s
  | some y => s.putWords (x.tab + 8 * i) [y.word]

/-- A session with shard `i` changed, and its status word written. -/
def State.setShard (s : State) (x : Session) (i : Nat) (y : Shard) : State :=
  let x := { x with shards := x.shards.set i y }
  ({ s with ldr := { s.ldr with session := some x } }.writeStatus x i).countShards

/-- The running command of the loader, none where there is none (R500). -/
def State.ldCmd (s : State) : Option Nat :=
  let w := s.reg (ldReg 0)
  if w.getLsbD 63 then none else some (Word.field w 0 4)

/-- A command of the loader completes with a status. -/
def State.ldDone (s : State) (st : Nat) : State :=
  s.setReg (ldReg 0) (s.reg (ldReg 0) ||| BitVec.ofNat 64 (2 ^ 63 + st % 16 * 2 ^ 48))

/-- R493. -/
def execLoad (s : State) : Out :=
  .next (if s.ldCmd ≠ some 1 then s
  else
    let m := s.readManifest (s.reg (ldReg 8)).toNat
    let place := s.readPlace
    match s.loadStatus m place with
    | 0 =>
      let x : Session :=
        { num := s.ldr.last + 1, gen := manGen m, slot := manSlot m, man := m, shards := manEntries m, place := place,
          asid := Word.field (s.reg (ldReg 0x18)) 0 16, tab := (s.reg (ldReg 0x20)).toNat / 8 * 8, dead := s.reg (ldReg 0x28),
          start := s.dcc }
      let s := { s with ldr := { s.ldr with session := some x, last := x.num } }
      (((s.putWords x.tab (List.replicate x.shards.length 0))).countShards).ldDone 0
    | n => s.ldDone n)

/-! ### Chunks and shards (R494 to R496) -/

/-- Bytes of a shard received. -/
def Shard.got (x : Shard) : Nat := (x.pieces.map (·.2.length)).sum

/-- R494: the session and shard a chunk is for, none where it is discarded. -/
def State.chunkFor (s : State) (b : List Byte) : Option (Session × Nat × Shard) :=
  let num := Word.field (wordIn b 0) 0 32
  let i := Word.field (wordIn b 0) 32 32
  let off := (wordIn b 8).toNat
  let len := (wordIn b 16).toNat
  if len = 0 || 65536 < len || wordIn b 24 ≠ 0 || b.length ≠ 32 + len then none
  else match s.ldr.session with
    | none => none
    | some x =>
      if x.num % 2 ^ 32 ≠ num then none
      else match x.shards[i]? with
        | none => none
        | some y =>
          if y.st ≠ 0 || (y.got < y.len && x.dead ≤ s.dcc) || y.len < off + len ||
              y.pieces.any (fun p => rangesMeet (off, len) (p.1, p.2.length)) then none
          else some (x, i, y)

/-- R494, R496: a chunk is received, or discarded and counted. -/
def State.takeChunk (s : State) (body : List Byte) : State :=
  match s.chunkFor body with
  | none => s.bumpReg (ldReg 0x40)
  | some (x, i, y) =>
    let off := (wordIn body 8).toNat
    let data := body.drop 32
    let pa := (shardRange x.place y).1 + off
    let s := match s.writeRuns 0 false (leNat data) (lineRuns pa data.length (data.length / 128 + 2)) with
      | (.ok _, s) => s
      | (.error _, s) => s
    let y := { y with pieces := y.pieces ++ [(off, data)], chunks := y.chunks + 1 }
    if y.chunks % 4096 = 0 then s.setShard x i y
    else { s with ldr := { s.ldr with session := some { x with shards := x.shards.set i y } } }

/-- R494. -/
def execChunk (body : List Byte) (s : State) : Out := .next (s.takeChunk body)

/-- The bytes of a shard in ascending order of offset (fuel: its pieces). -/
def gather (o : Nat) (ps : List (Nat × List Byte)) : Nat → List Byte
  | 0 => []
  | n + 1 =>
    match ps.find? fun p => p.1 = o with
    | none => []
    | some p => p.2 ++ gather (o + p.2.length) ps n

/-- R495: all bytes of a shard have been hashed. -/
def execShardHashed (i : Nat) (s : State) : Out :=
  .next (match s.ldr.session with
  | none => s
  | some x =>
    match x.shards[i]? with
    | none => s
    | some y =>
      if y.st ≠ 0 || y.got ≠ y.len then s
      else s.setShard x i { y with st := if Config.sha384 (gather 0 y.pieces y.pieces.length) = y.digest then 1 else 2 })

/-- R495: the deadline finds a shard incomplete. -/
def execShardDeadline (i : Nat) (s : State) : Out :=
  .next (match s.ldr.session with
  | none => s
  | some x =>
    match x.shards[i]? with
    | none => s
    | some y => if y.st ≠ 0 || y.got = y.len || s.dcc < x.dead then s else s.setShard x i { y with st := 3 })

/-- R496: a corrupt or missing shard is pending again. -/
def execRetry (s : State) : Out :=
  let i := Word.field (s.reg (ldReg 0)) 16 32
  .next (if s.ldCmd ≠ some 2 then s
  else match s.ldr.session with
    | none => s.ldDone 7
    | some x =>
      match x.shards[i]? with
      | none => s.ldDone 7
      | some y =>
        if y.st ≠ 2 && y.st ≠ 3 then s.ldDone 7
        else
          let x := { x with dead := if x.dead ≤ s.dcc then s.dcc + (x.dead - x.start) else x.dead }
          (s.setShard x i { y with st := 0, pieces := [], chunks := 0, tries := min 255 (y.tries + 1) }).ldDone 0)

/-! ### COMMIT and ABORT (R497) -/

/-- R497, step 2: the staged entry of a shard. -/
def State.stageShard (s : State) (x : Session) (y : Shard) : State :=
  if y.res = 0 then s
  else
    let va := ((x.place[y.die]?).map (·.2)).getD 0 + BitVec.ofNat 64 y.off
    (s.setReg (xstageReg y.die y.expert 0) (BitVec.ofNat 64 (y.res * 2 ^ 62 + va.toNat % 2 ^ 56))).setReg (xstageReg y.die y.expert 1)
      (BitVec.ofNat 64 (x.gen * 2 ^ 48 + 2 ^ 47 + y.len % 2 ^ 40))

/-- The lines pinned for each die. -/
abbrev DiePins := List (Nat × List (Nat × List (Option Nat)))

/-- R497, step 3: the pins of every die: the lowest failure, or none. -/
def State.pinDies (s : State) (asid : Nat) : List Nat → Nat × DiePins × State
  | [] => (0, [], s)
  | d :: r =>
    let (st, ls, s) := s.stagePin d asid
    let (st', l, s) := s.pinDies asid r
    (if st = 0 then st' else if st' = 0 then st else min st st', (d, ls) :: l, s)

/-- R497, step 5: what a commit leaves beside the residency. -/
def State.closeCommit (s : State) (x : Session) : State :=
  let s := (s.setSlot x.slot (s.slotState x.slot) x.gen).extend 5 (digestBytes (Config.sha384 x.man))
  { s with sec := { s.sec with actgen := Tbl.set 0 s.sec.actgen x.slot x.gen },
           ldr := { s.ldr with session := none, active := Tbl.put s.ldr.active x.slot (x.shards.map (shardRange x.place)) } }.countShards

/-- R497. A commit begins when no residency commit of a die runs. -/
def execCommit (s : State) : Out :=
  .next (if s.ldCmd ≠ some 3 || !(List.range 4).all (fun d => (s.reg (rcommitReg d)).getLsbD 63) then s
  else match s.ldr.session with
    | none => s.ldDone 8
    | some x =>
      if x.shards.any (·.st ≠ 1) then s.ldDone 8
      else
        let s := x.shards.foldl (fun s y => s.stageShard x y) s
        let (st, pins, s') := s.pinDies x.asid [0, 1, 2, 3]
        if st ≠ 0 then s.ldDone (8 + st)
        else ((pins.foldl (fun s e => s.stageApply e.1 e.2) s').closeCommit x).ldDone 0)

/-- R497: the session closes; no residency changes. -/
def execAbort (s : State) : Out :=
  .next (if s.ldCmd ≠ some 4 then s else ({ s with ldr := { s.ldr with session := none } }.countShards).ldDone 0)

end Sys2Proof.Machine
end

