-- ==== Sys2Proof/Machine/Host.lean ====
section
/-! DEFINITION. The host port: RDMA, LCP requests, and PTP (R535 to R538). -/

namespace Sys2Proof.Machine

/-! ### Queue pairs and regions (R536, R539) -/

/-- Word `w` of the queue pair with index `n`. -/
def qpReg (n w : Nat) : Nat := ioReg 0 3 (0x6000 + 64 * (n % 256) + 8 * w)

/-- Is a queue pair in use, while the host port is up (R485)? -/
def State.qpUp (s : State) (qp : Nat) : Bool := qp < 256 && (s.reg (qpReg qp 4)).getLsbD 28 && !s.sec.recovery

/-- The receive PSN of a queue pair. -/
def State.rxPsn (s : State) (qp : Nat) : Nat := Word.field (s.reg (qpReg qp 4)) 0 24

/-- Packets of a message of `n` bytes at the queue pair's path MTU. -/
def State.packets (s : State) (qp n : Nat) : Nat :=
  let mtu := 128 * 2 ^ Word.field (s.reg (qpReg qp 4)) 24 3
  max 1 ((n + mtu - 1) / mtu)

/-- The receive PSN after a message of `n` bytes. -/
def State.advancePsn (s : State) (qp n : Nat) : State :=
  let w := s.reg (qpReg qp 4)
  let p := (Word.field w 0 24 + s.packets qp n) % 2 ^ 24
  s.setReg (qpReg qp 4) ((w &&& ~~~0xFFFFFF) ||| BitVec.ofNat 64 p)

/-- R536: does a region in use with the key permit the access? -/
def State.regionOk (s : State) (rkey : BitVec 32) (pa n : Nat) (write : Bool) : Bool :=
  (List.range 256).any fun m =>
    let w (i : Nat) : Word := s.reg (ioReg 0 3 (0xA000 + 32 * m + 8 * i))
    (w 2).getLsbD 34 && (w 2).extractLsb' 0 32 = rkey && (w 2).getLsbD (if write then 33 else 32) &&
      (w 0).toNat ≤ pa && pa + n ≤ (w 0).toNat + (w 1).toNat

def State.tellHost (s : State) (a : Answered) : State := { s with answered := a :: s.answered }

/-- A region's addresses that are memory. -/
def isMem (pa n : Nat) : Bool :=
  (windowOf pa = .hbm && windowOf (pa + n - 1) = .hbm) || (windowOf pa = .tile && windowOf (pa + n - 1) = .tile)

/-- Whole words of control blocks (R503). -/
def State.hostWords (s : State) (pa : Nat) : Nat → List Byte → State
  | 0, _ => s
  | n + 1, bs => ((s.masterWrite true pa (wordIn bs 0)).hostWords (pa + 8) n (bs.drop 8))

def State.hostRead (s : State) (pa : Nat) : Nat → List Byte × State
  | 0 => ([], s)
  | n + 1 =>
    let (v, s) := s.masterRead pa
    let (l, s) := s.hostRead (pa + 8) n
    (wordBytes 8 v ++ l, s)

/-- A NAK whose code the spec does not name. -/
def State.nakFree (s : State) (qp psn : Nat) : State :=
  let (w, s) := s.drawFree
  s.tellHost (.nak qp psn (w.toNat % 256))

/-- R536: a write of the host performs and is acknowledged, or is refused and performs nothing; the writes of a queue pair
perform in PSN order. -/
def execRdmaWrite (qp : Nat) (rkey : BitVec 32) (psn pa : Nat) (data : List Byte) (s : State) : Out :=
  let n := data.length
  .next (if !s.qpUp qp || psn ≠ s.rxPsn qp then s
  else if !s.regionOk rkey pa n true then s.tellHost (.nak qp psn 1)
  else
    let s := s.advancePsn qp n
    if n = 0 then s.tellHost (.ack qp psn)
    else if isBlock pa then
      if pa % 8 = 0 && n % 8 = 0 then (s.hostWords pa (n / 8) data).tellHost (.ack qp psn) else s.nakFree qp psn
    else if !isMem pa n then s.tellHost (.nak qp psn 1)
    else match s.writeRuns 0 false (leNat data) (lineRuns pa n (n / 128 + 2)) with
      | (.ok _, s) => s.tellHost (.ack qp psn)
      | (.error _, s) => s.nakFree qp psn)

/-- R536: a read of the host. -/
def execRdmaRead (qp : Nat) (rkey : BitVec 32) (psn pa n : Nat) (s : State) : Out :=
  .next (if !s.qpUp qp || psn ≠ s.rxPsn qp then s
  else if !s.regionOk rkey pa n false then s.tellHost (.nak qp psn 1)
  else
    let s := s.advancePsn qp n
    if n = 0 then s.tellHost (.data qp psn [])
    else if isBlock pa then
      if pa % 8 = 0 && n % 8 = 0 then
        let (l, s) := s.hostRead pa (n / 8)
        s.tellHost (.data qp psn l)
      else s.nakFree qp psn
    else if !isMem pa n then s.tellHost (.nak qp psn 1)
    else match s.readRuns 0 false (lineRuns pa n (n / 128 + 2)) with
      | (.ok v, s) => s.tellHost (.data qp psn (leBytes v n))
      | (.error _, s) => s.nakFree qp psn)

/-! ### LCP (R537) -/

/-- R505, R537: the command an operation of the host starts; none where it is refused. -/
def lcpCommand (w : Caller) (op : Nat) (arg : Word) (body : List Byte) : Option Instr :=
  match op with
  | 7 => some (if isRevoke body then .revoke w body else .enrol w body)
  | 8 => some (.badadd w arg)
  | 10 => some (.attest w body)
  | 11 => some (.regread w arg.toNat)
  | 12 => some (.regwrite w arg.toNat (wordIn body 0))
  | 32 => some (.kill w arg)
  | _ => none

/-- R505: the operations for management only. -/
def managementOnly (op : Nat) : Bool := 1 ≤ op && op ≤ 6 || op = 9

/-- R537: a request of the host: served after those before it, and answered with its tag. -/
def execLcpRequest (qp psn : Nat) (tag : BitVec 32) (op : Nat) (arg : Word) (body : List Byte) (s : State) : Out :=
  let w : Caller := .lcp qp tag
  .next (if !s.qpUp qp || psn ≠ s.rxPsn qp then s
  else
    let s := s.advancePsn qp (16 + body.length)
    if !(s.reg (qpReg qp 4)).getLsbD 27 then s.tellHost (.nak qp psn 0)
    else
      let s := s.tellHost (.ack qp psn)
      if op = 33 then (s.takeChunk body).reply w 0 []
      else match lcpCommand w op arg body with
        | some i => s.push i
        | none => s.reply w (if managementOnly op then 0xFE else 0xFF) [])

/-! ### PTP (R538) -/

/-- R538: the clock takes the rate and the offset that the protocol on the named port finds; it is never stepped. -/
def execPtpMessage (port : Nat) (off : Word) (ppm : Int) (s : State) : Out :=
  .next (if port = Word.field (s.reg (ioReg 1 3 0x5000)) 0 2 && port < 3 then
    ({ s with fab := { s.fab with slew := max (-200) (min 200 ppm) } }).setReg (ioReg 1 3 0x5008) off
  else s)

end Sys2Proof.Machine
end

