-- ==== Sys2Proof/Machine/Network.lean ====
section
/-! DEFINITION. What moves in the omega networks and over the bridges in a cycle: requests on VC 0, replies on VC 1, each with
its own buffers; FADD requests that combine in a switch (R323, R369, R372, R375 to R378, R470, R471). -/

namespace Sys2Proof.Machine

/-! ### Buffers -/

/-- The first message of a buffer that may move in this cycle: one that came in an earlier cycle. -/
def readyReq (t : Tbl (List Req)) (k now : Nat) : Option Req := (Tbl.get [] t k).head?.filter fun r => r.since < now

def readyRep (t : Tbl (List Rep)) (k now : Nat) : Option Rep := (Tbl.get [] t k).head?.filter fun r => r.since < now

def dropFirst {α : Type} [DecidableEq α] (t : Tbl (List α)) (k : Nat) : Tbl (List α) := Tbl.set [] t k (Tbl.get [] t k).tail

def pushLast {α : Type} [DecidableEq α] (t : Tbl (List α)) (k : Nat) (x : α) : Tbl (List α) := Tbl.set [] t k (Tbl.get [] t k ++ [x])

/-! ### Requests (R372, R375, R376, R471) -/

/-- The output of a switch of stage `k` that a request takes. -/
def Req.output (r : Req) (k : Nat) : Nat := ((r.legs.head?).map fun l => destBit l.dst k).getD 0

/-- R372: a request leaves the last stage only when its home has a free entry. -/
def State.reqBlocked (s : State) (k : Nat) (r : Req) : Bool := k = 5 && r.legs.length ≤ 1 && !s.homeFree r.pa

/-- A request passes the switch of stage `k` from position `pos`: to the next stage, to a bridge (R470, R471), or to its home. -/
def State.passReq (s : State) (die k pos : Nat) (r : Req) : State :=
  match r.legs with
  | [] => s
  | l :: rest =>
    if s.reqBlocked k r then s
    else
      let s := s.modNet die fun n => { n with fwd := dropFirst n.fwd (64 * k + pos) }
      if k < 5 then
        s.modNet die fun n =>
          { n with fwd := pushLast n.fwd (64 * (k + 1) + rotl6 (pos / 2 * 2 + destBit l.dst k)) { r with since := s.cycle } }
      else
        let r := { r with legs := rest, back := l :: r.back, since := s.cycle }
        if rest.isEmpty then s.enqueue r else { s with bridges := s.bridges ++ [{ due := s.cycle + 24, msg := .inl r }] }

/-- R375, R376: a switch moves the requests at its two inputs; of two for one output the turn decides, input 0 first after
reset. -/
def State.switchReqs (s : State) (die k j : Nat) : State :=
  let n := s.netOf die
  match readyReq n.fwd (64 * k + 2 * j) s.cycle, readyReq n.fwd (64 * k + 2 * j + 1) s.cycle with
  | none, none => s
  | some a, none => s.passReq die k (2 * j) a
  | none, some b => s.passReq die k (2 * j + 1) b
  | some a, some b =>
    if a.output k ≠ b.output k then (s.passReq die k (2 * j) a).passReq die k (2 * j + 1) b
    else
      let o := 64 * k + 2 * j + a.output k
      let one := Tbl.get false n.turn0 o
      let (pos, r) := if one then (2 * j + 1, b) else (2 * j, a)
      if s.reqBlocked k r then s
      else (s.modNet die fun n => { n with turn0 := Tbl.set false n.turn0 o (!one) }).passReq die k pos r

/-! ### Replies (R375, R377, R378) -/

/-- The input by which the request came, on which its reply leaves the switch of stage `k`. -/
def Rep.output (x : Rep) (k : Nat) : Nat := ((x.legs.head?).map fun l => netIn l.src l.dst k % 2).getD 0

/-- What a requester of a combined FADD receives: the old value, with what was added before it (R377, R378). -/
def HomeRes.plus (x : HomeRes) (inc : Word) (bytes : Nat) : HomeRes :=
  match x with
  | .val v => .val (BitVec.ofNat 64 ((v + inc).toNat % 2 ^ (8 * bytes)))
  | y => y

/-- The increment of an FADD. -/
def Req.inc (r : Req) : Word :=
  match r.op with
  | .amo .fadd v _ => v
  | _ => 0

/-- R377: the replies to the two requests that a combined one stood for. -/
def splitRep (c : Comb) (x : Rep) : List Rep :=
  [{ x with req := c.r0 },
   { x with req := c.r1, res := x.res.plus c.r0.inc c.r0.bytes, legs := c.r1.legs.take 1 ++ c.r1.back }]

/-- R377: a reply that comes back to the switch whose table names its request is split there. -/
def State.splitAt (s : State) (die k j pos : Nat) : State :=
  let n := s.netOf die
  let cs := Tbl.get [] n.comb (32 * k + j)
  match readyRep n.rev (64 * k + pos) s.cycle with
  | none => s
  | some x =>
    match cs.find? fun c => c.id = x.req.id with
    | none => s
    | some c =>
      s.setNet die { n with comb := Tbl.set [] n.comb (32 * k + j) (cs.erase c),
                            rev := Tbl.set [] n.rev (64 * k + pos) (splitRep c x ++ (Tbl.get [] n.rev (64 * k + pos)).tail) }

/-- A reply is at the end of its way: it goes to its task, or to the exchange engine. -/
def State.takeRep (s : State) (x : Rep) : State :=
  match x.req.org with
  | .task g k => s.replyTask g k x.req x.res x.tail
  | .xamo id => s.xamoReply id x.res
  | .peer .. => s

/-- A reply passes the switch of stage `k` from position `pos` behind it: to the stage before, over a bridge, or to its station. -/
def State.passRep (s : State) (die k pos : Nat) (x : Rep) : State :=
  match x.legs with
  | [] => s
  | l :: rest =>
    let s := s.modNet die fun n => { n with rev := dropFirst n.rev (64 * k + pos) }
    if 0 < k then
      s.modNet die fun n => { n with rev := pushLast n.rev (64 * (k - 1) + netOut l.src l.dst (k - 1)) { x with since := s.cycle } }
    else if rest.isEmpty then s.takeRep x
    else { s with bridges := s.bridges ++ [{ due := s.cycle + 24, msg := .inr { x with legs := rest, since := s.cycle } }] }

/-- R375, R376: a switch moves the replies behind it. -/
def State.switchReps (s : State) (die k j : Nat) : State :=
  let s := (s.splitAt die k j (2 * j)).splitAt die k j (2 * j + 1)
  let n := s.netOf die
  match readyRep n.rev (64 * k + 2 * j) s.cycle, readyRep n.rev (64 * k + 2 * j + 1) s.cycle with
  | none, none => s
  | some a, none => s.passRep die k (2 * j) a
  | none, some b => s.passRep die k (2 * j + 1) b
  | some a, some b =>
    if a.output k ≠ b.output k then (s.passRep die k (2 * j) a).passRep die k (2 * j + 1) b
    else
      let o := 64 * k + 2 * j + a.output k
      let one := Tbl.get false n.turn1 o
      let (pos, x) := if one then (2 * j + 1, b) else (2 * j, a)
      (s.modNet die fun n => { n with turn1 := Tbl.set false n.turn1 o (!one) }).passRep die k pos x

/-! ### Sources (R323, R369, R470) -/

/-- R470: messages that have crossed a bridge enter the network at its station. -/
def State.landCrossings (s : State) : State :=
  let now := s.bridges.filter fun c => c.due ≤ s.cycle
  now.foldl (fun s c => match c.msg with | .inl r => s.putReq r | .inr x => s.putRep x)
    { s with bridges := s.bridges.filter fun c => s.cycle < c.due }

/-- R323, R328: a BC sends the next word of its queue: a request leaves with its last word, one to its own tile memory beside the
network. -/
def State.bcSend (s : State) (k : Nat) : State :=
  match Tbl.get [] s.bcQueues k with
  | [] => s
  | r :: rest =>
    let put (l : List Req) : State := { s with bcQueues := Tbl.set [] s.bcQueues k l }
    if r.since < r.tail.length then put ({ r with since := r.since + 1 } :: rest)
    else
      let r := { r with since := 0 }
      if windowOf r.pa = .tile && paDie r.pa = k / 16 && paBc r.pa = k % 16 then (put rest).enqueue r
      else (put rest).sendReq (k / 16) (bcStation (k % 16)) r

/-- Each station of a die sends one request and one reply into the network. -/
def State.inject (s : State) (die : Nat) : State :=
  let s := ((s.netOf die).out0.map (·.1)).foldl (fun s st =>
    match (Tbl.get [] (s.netOf die).out0 st).head? with
    | none => s
    | some r => s.modNet die fun n => { n with out0 := dropFirst n.out0 st, fwd := pushLast n.fwd (rotl6 st) { r with since := s.cycle } }) s
  ((s.netOf die).out1.map (·.1)).foldl (fun s st =>
    match (Tbl.get [] (s.netOf die).out1 st).head? with
    | none => s
    | some x => s.modNet die fun n => { n with out1 := dropFirst n.out1 st, rev := pushLast n.rev (64 * 5 + st) { x with since := s.cycle } }) s

/-- One cycle of a die's network. -/
def State.tickDie (s : State) (die : Nat) : State :=
  let s := (((s.netOf die).rev.map fun e => e.1 / 2).dedup).foldl (fun s x => s.switchReps die (x / 32) (x % 32)) s
  (((s.netOf die).fwd.map fun e => e.1 / 2).dedup.reverse).foldl (fun s x => s.switchReqs die (x / 32) (x % 32)) s

/-- One cycle of the networks and bridges. -/
def State.tickNet (s : State) : State :=
  let s := (s.nets.map (·.1)).foldl State.tickDie s.landCrossings
  let s := (s.bcQueues.map (·.1)).foldl State.bcSend s
  (s.nets.map (·.1)).foldl State.inject s

/-! ### FADD requests that combine (R377) -/

/-- Is a request an FADD that may combine: not one to a tile memory? -/
def Req.combines (r : Req) : Bool :=
  windowOf r.pa = .hbm &&
    match r.op with
    | .amo .fadd _ _ => true
    | _ => false

/-- R377: the two FADDs that reach the inputs of a switch in this cycle and combine there. -/
def State.combinable (s : State) (die k j : Nat) : Option (Req × Req) :=
  let n := s.netOf die
  let here (p : Nat) : Option Req := (Tbl.get [] n.fwd (64 * k + p)).head?.filter fun r => r.since = s.cycle && r.combines
  match here (2 * j), here (2 * j + 1) with
  | some a, some b =>
    if a.pa = b.pa && a.bytes = b.bytes && (Tbl.get [] n.comb (32 * k + j)).length < 16 then some (a, b) else none
  | _, _ => none

/-- The pairs that combine in this cycle. -/
def State.combinations (s : State) : List (Nat × Nat × Nat) :=
  (s.nets.map fun e =>
    ((e.2.fwd.map fun q => q.1 / 2).dedup.filter fun x => (s.combinable e.1 (x / 32) (x % 32)).isSome).map fun x =>
      (e.1, x / 32, x % 32)).flatten

/-- R377, R378: two FADDs combine: one request carries their sum on from input 0, and the switch keeps the entry. -/
def execFaddCombine (die k j : Nat) (s : State) : Out :=
  .next (match s.combinable die k j with
  | none => s
  | some (a, b) =>
    let c : Comb := { id := s.nextReq, r0 := a, r1 := b }
    let r : Req := { a with id := s.nextReq, op := .amo .fadd (a.inc + b.inc) 0 }
    { s with nextReq := s.nextReq + 1 }.modNet die fun n =>
      { n with comb := pushLast n.comb (32 * k + j) c,
               fwd := dropFirst (Tbl.set [] n.fwd (64 * k + 2 * j) (r :: (Tbl.get [] n.fwd (64 * k + 2 * j)).tail)) (64 * k + 2 * j + 1) })

end Sys2Proof.Machine
end

