-- ==== Sys2Proof/Machine/Power.lean ====
section
/-! DEFINITION. The power limiter, thermal throttling and telemetry (R506 to R511). -/

namespace Sys2Proof.Machine

def powReg (off : Nat) : Nat := ioReg 0 2 off

/-! ### The window (R507 to R509) -/

/-- R506: a ramp rate, clamped. -/
def rampOf (w : Word) : Nat := max 1000 (min 200000 w.toNat)

/-- R506: the lesser of the two caps. -/
def State.setCap (s : State) : Nat := min (min 3600000 (s.reg (powReg 0)).toNat) (s.reg (powReg 8)).toNat

/-- R506, R510: the effective cap. -/
def State.capNow (s : State) : Nat :=
  match s.pow.throttle with
  | none => s.setCap
  | some c => min c s.setCap

/-- R507: the ceiling of the next window, whole milliwatts. -/
def State.ceiling (s : State) (p : Nat) : Nat := min s.capNow ((1000 * p + 1024 * rampOf (s.reg (powReg 0x10))) / 1000)

/-- R507: its floor. -/
def State.floorOf (s : State) (p : Nat) : Nat := min (s.ceiling p) ((1000 * p - 1024 * rampOf (s.reg (powReg 0x18))) / 1000)

/-- R508: the kinds and classes in the order in which issue is withheld. -/
def withholdOrder : List (Nat × Nat) :=
  [(0, 3), (0, 2), (0, 1), (0, 0), (1, 3), (1, 2), (1, 1), (1, 0), (2, 3), (2, 2), (2, 1), (2, 0)]

/-- The demand of a kind and class. -/
def demandOf (m : PowerIn) (k : Nat × Nat) : Nat :=
  let l := if k.1 = 0 then m.row else if k.1 = 1 then m.bc else m.eng
  (l[k.2]?).getD 0

/-- The module's demand, fillers to be admitted apart. -/
def totalDemand (m : PowerIn) : Nat := m.base + (withholdOrder.map (demandOf m)).sum

/-- R508: what is withheld so that the demand does not exceed the ceiling. -/
def withholdFor (m : PowerIn) (c : Nat) : Nat → List (Nat × Nat) → List (Nat × Nat)
  | _, [] => []
  | d, k :: r => if d ≤ c then [] else k :: withholdFor m c (d - demandOf m k) r

/-- R509: rows admitted in ascending order while a condition on the power so far holds: how many. -/
def admitCount (p : Nat → Nat → Bool) (d : Nat) : List Nat → Nat
  | [] => 0
  | f :: r => if p d f then 1 + admitCount p (d + f) r else 0

/-- R509: the number of rows that take filler work. -/
def fillerRows (m : PowerIn) (fill fillAll : Bool) (c f : Nat) : Nat :=
  if !fill then 0
  else max (admitCount (fun d _ => d < f) (totalDemand m) m.filler)
    (if fillAll then admitCount (fun d x => d + x ≤ c) (totalDemand m) m.filler else 0)

/-- R507 to R509: a window ends: its measured power sets the bounds of the next, and what is withheld, admitted and burnt. -/
def execPowerWindow (m : PowerIn) (s : State) : Out :=
  let c := s.ceiling m.p
  let f := s.floorOf m.p
  let ctl := s.reg (powReg 0x20)
  let n := fillerRows m (ctl.getLsbD 0) (ctl.getLsbD 2) c f
  let fil := (m.filler.take n).sum
  let bal := if ctl.getLsbD 1 then f - (totalDemand m + fil) else 0
  let s := (s.setReg (powReg 0x28) (BitVec.ofNat 64 m.p)).setReg (powReg 0x30) (BitVec.ofNat 64 (c + f * 2 ^ 32))
  .next { s with pow := { s.pow with held := withholdFor m c (totalDemand m) withholdOrder, admitted := List.range (min n 32), filler := fil,
                                     ballast := bal, energy := s.pow.energy + 1024 * m.p } }

/-! ### Temperature (R510) -/

/-- R510: a window of a junction's temperature: the cap falls by 5 % until the junction has been below its limit for 1,000
windows, then rises at RU. -/
def execThermalThrottle (hot : Bool) (s : State) : Out :=
  let cool := if hot then 0 else s.pow.cool + 1
  let next : Option Nat :=
    match s.pow.throttle with
    | none => if hot then some (s.capNow * 95 / 100) else none
    | some c =>
      if cool < 1000 then some (c * 95 / 100)
      else
        let c := (1000 * c + 1024 * rampOf (s.reg (powReg 0x10))) / 1000
        if s.setCap ≤ c then none else some c
  .next { s with pow := { s.pow with throttle := next, cool := cool } }

/-- R510: the trip: every issue is withheld until module reset, and the event is logged in flash. -/
def execThermalTrip (s : State) : Out :=
  .next { s with pow := { s.pow with tripped := true }, sec := { s.sec with tripLog := s.sec.tripLog + 1 } }

/-! ### Telemetry (R511) -/

/-- R506: the interval; 0 off. -/
def State.telemetryEvery (s : State) : Nat :=
  let v := (s.reg (powReg 0x40)).toNat
  if v = 0 then 0 else max 100000 v

/-- PTP time in nanoseconds (R538, R539): a tick of the DCC is a nanosecond. -/
def State.ptpNow (s : State) : Nat := (s.dcc + s.reg (ioReg 1 3 0x5008)).toNat

/-- R511: the words of a record. -/
def State.telemetry (s : State) (temps : Word) : List Word :=
  let t := s.ptpNow
  [BitVec.ofNat 64 (t / 1000000000), BitVec.ofNat 64 (t % 1000000000), s.dcc,
   BitVec.ofNat 64 ((s.reg (powReg 0x28)).toNat % 2 ^ 32 + s.capNow % 2 ^ 32 * 2 ^ 32),
   BitVec.ofNat 64 (s.pow.ballast % 2 ^ 32 + s.pow.filler % 2 ^ 32 * 2 ^ 32),
   BitVec.ofNat 64 (s.pow.energy / 1000000000000), BitVec.ofNat 64 s.pow.withheld,
   (temps &&& 0x00FFFFFFFFFFFFFF) ||| (if s.pow.throttle.isSome then 0x0100000000000000 else 0) |||
     (if s.pow.tripped then 0x0200000000000000 else 0)]

/-- R511: a telemetry record is due at each multiple of the interval: it goes to the ring, or is dropped and counted, and to
the sideband. -/
def execTelemetryRecord (temps : Word) (s : State) : Out :=
  let n := s.telemetryEvery
  .next (if n = 0 || s.dcc.toNat % n ≠ 0 then s
  else
    let ws := s.telemetry temps
    let s := { s with pow := { s.pow with withheld := 0, sideband := if s.reg (powReg 0x70) = 0 then s.pow.sideband else ws :: s.pow.sideband } }
    let size := s.reg (powReg 0x50)
    let head := s.reg (powReg 0x58)
    if size = 0 then s
    else if ringFull head (s.reg (powReg 0x60)) size then s.bumpReg (powReg 0x68)
    else (s.putWords ((s.reg (powReg 0x48)).toNat / 64 * 64 + 64 * (head.toNat % size.toNat)) ws).bumpReg (powReg 0x58))

end Sys2Proof.Machine
end

