-- ==== Sys2Proof/Machine/Prefetch.lean ====
section
/-! DEFINITION. Prefetched translations: the next page of a copy, of a GMMA, of an exchange operation, of a record's destination
(R247, R290, R416, R417). -/

namespace Sys2Proof.Machine

/-- A translation that a TLB fetches ahead: the TLB, the address space, its root, the page's address. -/
structure Wanted where
  tlb : Nat
  asid : Nat
  root : Nat
  va : Word
  deriving DecidableEq, Repr

/-- The start of the page of an address, and of the page after it. -/
def pageStart (va : Word) : Word := va &&& ~~~0xFFFF
def pageAfter (va : Word) : Word := pageStart va + 0x10000

/-! ### Copies (R290) -/

/-- The source bytes of `n` destination bytes of a row, as a ratio: the element widths of a converting copy. -/
def State.copyRatio (s : State) (g : Gtid) (c : Nat) (x : Copy) (row : Where) : Nat × Nat :=
  match row, ctlDfmt x.cmd.c with
  | .va w, d + 1 =>
    match (s.rowFormat g c w).1 with
    | .ok fmt => (fmtBits fmt, fmtBits (d + 1))
    | .error _ => (1, 1)
  | _, _ => (1, 1)

/-- The virtual address of one side of a copy at its position, and how many destination bytes stay on its page; `dst` for the
destination. -/
def State.copySide (s : State) (g : Gtid) (c : Nat) (x : Copy) (dst : Bool) : Option (Word × Nat) :=
  let a := x.at
  let idx := match (s.copyIndex g c x a).1 with
    | .ok i => i
    | .error _ => 0
  if dst then
    match x.dst c idx a with
    | .va w => some (w, 0x10000 - w.toNat % 0x10000)
    | .sp .. => none
  else if x.cmd.op = .cpf then none
  else
    let row := x.srcRow c idx a
    let (ws, wd) := s.copyRatio g c x row
    match row with
    | .va w =>
      let w := w + BitVec.ofNat 64 (a.b * ws / wd)
      some (w, (0x10000 - w.toNat % 0x10000) * wd / max 1 ws)
    | .sp .. => none

/-- The next page of one side of a copy: further on in the row, or that of the next row. -/
def State.sideAhead (s : State) (g : Gtid) (c : Nat) (x : Copy) (dst : Bool) : Option Word :=
  match s.copySide g c x dst with
  | none => none
  | some (w, room) =>
    let pos := if x.at.b + room < x.cmd.n0 then x.pos + room else (x.pos / x.cmd.n0 + 1) * x.cmd.n0
    if x.cmd.nominal ≤ pos then none
    else match s.copySide g c { x with pos := pos } dst with
      | none => none
      | some (v, _) => if pageStart v = pageStart w then none else some (pageStart v)

def State.copyAhead (s : State) (g : Gtid) (c : Nat) (x : Copy) : List Word :=
  if x.due && x.pos < x.cmd.nominal then (s.sideAhead g c x true).toList ++ (s.sideAhead g c x false).toList else []

/-! ### GMMA (R247) -/

/-- The pages ahead of a GMMA that loads a tile: the tile's next page, and the source of the next group with RES 2 or 3. -/
def State.gmmaAhead (s : State) (g : Gtid) (c : Nat) (r : Running) : List Word :=
  if r.cmd.op ≠ .gmma || r.phase ≠ 1 then []
  else
    let now := match (s.binEntry g c r.cmd r.group).1 with
      | .ok x =>
        let va := x.w + r.cmd.b + BitVec.ofNat 64 (512 * r.beat)
        let last := x.w + r.cmd.b + BitVec.ofNat 64 (512 * tileBeats r.cmd.mFmt r.cmd.mSp r.cmd.mGeo - 1)
        if x.res ≠ 0 && pageStart va ≠ pageStart last then [pageAfter va] else []
      | .error _ => []
    let next := match (s.binHeader g c r.cmd).1, (s.binEntry g c r.cmd (r.group + 1)).1 with
      | .ok (n, _, _), .ok x => if r.group + 1 < n && 2 ≤ x.res then [pageStart (x.w + r.cmd.b)] else []
      | _, _ => []
    now ++ next

/-! ### The exchange engine and the Collator -/

/-- The next page of an operation in progress: of the put that is to start, of a combine's list, of a descriptor. -/
def XOp.ahead (o : XOp) : List Word :=
  match o.kind with
  | .put => if o.next < o.send.npeer then [pageAfter (o.send.dva + BitVec.ofNat 64 (o.next * o.send.pstr))] else []
  | .get _ => if o.next = 0 || !o.lost.isEmpty then [pageAfter o.send.src] else []
  | .amo .. => []
  | .desc cmd => if cmd.f.mod.getLsbD 0 then [] else [pageAfter cmd.a]
  | .disp hdr _ => [pageAfter hdr]
  | .comb ws => [pageAfter ((ws[0]?).getD 0 + BitVec.ofNat 64 (16 * o.next))]

/-- The translations that the module's TLBs fetch ahead. -/
def State.prefetches (s : State) : List Wanted :=
  let cores := (s.tasks.filter fun e => match e.2.place with | .row .. => true | _ => false).map fun e =>
    (List.range 8).map fun c => (BitVec.ofNat 64 e.1, e.2, c)
  let streams := (cores.flatten.map fun x =>
    let (g, t, c) := x
    let h := s.share g c
    ((h.copies.map fun y => s.copyAhead g c y).flatten.map fun va => (⟨tlbStream t c 2, t.asid, t.root, va⟩ : Wanted)) ++
      ((h.mxLoad.toList.map fun r => s.gmmaAhead g c r).flatten.map fun va => (⟨tlbStream t c 0, t.asid, t.root, va⟩ : Wanted))).flatten
  let exch := ((List.range 4).map fun d => ((s.xchOf d).ops.map fun o =>
    o.ahead.map fun va => (⟨tlbExch d, (s.task o.g).asid, (s.task o.g).root, va⟩ : Wanted)).flatten).flatten
  let coll := ((List.range 4).map fun d => ((s.collOf d).active.toList.map fun r =>
    r.out.map fun x => (⟨tlbColl d, r.asid, r.root, pageAfter x.va⟩ : Wanted)).flatten).flatten
  streams ++ exch ++ coll

/-- Those that their TLBs do not hold yet. -/
def State.prefetchDue (s : State) : List Wanted :=
  (s.prefetches.filter fun w => !(Tbl.get [] s.tlbs w.tlb).any fun e => e.covers w.asid w.va).dedup

/-- R417: a prefetch walk: a leaf found enters the TLB; a fault installs nothing and raises nothing. -/
def execPageWalk (tlb asid root : Nat) (va : Word) (s : State) : Out :=
  if !s.prefetchDue.contains ⟨tlb, asid, root, va⟩ then .next s
  else
    match s.walk 0 root va with
    | (.leaf w0 w1 big, s) =>
      .next (s.fillTlb tlb { asid := asid, big := big, page := va.toNat / (if big then 2 ^ 28 else 2 ^ 16), w0 := w0, w1 := w1 })
    | (_, s) => .next s

end Sys2Proof.Machine
end

