-- ==== Sys2Proof/Machine/Scalar.lean ====
section
/-! DEFINITION. Integer, compare and predicate instructions (R109 to R119), on the Spine, on a binning thread and, by
R110, on each matrix core. One function computes each result; each instruction is one definition over it. -/

namespace Sys2Proof.Machine

/-! ### Results (R112, R113) -/

/-- R113: signed division truncated toward zero, with the fixed results of its corners. -/
def divS (a b : Word) : Word :=
  if b = 0 then BitVec.allOnes 64 else BitVec.ofInt 64 (a.toInt.tdiv b.toInt)

/-- R113. -/
def divU (a b : Word) : Word := if b = 0 then BitVec.allOnes 64 else a / b

/-- R113: the remainder has the sign of the dividend. -/
def remS (a b : Word) : Word := if b = 0 then a else BitVec.ofInt 64 (a.toInt.tmod b.toInt)

/-- R113. -/
def remU (a b : Word) : Word := if b = 0 then a else a % b

/-- R112, MULH: the high half of the signed product. -/
def mulHi (a b : Word) : Word := BitVec.ofInt 64 (a.toInt * b.toInt / 2 ^ 64)

/-- R112, MULHU: the high half of the unsigned product. -/
def mulHiU (a b : Word) : Word := BitVec.ofNat 64 (a.toNat * b.toNat / 2 ^ 64)

/-- The shift count B[5:0]. -/
def shiftCount (b : Word) : Nat := b.toNat % 64

def minS (a b : Word) : Word := if a.slt b then a else b
def maxS (a b : Word) : Word := if a.slt b then b else a
def minU (a b : Word) : Word := if a.ult b then a else b
def maxU (a b : Word) : Word := if a.ult b then b else a

/-- The number of leading zero bits of the low `n` bits of a number. -/
def leadingZeros (n : Nat) (a : Nat) : Nat :=
  match n with
  | 0 => 0
  | n + 1 => if a.testBit n then 0 else 1 + leadingZeros n a

/-- The number of one bits among the low `n` bits of a number. -/
def onesBelow (n : Nat) (a : Nat) : Nat :=
  match n with
  | 0 => 0
  | n + 1 => (if a.testBit n then 1 else 0) + onesBelow n a

/-- The width code of SEXT and ZEXT: 8, 16 or 32 bits. -/
def extWidth (m : BitVec 16) : Nat := 8 <<< (m.extractLsb' 0 2).toNat

/-- The conditions of CMP and CMPI (R117). -/
inductive Cond where
  | eq | ne | lt | ge | ltu | geu
  deriving DecidableEq, Repr

def Cond.holds (c : Cond) (a b : Word) : Bool :=
  match c with
  | .eq => a == b
  | .ne => a != b
  | .lt => a.slt b
  | .ge => !a.slt b
  | .ltu => a.ult b
  | .geu => !a.ult b

/-! ### The shared forms -/

/-- An INT instruction: S(D) := op(A, B) (R112). -/
def State.intOp (s : State) (f : FmtA) (op : Word → Word → Word) : Out :=
  s.guarded f.g fun s => s.wrInt f.d (op (s.rdInt f.sa) (s.operandB f))

/-- A unary INT instruction: S(D) := op(A). -/
def State.intUnary (s : State) (f : FmtA) (op : Word → Word) : Out :=
  s.guarded f.g fun s => s.wrInt f.d (op (s.rdInt f.sa))

/-- R112, SEL: A if P(MOD[4:0]) = 1, else B. -/
def State.intSel (s : State) (f : FmtA) : Out :=
  s.guarded f.g fun s =>
    s.wrInt f.d (if s.rdPred (f.mod.extractLsb' 0 5).toNat then s.rdInt f.sa else s.operandB f)

/-- An INTI instruction: S(D) := op(A, sext(IMM)) (R114). -/
def State.intImm (s : State) (f : FmtI) (op : Word → Word → Word) : Out :=
  s.guarded f.g fun s => s.wrInt f.d (op (s.rdInt f.sa) (simm f))

/-- R114, MOVH: the upper half from IMM, the lower half kept. -/
def State.intMovh (s : State) (f : FmtI) : Out :=
  s.guarded f.g fun s => s.wrInt f.d (f.imm ++ (s.rdInt f.d).setWidth 32)

/-- R117: P(D) := the condition on A and B. -/
def State.cmp (s : State) (f : FmtA) (c : Cond) : Out :=
  s.guarded f.g fun s => s.wrPred f.d.toNat (c.holds (s.rdInt f.sa) (s.operandB f))

/-- R117 with B := sext(IMM). -/
def State.cmpImm (s : State) (f : FmtI) (c : Cond) : Out :=
  s.guarded f.g fun s => s.wrPred f.d.toNat (c.holds (s.rdInt f.sa) (simm f))

/-- R118: P(D) := op(P(SA), P(SB)). -/
def State.predOp (s : State) (f : FmtA) (op : Bool → Bool → Bool) : Out :=
  s.guarded f.g fun s => s.wrPred f.d.toNat (op (s.rdPred f.sa.toNat) (s.rdPred f.sb.toNat))

/-- R118, PGET: the predicate file as a 32-bit value. -/
def State.predGet (s : State) (f : FmtA) : Out :=
  s.guarded f.g fun s => s.wrInt f.d (s.predFile.setWidth 64)

/-- R115: S(D) := the literal. -/
def State.literal (s : State) (f : FmtL) : Out := s.guarded f.g fun s => s.wrInt f.d f.lit

/-! ### The instructions -/

/-- R112, ADD. -/
def execAdd (f : FmtA) (s : State) : Out := s.intOp f fun a b => a + b
/-- R112, SUB. -/
def execSub (f : FmtA) (s : State) : Out := s.intOp f fun a b => a - b
/-- R112, MUL. -/
def execMul (f : FmtA) (s : State) : Out := s.intOp f fun a b => a * b
/-- R112, MULH. -/
def execMulh (f : FmtA) (s : State) : Out := s.intOp f fun a b => mulHi a b
/-- R112, MULHU. -/
def execMulhu (f : FmtA) (s : State) : Out := s.intOp f fun a b => mulHiU a b
/-- R112, DIV. -/
def execDiv (f : FmtA) (s : State) : Out := s.intOp f fun a b => divS a b
/-- R112, DIVU. -/
def execDivu (f : FmtA) (s : State) : Out := s.intOp f fun a b => divU a b
/-- R112, REM. -/
def execRem (f : FmtA) (s : State) : Out := s.intOp f fun a b => remS a b
/-- R112, REMU. -/
def execRemu (f : FmtA) (s : State) : Out := s.intOp f fun a b => remU a b
/-- R112, AND. -/
def execAnd (f : FmtA) (s : State) : Out := s.intOp f fun a b => a &&& b
/-- R112, OR. -/
def execOr (f : FmtA) (s : State) : Out := s.intOp f fun a b => a ||| b
/-- R112, XOR. -/
def execXor (f : FmtA) (s : State) : Out := s.intOp f fun a b => a ^^^ b
/-- R112, ANDN. -/
def execAndn (f : FmtA) (s : State) : Out := s.intOp f fun a b => a &&& ~~~b
/-- R112, SHL. -/
def execShl (f : FmtA) (s : State) : Out := s.intOp f fun a b => a <<< shiftCount b
/-- R112, SHR. -/
def execShr (f : FmtA) (s : State) : Out := s.intOp f fun a b => a >>> shiftCount b
/-- R112, SRA. -/
def execSra (f : FmtA) (s : State) : Out := s.intOp f fun a b => a.sshiftRight (shiftCount b)
/-- R112, ROT. -/
def execRot (f : FmtA) (s : State) : Out := s.intOp f fun a b => a.rotateLeft (shiftCount b)
/-- R112, MIN. -/
def execMin (f : FmtA) (s : State) : Out := s.intOp f fun a b => minS a b
/-- R112, MAX. -/
def execMax (f : FmtA) (s : State) : Out := s.intOp f fun a b => maxS a b
/-- R112, MINU. -/
def execMinu (f : FmtA) (s : State) : Out := s.intOp f fun a b => minU a b
/-- R112, MAXU. -/
def execMaxu (f : FmtA) (s : State) : Out := s.intOp f fun a b => maxU a b
/-- R112, CLZ. -/
def execClz (f : FmtA) (s : State) : Out := s.intUnary f fun a => BitVec.ofNat 64 (leadingZeros 64 a.toNat)
/-- R112, POPC. -/
def execPopc (f : FmtA) (s : State) : Out := s.intUnary f fun a => BitVec.ofNat 64 (onesBelow 64 a.toNat)
/-- R112, MOV. -/
def execMov (f : FmtA) (s : State) : Out := s.intUnary f fun a => a
/-- R112, SEL. -/
def execSel (f : FmtA) (s : State) : Out := s.intSel f
/-- R112, SEXT. -/
def execSext (f : FmtA) (s : State) : Out := s.intUnary f fun a => Word.sextFrom (extWidth f.mod) a
/-- R112, ZEXT. -/
def execZext (f : FmtA) (s : State) : Out := s.intUnary f fun a => Word.zextFrom (extWidth f.mod) a
/-- R114, ADD with an immediate. -/
def execAddImm (f : FmtI) (s : State) : Out := s.intImm f fun a b => a + b
/-- R114, MUL with an immediate. -/
def execMulImm (f : FmtI) (s : State) : Out := s.intImm f fun a b => a * b
/-- R114, AND with an immediate. -/
def execAndImm (f : FmtI) (s : State) : Out := s.intImm f fun a b => a &&& b
/-- R114, OR with an immediate. -/
def execOrImm (f : FmtI) (s : State) : Out := s.intImm f fun a b => a ||| b
/-- R114, XOR with an immediate. -/
def execXorImm (f : FmtI) (s : State) : Out := s.intImm f fun a b => a ^^^ b
/-- R114, SHL with an immediate. -/
def execShlImm (f : FmtI) (s : State) : Out := s.intImm f fun a b => a <<< shiftCount b
/-- R114, SHR with an immediate. -/
def execShrImm (f : FmtI) (s : State) : Out := s.intImm f fun a b => a >>> shiftCount b
/-- R114, SRA with an immediate. -/
def execSraImm (f : FmtI) (s : State) : Out := s.intImm f fun a b => a.sshiftRight (shiftCount b)
/-- R114, ROT with an immediate. -/
def execRotImm (f : FmtI) (s : State) : Out := s.intImm f fun a b => a.rotateLeft (shiftCount b)
/-- R114, MIN with an immediate. -/
def execMinImm (f : FmtI) (s : State) : Out := s.intImm f fun a b => minS a b
/-- R114, MAX with an immediate. -/
def execMaxImm (f : FmtI) (s : State) : Out := s.intImm f fun a b => maxS a b
/-- R114, MINU with an immediate. -/
def execMinuImm (f : FmtI) (s : State) : Out := s.intImm f fun a b => minU a b
/-- R114, MAXU with an immediate. -/
def execMaxuImm (f : FmtI) (s : State) : Out := s.intImm f fun a b => maxU a b
/-- R114, MOV with an immediate. -/
def execMovImm (f : FmtI) (s : State) : Out := s.guarded f.g fun s => s.wrInt f.d (simm f)
/-- R114, MOVH. -/
def execMovh (f : FmtI) (s : State) : Out := s.intMovh f
/-- R115, MOVL. -/
def execMovl (f : FmtL) (s : State) : Out := s.literal f
/-- R117, EQ. -/
def execCmpEq (f : FmtA) (s : State) : Out := s.cmp f .eq
/-- R117, EQ with an immediate. -/
def execCmpiEq (f : FmtI) (s : State) : Out := s.cmpImm f .eq
/-- R117, NE. -/
def execCmpNe (f : FmtA) (s : State) : Out := s.cmp f .ne
/-- R117, NE with an immediate. -/
def execCmpiNe (f : FmtI) (s : State) : Out := s.cmpImm f .ne
/-- R117, LT. -/
def execCmpLt (f : FmtA) (s : State) : Out := s.cmp f .lt
/-- R117, LT with an immediate. -/
def execCmpiLt (f : FmtI) (s : State) : Out := s.cmpImm f .lt
/-- R117, GE. -/
def execCmpGe (f : FmtA) (s : State) : Out := s.cmp f .ge
/-- R117, GE with an immediate. -/
def execCmpiGe (f : FmtI) (s : State) : Out := s.cmpImm f .ge
/-- R117, LTU. -/
def execCmpLtu (f : FmtA) (s : State) : Out := s.cmp f .ltu
/-- R117, LTU with an immediate. -/
def execCmpiLtu (f : FmtI) (s : State) : Out := s.cmpImm f .ltu
/-- R117, GEU. -/
def execCmpGeu (f : FmtA) (s : State) : Out := s.cmp f .geu
/-- R117, GEU with an immediate. -/
def execCmpiGeu (f : FmtI) (s : State) : Out := s.cmpImm f .geu
/-- R118, PAND. -/
def execPand (f : FmtA) (s : State) : Out := s.predOp f fun a b => a && b
/-- R118, POR. -/
def execPor (f : FmtA) (s : State) : Out := s.predOp f fun a b => a || b
/-- R118, PXOR. -/
def execPxor (f : FmtA) (s : State) : Out := s.predOp f fun a b => a != b
/-- R118, PANDN. -/
def execPandn (f : FmtA) (s : State) : Out := s.predOp f fun a b => a && !b
/-- R118, PNOT. -/
def execPnot (f : FmtA) (s : State) : Out := s.predOp f fun a _ => !a
/-- R118, PMOV. -/
def execPmov (f : FmtA) (s : State) : Out := s.predOp f fun a _ => a
/-- R118, PGET. -/
def execPget (f : FmtA) (s : State) : Out := s.predGet f
/-- R110, R112, ADD. -/
def execMAdd (f : FmtA) (s : State) : Out := s.intOp f fun a b => a + b
/-- R110, R112, SUB. -/
def execMSub (f : FmtA) (s : State) : Out := s.intOp f fun a b => a - b
/-- R110, R112, MUL. -/
def execMMul (f : FmtA) (s : State) : Out := s.intOp f fun a b => a * b
/-- R110, R112, MULH. -/
def execMMulh (f : FmtA) (s : State) : Out := s.intOp f fun a b => mulHi a b
/-- R110, R112, MULHU. -/
def execMMulhu (f : FmtA) (s : State) : Out := s.intOp f fun a b => mulHiU a b
/-- R110, R112, DIV. -/
def execMDiv (f : FmtA) (s : State) : Out := s.intOp f fun a b => divS a b
/-- R110, R112, DIVU. -/
def execMDivu (f : FmtA) (s : State) : Out := s.intOp f fun a b => divU a b
/-- R110, R112, REM. -/
def execMRem (f : FmtA) (s : State) : Out := s.intOp f fun a b => remS a b
/-- R110, R112, REMU. -/
def execMRemu (f : FmtA) (s : State) : Out := s.intOp f fun a b => remU a b
/-- R110, R112, AND. -/
def execMAnd (f : FmtA) (s : State) : Out := s.intOp f fun a b => a &&& b
/-- R110, R112, OR. -/
def execMOr (f : FmtA) (s : State) : Out := s.intOp f fun a b => a ||| b
/-- R110, R112, XOR. -/
def execMXor (f : FmtA) (s : State) : Out := s.intOp f fun a b => a ^^^ b
/-- R110, R112, ANDN. -/
def execMAndn (f : FmtA) (s : State) : Out := s.intOp f fun a b => a &&& ~~~b
/-- R110, R112, SHL. -/
def execMShl (f : FmtA) (s : State) : Out := s.intOp f fun a b => a <<< shiftCount b
/-- R110, R112, SHR. -/
def execMShr (f : FmtA) (s : State) : Out := s.intOp f fun a b => a >>> shiftCount b
/-- R110, R112, SRA. -/
def execMSra (f : FmtA) (s : State) : Out := s.intOp f fun a b => a.sshiftRight (shiftCount b)
/-- R110, R112, ROT. -/
def execMRot (f : FmtA) (s : State) : Out := s.intOp f fun a b => a.rotateLeft (shiftCount b)
/-- R110, R112, MIN. -/
def execMMin (f : FmtA) (s : State) : Out := s.intOp f fun a b => minS a b
/-- R110, R112, MAX. -/
def execMMax (f : FmtA) (s : State) : Out := s.intOp f fun a b => maxS a b
/-- R110, R112, MINU. -/
def execMMinu (f : FmtA) (s : State) : Out := s.intOp f fun a b => minU a b
/-- R110, R112, MAXU. -/
def execMMaxu (f : FmtA) (s : State) : Out := s.intOp f fun a b => maxU a b
/-- R110, R112, CLZ. -/
def execMClz (f : FmtA) (s : State) : Out := s.intUnary f fun a => BitVec.ofNat 64 (leadingZeros 64 a.toNat)
/-- R110, R112, POPC. -/
def execMPopc (f : FmtA) (s : State) : Out := s.intUnary f fun a => BitVec.ofNat 64 (onesBelow 64 a.toNat)
/-- R110, R112, MOV. -/
def execMMov (f : FmtA) (s : State) : Out := s.intUnary f fun a => a
/-- R110, R112, SEL. -/
def execMSel (f : FmtA) (s : State) : Out := s.intSel f
/-- R110, R112, SEXT. -/
def execMSext (f : FmtA) (s : State) : Out := s.intUnary f fun a => Word.sextFrom (extWidth f.mod) a
/-- R110, R112, ZEXT. -/
def execMZext (f : FmtA) (s : State) : Out := s.intUnary f fun a => Word.zextFrom (extWidth f.mod) a
/-- R110, R114, ADD with an immediate. -/
def execMAddImm (f : FmtI) (s : State) : Out := s.intImm f fun a b => a + b
/-- R110, R114, MUL with an immediate. -/
def execMMulImm (f : FmtI) (s : State) : Out := s.intImm f fun a b => a * b
/-- R110, R114, AND with an immediate. -/
def execMAndImm (f : FmtI) (s : State) : Out := s.intImm f fun a b => a &&& b
/-- R110, R114, OR with an immediate. -/
def execMOrImm (f : FmtI) (s : State) : Out := s.intImm f fun a b => a ||| b
/-- R110, R114, XOR with an immediate. -/
def execMXorImm (f : FmtI) (s : State) : Out := s.intImm f fun a b => a ^^^ b
/-- R110, R114, SHL with an immediate. -/
def execMShlImm (f : FmtI) (s : State) : Out := s.intImm f fun a b => a <<< shiftCount b
/-- R110, R114, SHR with an immediate. -/
def execMShrImm (f : FmtI) (s : State) : Out := s.intImm f fun a b => a >>> shiftCount b
/-- R110, R114, SRA with an immediate. -/
def execMSraImm (f : FmtI) (s : State) : Out := s.intImm f fun a b => a.sshiftRight (shiftCount b)
/-- R110, R114, ROT with an immediate. -/
def execMRotImm (f : FmtI) (s : State) : Out := s.intImm f fun a b => a.rotateLeft (shiftCount b)
/-- R110, R114, MIN with an immediate. -/
def execMMinImm (f : FmtI) (s : State) : Out := s.intImm f fun a b => minS a b
/-- R110, R114, MAX with an immediate. -/
def execMMaxImm (f : FmtI) (s : State) : Out := s.intImm f fun a b => maxS a b
/-- R110, R114, MINU with an immediate. -/
def execMMinuImm (f : FmtI) (s : State) : Out := s.intImm f fun a b => minU a b
/-- R110, R114, MAXU with an immediate. -/
def execMMaxuImm (f : FmtI) (s : State) : Out := s.intImm f fun a b => maxU a b
/-- R110, R114, MOV with an immediate. -/
def execMMovImm (f : FmtI) (s : State) : Out := s.guarded f.g fun s => s.wrInt f.d (simm f)
/-- R110, R114, MOVH. -/
def execMMovh (f : FmtI) (s : State) : Out := s.intMovh f
/-- R110, R115, MOVL. -/
def execMMovl (f : FmtL) (s : State) : Out := s.literal f
/-- R110, R117, EQ. -/
def execMcmpEq (f : FmtA) (s : State) : Out := s.cmp f .eq
/-- R110, R117, EQ with an immediate. -/
def execMcmpiEq (f : FmtI) (s : State) : Out := s.cmpImm f .eq
/-- R110, R117, NE. -/
def execMcmpNe (f : FmtA) (s : State) : Out := s.cmp f .ne
/-- R110, R117, NE with an immediate. -/
def execMcmpiNe (f : FmtI) (s : State) : Out := s.cmpImm f .ne
/-- R110, R117, LT. -/
def execMcmpLt (f : FmtA) (s : State) : Out := s.cmp f .lt
/-- R110, R117, LT with an immediate. -/
def execMcmpiLt (f : FmtI) (s : State) : Out := s.cmpImm f .lt
/-- R110, R117, GE. -/
def execMcmpGe (f : FmtA) (s : State) : Out := s.cmp f .ge
/-- R110, R117, GE with an immediate. -/
def execMcmpiGe (f : FmtI) (s : State) : Out := s.cmpImm f .ge
/-- R110, R117, LTU. -/
def execMcmpLtu (f : FmtA) (s : State) : Out := s.cmp f .ltu
/-- R110, R117, LTU with an immediate. -/
def execMcmpiLtu (f : FmtI) (s : State) : Out := s.cmpImm f .ltu
/-- R110, R117, GEU. -/
def execMcmpGeu (f : FmtA) (s : State) : Out := s.cmp f .geu
/-- R110, R117, GEU with an immediate. -/
def execMcmpiGeu (f : FmtI) (s : State) : Out := s.cmpImm f .geu
/-- R110, R118, PAND. -/
def execMPand (f : FmtA) (s : State) : Out := s.predOp f fun a b => a && b
/-- R110, R118, POR. -/
def execMPor (f : FmtA) (s : State) : Out := s.predOp f fun a b => a || b
/-- R110, R118, PXOR. -/
def execMPxor (f : FmtA) (s : State) : Out := s.predOp f fun a b => a != b
/-- R110, R118, PANDN. -/
def execMPandn (f : FmtA) (s : State) : Out := s.predOp f fun a b => a && !b
/-- R110, R118, PNOT. -/
def execMPnot (f : FmtA) (s : State) : Out := s.predOp f fun a _ => !a
/-- R110, R118, PMOV. -/
def execMPmov (f : FmtA) (s : State) : Out := s.predOp f fun a _ => a
/-- R110, R118, PGET. -/
def execMPget (f : FmtA) (s : State) : Out := s.predGet f

end Sys2Proof.Machine
end

