-- ==== Sys2Proof/Machine/Dispatch.lean ====
section
/-! DEFINITION. One arm per instruction: its meaning, by one direct call. -/

namespace Sys2Proof.Machine

def exec (i : Instr) (s : State) : Host.Outcome State Fault Refusal :=
  match i with
  | .nop => Sys2Proof.Machine.execNop s
  | .yield f => Sys2Proof.Machine.execYield f s
  | .exit f => Sys2Proof.Machine.execExit f s
  | .add f => Sys2Proof.Machine.execAdd f s
  | .sub f => Sys2Proof.Machine.execSub f s
  | .mul f => Sys2Proof.Machine.execMul f s
  | .mulh f => Sys2Proof.Machine.execMulh f s
  | .mulhu f => Sys2Proof.Machine.execMulhu f s
  | .div f => Sys2Proof.Machine.execDiv f s
  | .divu f => Sys2Proof.Machine.execDivu f s
  | .rem f => Sys2Proof.Machine.execRem f s
  | .remu f => Sys2Proof.Machine.execRemu f s
  | .and f => Sys2Proof.Machine.execAnd f s
  | .or f => Sys2Proof.Machine.execOr f s
  | .xor f => Sys2Proof.Machine.execXor f s
  | .andn f => Sys2Proof.Machine.execAndn f s
  | .shl f => Sys2Proof.Machine.execShl f s
  | .shr f => Sys2Proof.Machine.execShr f s
  | .sra f => Sys2Proof.Machine.execSra f s
  | .rot f => Sys2Proof.Machine.execRot f s
  | .min f => Sys2Proof.Machine.execMin f s
  | .max f => Sys2Proof.Machine.execMax f s
  | .minu f => Sys2Proof.Machine.execMinu f s
  | .maxu f => Sys2Proof.Machine.execMaxu f s
  | .clz f => Sys2Proof.Machine.execClz f s
  | .popc f => Sys2Proof.Machine.execPopc f s
  | .sel f => Sys2Proof.Machine.execSel f s
  | .mov f => Sys2Proof.Machine.execMov f s
  | .sext f => Sys2Proof.Machine.execSext f s
  | .zext f => Sys2Proof.Machine.execZext f s
  | .addImm f => Sys2Proof.Machine.execAddImm f s
  | .mulImm f => Sys2Proof.Machine.execMulImm f s
  | .andImm f => Sys2Proof.Machine.execAndImm f s
  | .orImm f => Sys2Proof.Machine.execOrImm f s
  | .xorImm f => Sys2Proof.Machine.execXorImm f s
  | .shlImm f => Sys2Proof.Machine.execShlImm f s
  | .shrImm f => Sys2Proof.Machine.execShrImm f s
  | .sraImm f => Sys2Proof.Machine.execSraImm f s
  | .rotImm f => Sys2Proof.Machine.execRotImm f s
  | .minImm f => Sys2Proof.Machine.execMinImm f s
  | .maxImm f => Sys2Proof.Machine.execMaxImm f s
  | .minuImm f => Sys2Proof.Machine.execMinuImm f s
  | .maxuImm f => Sys2Proof.Machine.execMaxuImm f s
  | .movImm f => Sys2Proof.Machine.execMovImm f s
  | .movh f => Sys2Proof.Machine.execMovh f s
  | .movl f => Sys2Proof.Machine.execMovl f s
  | .cmpEq f => Sys2Proof.Machine.execCmpEq f s
  | .cmpNe f => Sys2Proof.Machine.execCmpNe f s
  | .cmpLt f => Sys2Proof.Machine.execCmpLt f s
  | .cmpGe f => Sys2Proof.Machine.execCmpGe f s
  | .cmpLtu f => Sys2Proof.Machine.execCmpLtu f s
  | .cmpGeu f => Sys2Proof.Machine.execCmpGeu f s
  | .cmpiEq f => Sys2Proof.Machine.execCmpiEq f s
  | .cmpiNe f => Sys2Proof.Machine.execCmpiNe f s
  | .cmpiLt f => Sys2Proof.Machine.execCmpiLt f s
  | .cmpiGe f => Sys2Proof.Machine.execCmpiGe f s
  | .cmpiLtu f => Sys2Proof.Machine.execCmpiLtu f s
  | .cmpiGeu f => Sys2Proof.Machine.execCmpiGeu f s
  | .pand f => Sys2Proof.Machine.execPand f s
  | .por f => Sys2Proof.Machine.execPor f s
  | .pxor f => Sys2Proof.Machine.execPxor f s
  | .pandn f => Sys2Proof.Machine.execPandn f s
  | .pnot f => Sys2Proof.Machine.execPnot f s
  | .pmov f => Sys2Proof.Machine.execPmov f s
  | .pget f => Sys2Proof.Machine.execPget f s
  | .fadd f => Sys2Proof.Machine.execFadd f s
  | .fsub f => Sys2Proof.Machine.execFsub f s
  | .fmul f => Sys2Proof.Machine.execFmul f s
  | .fdiv f => Sys2Proof.Machine.execFdiv f s
  | .fsqrt f => Sys2Proof.Machine.execFsqrt f s
  | .fma f => Sys2Proof.Machine.execFma f s
  | .fmin f => Sys2Proof.Machine.execFmin f s
  | .fmax f => Sys2Proof.Machine.execFmax f s
  | .fcmp f => Sys2Proof.Machine.execFcmp f s
  | .fcvt f => Sys2Proof.Machine.execFcvt f s
  | .fcvti f => Sys2Proof.Machine.execFcvti f s
  | .fcvtf f => Sys2Proof.Machine.execFcvtf f s
  | .br f => Sys2Proof.Machine.execBr f s
  | .brp f => Sys2Proof.Machine.execBrp f s
  | .call f => Sys2Proof.Machine.execCall f s
  | .ret f => Sys2Proof.Machine.execRet f s
  | .jmpr f => Sys2Proof.Machine.execJmpr f s
  | .loop f => Sys2Proof.Machine.execLoop f s
  | .nexttile f => Sys2Proof.Machine.execNexttile f s
  | .ld8 f => Sys2Proof.Machine.execLd8 f s
  | .ld8sx f => Sys2Proof.Machine.execLd8sx f s
  | .ld16 f => Sys2Proof.Machine.execLd16 f s
  | .ld16sx f => Sys2Proof.Machine.execLd16sx f s
  | .ld32 f => Sys2Proof.Machine.execLd32 f s
  | .ld32sx f => Sys2Proof.Machine.execLd32sx f s
  | .ld64 f => Sys2Proof.Machine.execLd64 f s
  | .st8 f => Sys2Proof.Machine.execSt8 f s
  | .st16 f => Sys2Proof.Machine.execSt16 f s
  | .st32 f => Sys2Proof.Machine.execSt32 f s
  | .st64 f => Sys2Proof.Machine.execSt64 f s
  | .lda f => Sys2Proof.Machine.execLda f s
  | .stl f => Sys2Proof.Machine.execStl f s
  | .lea f => Sys2Proof.Machine.execLea f s
  | .amoFadd f => Sys2Proof.Machine.execAmoFadd f s
  | .amoSwap f => Sys2Proof.Machine.execAmoSwap f s
  | .amoCas f => Sys2Proof.Machine.execAmoCas f s
  | .amoMin f => Sys2Proof.Machine.execAmoMin f s
  | .amoMax f => Sys2Proof.Machine.execAmoMax f s
  | .amoMinu f => Sys2Proof.Machine.execAmoMinu f s
  | .amoMaxu f => Sys2Proof.Machine.execAmoMaxu f s
  | .amoAnd f => Sys2Proof.Machine.execAmoAnd f s
  | .amoOr f => Sys2Proof.Machine.execAmoOr f s
  | .amoXor f => Sys2Proof.Machine.execAmoXor f s
  | .fence f => Sys2Proof.Machine.execFence f s
  | .fenceAcq f => Sys2Proof.Machine.execFenceAcq f s
  | .fenceRel f => Sys2Proof.Machine.execFenceRel f s
  | .pin f => Sys2Proof.Machine.execPin f s
  | .unpin f => Sys2Proof.Machine.execUnpin f s
  | .ldfe f => Sys2Proof.Machine.execLdfe f s
  | .ldff f => Sys2Proof.Machine.execLdff f s
  | .stef f => Sys2Proof.Machine.execStef f s
  | .stff f => Sys2Proof.Machine.execStff f s
  | .sete f => Sys2Proof.Machine.execSete f s
  | .setf f => Sys2Proof.Machine.execSetf f s
  | .csrr f => Sys2Proof.Machine.execCsrr f s
  | .csrw f => Sys2Proof.Machine.execCsrw f s
  | .csrs f => Sys2Proof.Machine.execCsrs f s
  | .csrc f => Sys2Proof.Machine.execCsrc f s
  | .time f => Sys2Proof.Machine.execTime f s
  | .trap f => Sys2Proof.Machine.execTrap f s
  | .sysc f => Sys2Proof.Machine.execSysc f s
  | .dbg f => Sys2Proof.Machine.execDbg f s
  | .route f => Sys2Proof.Machine.execRoute f s
  | .routeCancel f => Sys2Proof.Machine.execRouteCancel f s
  | .rstat f => Sys2Proof.Machine.execRstat f s
  | .spawn f => Sys2Proof.Machine.execSpawn f s
  | .binapp f => Sys2Proof.Machine.execBinapp f s
  | .binclr f => Sys2Proof.Machine.execBinclr f s
  | .xresv f => Sys2Proof.Machine.execXresv f s
  | .xresvCfg f => Sys2Proof.Machine.execXresvCfg f s
  | .xresvEnd f => Sys2Proof.Machine.execXresvEnd f s
  | .xdisp f => Sys2Proof.Machine.execXdisp f s
  | .xcomb f => Sys2Proof.Machine.execXcomb f s
  | .ldvBc f => Sys2Proof.Machine.execLdvBc f s
  | .stvBc f => Sys2Proof.Machine.execStvBc f s
  | .ldvtBc f => Sys2Proof.Machine.execLdvtBc f s
  | .mAdd f => Sys2Proof.Machine.execMAdd f s
  | .mSub f => Sys2Proof.Machine.execMSub f s
  | .mMul f => Sys2Proof.Machine.execMMul f s
  | .mMulh f => Sys2Proof.Machine.execMMulh f s
  | .mMulhu f => Sys2Proof.Machine.execMMulhu f s
  | .mDiv f => Sys2Proof.Machine.execMDiv f s
  | .mDivu f => Sys2Proof.Machine.execMDivu f s
  | .mRem f => Sys2Proof.Machine.execMRem f s
  | .mRemu f => Sys2Proof.Machine.execMRemu f s
  | .mAnd f => Sys2Proof.Machine.execMAnd f s
  | .mOr f => Sys2Proof.Machine.execMOr f s
  | .mXor f => Sys2Proof.Machine.execMXor f s
  | .mAndn f => Sys2Proof.Machine.execMAndn f s
  | .mShl f => Sys2Proof.Machine.execMShl f s
  | .mShr f => Sys2Proof.Machine.execMShr f s
  | .mSra f => Sys2Proof.Machine.execMSra f s
  | .mRot f => Sys2Proof.Machine.execMRot f s
  | .mMin f => Sys2Proof.Machine.execMMin f s
  | .mMax f => Sys2Proof.Machine.execMMax f s
  | .mMinu f => Sys2Proof.Machine.execMMinu f s
  | .mMaxu f => Sys2Proof.Machine.execMMaxu f s
  | .mClz f => Sys2Proof.Machine.execMClz f s
  | .mPopc f => Sys2Proof.Machine.execMPopc f s
  | .mSel f => Sys2Proof.Machine.execMSel f s
  | .mMov f => Sys2Proof.Machine.execMMov f s
  | .mSext f => Sys2Proof.Machine.execMSext f s
  | .mZext f => Sys2Proof.Machine.execMZext f s
  | .mAddImm f => Sys2Proof.Machine.execMAddImm f s
  | .mMulImm f => Sys2Proof.Machine.execMMulImm f s
  | .mAndImm f => Sys2Proof.Machine.execMAndImm f s
  | .mOrImm f => Sys2Proof.Machine.execMOrImm f s
  | .mXorImm f => Sys2Proof.Machine.execMXorImm f s
  | .mShlImm f => Sys2Proof.Machine.execMShlImm f s
  | .mShrImm f => Sys2Proof.Machine.execMShrImm f s
  | .mSraImm f => Sys2Proof.Machine.execMSraImm f s
  | .mRotImm f => Sys2Proof.Machine.execMRotImm f s
  | .mMinImm f => Sys2Proof.Machine.execMMinImm f s
  | .mMaxImm f => Sys2Proof.Machine.execMMaxImm f s
  | .mMinuImm f => Sys2Proof.Machine.execMMinuImm f s
  | .mMaxuImm f => Sys2Proof.Machine.execMMaxuImm f s
  | .mMovImm f => Sys2Proof.Machine.execMMovImm f s
  | .mMovh f => Sys2Proof.Machine.execMMovh f s
  | .mcmpEq f => Sys2Proof.Machine.execMcmpEq f s
  | .mcmpNe f => Sys2Proof.Machine.execMcmpNe f s
  | .mcmpLt f => Sys2Proof.Machine.execMcmpLt f s
  | .mcmpGe f => Sys2Proof.Machine.execMcmpGe f s
  | .mcmpLtu f => Sys2Proof.Machine.execMcmpLtu f s
  | .mcmpGeu f => Sys2Proof.Machine.execMcmpGeu f s
  | .mcmpiEq f => Sys2Proof.Machine.execMcmpiEq f s
  | .mcmpiNe f => Sys2Proof.Machine.execMcmpiNe f s
  | .mcmpiLt f => Sys2Proof.Machine.execMcmpiLt f s
  | .mcmpiGe f => Sys2Proof.Machine.execMcmpiGe f s
  | .mcmpiLtu f => Sys2Proof.Machine.execMcmpiLtu f s
  | .mcmpiGeu f => Sys2Proof.Machine.execMcmpiGeu f s
  | .mPand f => Sys2Proof.Machine.execMPand f s
  | .mPor f => Sys2Proof.Machine.execMPor f s
  | .mPxor f => Sys2Proof.Machine.execMPxor f s
  | .mPandn f => Sys2Proof.Machine.execMPandn f s
  | .mPnot f => Sys2Proof.Machine.execMPnot f s
  | .mPmov f => Sys2Proof.Machine.execMPmov f s
  | .mPget f => Sys2Proof.Machine.execMPget f s
  | .mMovl f => Sys2Proof.Machine.execMMovl f s
  | .mLea f => Sys2Proof.Machine.execMLea f s
  | .colid f => Sys2Proof.Machine.execColid f s
  | .rowid f => Sys2Proof.Machine.execRowid f s
  | .lds f => Sys2Proof.Machine.execLds f s
  | .sts f => Sys2Proof.Machine.execSts f s
  | .ldv f => Sys2Proof.Machine.execLdv f s
  | .stv f => Sys2Proof.Machine.execStv f s
  | .ldvt f => Sys2Proof.Machine.execLdvt f s
  | .rput f => Sys2Proof.Machine.execRput f s
  | .rget f => Sys2Proof.Machine.execRget f s
  | .vadd f => Sys2Proof.Machine.execVadd f s
  | .vsub f => Sys2Proof.Machine.execVsub f s
  | .vmul f => Sys2Proof.Machine.execVmul f s
  | .vdiv f => Sys2Proof.Machine.execVdiv f s
  | .vfma f => Sys2Proof.Machine.execVfma f s
  | .vfms f => Sys2Proof.Machine.execVfms f s
  | .vmin f => Sys2Proof.Machine.execVmin f s
  | .vmax f => Sys2Proof.Machine.execVmax f s
  | .vabs f => Sys2Proof.Machine.execVabs f s
  | .vneg f => Sys2Proof.Machine.execVneg f s
  | .vrcp f => Sys2Proof.Machine.execVrcp f s
  | .vrsq f => Sys2Proof.Machine.execVrsq f s
  | .vsqrt f => Sys2Proof.Machine.execVsqrt f s
  | .vexp2 f => Sys2Proof.Machine.execVexp2 f s
  | .vlog2 f => Sys2Proof.Machine.execVlog2 f s
  | .vsig f => Sys2Proof.Machine.execVsig f s
  | .vtanh f => Sys2Proof.Machine.execVtanh f s
  | .vaddInt f => Sys2Proof.Machine.execVaddInt f s
  | .vsubInt f => Sys2Proof.Machine.execVsubInt f s
  | .vmulInt f => Sys2Proof.Machine.execVmulInt f s
  | .vminInt f => Sys2Proof.Machine.execVminInt f s
  | .vmaxInt f => Sys2Proof.Machine.execVmaxInt f s
  | .vand f => Sys2Proof.Machine.execVand f s
  | .vor f => Sys2Proof.Machine.execVor f s
  | .vxor f => Sys2Proof.Machine.execVxor f s
  | .vnot f => Sys2Proof.Machine.execVnot f s
  | .vshl f => Sys2Proof.Machine.execVshl f s
  | .vshr f => Sys2Proof.Machine.execVshr f s
  | .vsra f => Sys2Proof.Machine.execVsra f s
  | .vpopc f => Sys2Proof.Machine.execVpopc f s
  | .vclz f => Sys2Proof.Machine.execVclz f s
  | .vcmp f => Sys2Proof.Machine.execVcmp f s
  | .vmand f => Sys2Proof.Machine.execVmand f s
  | .vmor f => Sys2Proof.Machine.execVmor f s
  | .vmxor f => Sys2Proof.Machine.execVmxor f s
  | .vmnot f => Sys2Proof.Machine.execVmnot f s
  | .vmcnt f => Sys2Proof.Machine.execVmcnt f s
  | .vmfirst f => Sys2Proof.Machine.execVmfirst f s
  | .vsel f => Sys2Proof.Machine.execVsel f s
  | .vcvt f => Sys2Proof.Machine.execVcvt f s
  | .vqnt f => Sys2Proof.Machine.execVqnt f s
  | .vdeq f => Sys2Proof.Machine.execVdeq f s
  | .vred f => Sys2Proof.Machine.execVred f s
  | .vscan f => Sys2Proof.Machine.execVscan f s
  | .vmov f => Sys2Proof.Machine.execVmov f s
  | .vbcast f => Sys2Proof.Machine.execVbcast f s
  | .vtran f => Sys2Proof.Machine.execVtran f s
  | .vshuf f => Sys2Proof.Machine.execVshuf f s
  | .vext f => Sys2Proof.Machine.execVext f s
  | .vins f => Sys2Proof.Machine.execVins f s
  | .viota f => Sys2Proof.Machine.execViota f s
  | .nzscan f => Sys2Proof.Machine.execNzscan f s
  | .vtopk f => Sys2Proof.Machine.execVtopk f s
  | .vsort f => Sys2Proof.Machine.execVsort f s
  | .vshape f => Sys2Proof.Machine.execVshape f s
  | .vtok f => Sys2Proof.Machine.execVtok f s
  | .mldb f => Sys2Proof.Machine.execMldb f s
  | .mring f => Sys2Proof.Machine.execMring f s
  | .mswap f => Sys2Proof.Machine.execMswap f s
  | .mma f => Sys2Proof.Machine.execMma f s
  | .mmas f => Sys2Proof.Machine.execMmas f s
  | .gmma f => Sys2Proof.Machine.execGmma f s
  | .mzero f => Sys2Proof.Machine.execMzero f s
  | .mdrain f => Sys2Proof.Machine.execMdrain f s
  | .mstream f => Sys2Proof.Machine.execMstream f s
  | .qcfg f => Sys2Proof.Machine.execQcfg f s
  | .qtri f => Sys2Proof.Machine.execQtri f s
  | .qapply f => Sys2Proof.Machine.execQapply f s
  | .qang f => Sys2Proof.Machine.execQang f s
  | .qrot f => Sys2Proof.Machine.execQrot f s
  | .qsolve f => Sys2Proof.Machine.execQsolve f s
  | .qgain f => Sys2Proof.Machine.execQgain f s
  | .qldt f => Sys2Proof.Machine.execQldt f s
  | .qstt f => Sys2Proof.Machine.execQstt f s
  | .cp f => Sys2Proof.Machine.execCp f s
  | .cpg f => Sys2Proof.Machine.execCpg f s
  | .cps f => Sys2Proof.Machine.execCps f s
  | .cpd f => Sys2Proof.Machine.execCpd f s
  | .cpf f => Sys2Proof.Machine.execCpf f s
  | .cpw f => Sys2Proof.Machine.execCpw f s
  | .cpq f => Sys2Proof.Machine.execCpq f s
  | .arrv f => Sys2Proof.Machine.execArrv f s
  | .waitb f => Sys2Proof.Machine.execWaitb f s
  | .xput f => Sys2Proof.Machine.execXput f s
  | .xget f => Sys2Proof.Machine.execXget f s
  | .xamo f => Sys2Proof.Machine.execXamo f s
  | .xsend f => Sys2Proof.Machine.execXsend f s
  | .xtrig f => Sys2Proof.Machine.execXtrig f s
  | .xcntRead f => Sys2Proof.Machine.execXcntRead f s
  | .xcntSet f => Sys2Proof.Machine.execXcntSet f s
  | .xcntAdd f => Sys2Proof.Machine.execXcntAdd f s
  | .xcntErr f => Sys2Proof.Machine.execXcntErr f s
  | .xtile f => Sys2Proof.Machine.execXtile f s
  | .xtileFire f => Sys2Proof.Machine.execXtileFire f s
  | .xrt f => Sys2Proof.Machine.execXrt f s
  | .xflush f => Sys2Proof.Machine.execXflush f s
  | .xwait f => Sys2Proof.Machine.execXwait f s
  | .xwaitDrain f => Sys2Proof.Machine.execXwaitDrain f s
  | .bundleFetch g => Sys2Proof.Machine.execBundleFetch g s
  | .spineIssue g => Sys2Proof.Machine.execSpineIssue g s
  | .coreExecute g c => Sys2Proof.Machine.execCoreExecute g c s
  | .bcIssue g => Sys2Proof.Machine.execBcIssue g s
  | .bcReply g => Sys2Proof.Machine.execBcReply g s
  | .migrationSend g => Sys2Proof.Machine.execMigrationSend g s
  | .migrationArrive g => Sys2Proof.Machine.execMigrationArrive g s
  | .waitSatisfied g => Sys2Proof.Machine.execWaitSatisfied g s
  | .launchAccept => Sys2Proof.Machine.execLaunchAccept s
  | .submitDoorbell q v => Sys2Proof.Machine.execSubmitDoorbell q v s
  | .gangBind serial gang => Sys2Proof.Machine.execGangBind serial gang s
  | .gangStart serial gang => Sys2Proof.Machine.execGangStart serial gang s
  | .spawnBind die => Sys2Proof.Machine.execSpawnBind die s
  | .launchAgeing serial => Sys2Proof.Machine.execLaunchAgeing serial s
  | .taskRetire g => Sys2Proof.Machine.execTaskRetire g s
  | .completionRecordPost ring => Sys2Proof.Machine.execCompletionRecordPost ring s
  | .preempt serial gang => Sys2Proof.Machine.execPreempt serial gang s
  | .restore serial gang => Sys2Proof.Machine.execRestore serial gang s
  | .watchdogExpiry g => Sys2Proof.Machine.execWatchdogExpiry g s
  | .faultRecordPost die => Sys2Proof.Machine.execFaultRecordPost die s
  | .faultService die => Sys2Proof.Machine.execFaultService die s
  | .eventRecordPost die => Sys2Proof.Machine.execEventRecordPost die s
  | .resumeTask g n => Sys2Proof.Machine.execResumeTask g n s
  | .bwake g => Sys2Proof.Machine.execBwake g s
  | .syscReply g => Sys2Proof.Machine.execSyscReply g s
  | .fillerSwitch die row => Sys2Proof.Machine.execFillerSwitch die row s
  | .fillerReturn die row => Sys2Proof.Machine.execFillerReturn die row s
  | .mxStart g c => Sys2Proof.Machine.execMxStart g c s
  | .mxRetire g c => Sys2Proof.Machine.execMxRetire g c s
  | .mringBeat g c => Sys2Proof.Machine.execMringBeat g c s
  | .qrStart g c => Sys2Proof.Machine.execQrStart g c s
  | .qrRetire g c => Sys2Proof.Machine.execQrRetire g c s
  | .tokenPush g c e => Sys2Proof.Machine.execTokenPush g c e s
  | .copyDue g c => Sys2Proof.Machine.execCopyDue g c s
  | .copyBeat g c => Sys2Proof.Machine.execCopyBeat g c s
  | .copyComplete g c => Sys2Proof.Machine.execCopyComplete g c s
  | .homeAccess key => Sys2Proof.Machine.execHomeAccess key s
  | .faddCombine die k j => Sys2Proof.Machine.execFaddCombine die k j s
  | .registration row pa => Sys2Proof.Machine.execRegistration row pa s
  | .l1dEvict row pa => Sys2Proof.Machine.execL1dEvict row pa s
  | .sliceWritebackInvalidate pa => Sys2Proof.Machine.execSliceWritebackInvalidate pa s
  | .sliceWriteback pa => Sys2Proof.Machine.execSliceWriteback pa s
  | .sliceDropHeld pa => Sys2Proof.Machine.execSliceDropHeld pa s
  | .sliceMaintDone die => Sys2Proof.Machine.execSliceMaintDone die s
  | .sliceCounterClear die => Sys2Proof.Machine.execSliceCounterClear die s
  | .correctableError e => Sys2Proof.Machine.execCorrectableError e s
  | .uncorrectableError e => Sys2Proof.Machine.execUncorrectableError e s
  | .scrubRead die => Sys2Proof.Machine.execScrubRead die s
  | .errorInject die v => Sys2Proof.Machine.execErrorInject die v s
  | .readClearRegister pa => Sys2Proof.Machine.execReadClearRegister pa s
  | .pageWalk tlb asid root va => Sys2Proof.Machine.execPageWalk tlb asid root va s
  | .tlbInvalidateAll die => Sys2Proof.Machine.execTlbInvalidateAll die s
  | .tlbInvalidateAsid die => Sys2Proof.Machine.execTlbInvalidateAsid die s
  | .tlbInvalidateRange die => Sys2Proof.Machine.execTlbInvalidateRange die s
  | .tlbInvalidateDone die => Sys2Proof.Machine.execTlbInvalidateDone die s
  | .collatorRowAccept g c => Sys2Proof.Machine.execCollatorRowAccept g c s
  | .collatorRecordWrite die => Sys2Proof.Machine.execCollatorRecordWrite die s
  | .routeEnd die => Sys2Proof.Machine.execRouteEnd die s
  | .routeResume die => Sys2Proof.Machine.execRouteResume die s
  | .residencyCommit die => Sys2Proof.Machine.execResidencyCommit die s
  | .hintPost die g w => Sys2Proof.Machine.execHintPost die g w s
  | .spare w die kind unit row => Sys2Proof.Machine.execSpare w die kind unit row s
  | .unspare w die kind unit row => Sys2Proof.Machine.execUnspare w die kind unit row s
  | .pprRepair die => Sys2Proof.Machine.execPprRepair die s
  | .moduleReset => Sys2Proof.Machine.execModuleReset s
  | .fwupdate w img => Sys2Proof.Machine.execFwupdate w img s
  | .svn w kind svn => Sys2Proof.Machine.execSvn w kind svn s
  | .owner w hash => Sys2Proof.Machine.execOwner w hash s
  | .enrol w body => Sys2Proof.Machine.execEnrol w body s
  | .revoke w body => Sys2Proof.Machine.execRevoke w body s
  | .badadd w entry => Sys2Proof.Machine.execBadadd w entry s
  | .badclr w entry => Sys2Proof.Machine.execBadclr w entry s
  | .attest w nonce => Sys2Proof.Machine.execAttest w nonce s
  | .regread w pa => Sys2Proof.Machine.execRegread w pa s
  | .regwrite w pa v => Sys2Proof.Machine.execRegwrite w pa v s
  | .registerWrite host pa v => Sys2Proof.Machine.execRegisterWrite host pa v s
  | .load => Sys2Proof.Machine.execLoad s
  | .retry => Sys2Proof.Machine.execRetry s
  | .commit => Sys2Proof.Machine.execCommit s
  | .abort => Sys2Proof.Machine.execAbort s
  | .chunk body => Sys2Proof.Machine.execChunk body s
  | .shardHashed n1 => Sys2Proof.Machine.execShardHashed n1 s
  | .shardDeadline n1 => Sys2Proof.Machine.execShardDeadline n1 s
  | .powerWindow m => Sys2Proof.Machine.execPowerWindow m s
  | .thermalThrottle hot => Sys2Proof.Machine.execThermalThrottle hot s
  | .thermalTrip => Sys2Proof.Machine.execThermalTrip s
  | .telemetryRecord temps => Sys2Proof.Machine.execTelemetryRecord temps s
  | .breakpointHalt g => Sys2Proof.Machine.execBreakpointHalt g s
  | .halt => Sys2Proof.Machine.execHalt s
  | .resume => Sys2Proof.Machine.execResume s
  | .step => Sys2Proof.Machine.execStep s
  | .read => Sys2Proof.Machine.execRead s
  | .write => Sys2Proof.Machine.execWrite s
  | .pcSample g => Sys2Proof.Machine.execPcSample g s
  | .pressFrameClose die => Sys2Proof.Machine.execPressFrameClose die s
  | .gridStore n1 => Sys2Proof.Machine.execGridStore n1 s
  | .flitReceive port flit => Sys2Proof.Machine.execFlitReceive port flit s
  | .linkReplay port => Sys2Proof.Machine.execLinkReplay port s
  | .linkDown port => Sys2Proof.Machine.execLinkDown port s
  | .messageReceive port m => Sys2Proof.Machine.execMessageReceive port m s
  | .ackSend dev => Sys2Proof.Machine.execAckSend dev s
  | .ackReceive port m => Sys2Proof.Machine.execAckReceive port m s
  | .e2eRetransmit dev seq => Sys2Proof.Machine.execE2eRetransmit dev seq s
  | .pairClear v => Sys2Proof.Machine.execPairClear v s
  | .releaseWritePerform m => Sys2Proof.Machine.execReleaseWritePerform m s
  | .rdmaWrite qp rkey psn pa data => Sys2Proof.Machine.execRdmaWrite qp rkey psn pa data s
  | .rdmaRead qp rkey psn pa n => Sys2Proof.Machine.execRdmaRead qp rkey psn pa n s
  | .lcpRequest qp psn tag op arg body => Sys2Proof.Machine.execLcpRequest qp psn tag op arg body s
  | .kill w g => Sys2Proof.Machine.execKill w g s
  | .ptpMessage port off ppm => Sys2Proof.Machine.execPtpMessage port off ppm s
  | .xeStart g c => Sys2Proof.Machine.execXeStart g c s
  | .putComplete die => Sys2Proof.Machine.execPutComplete die s
  | .receiveCounterCredit ref n => Sys2Proof.Machine.execReceiveCounterCredit ref n s
  | .permitRequestReceive port m => Sys2Proof.Machine.execPermitRequestReceive port m s
  | .permitWindowExpiry die expert => Sys2Proof.Machine.execPermitWindowExpiry die expert s
  | .dispatchReceive port m => Sys2Proof.Machine.execDispatchReceive port m s
  | .linkUp port => Sys2Proof.Machine.execLinkUp port s

end Sys2Proof.Machine
end

