-- ==== Sys2Proof/Machine/Tick.lean ====
section
/-! DEFINITION. A cycle passes: the clocks, the holds of the rows, and the steps that the units of the module take in it, in
the order in which the model lets them happen (R5, R43, R44, R276, R318, R343, R349, R350, R354, R358, R359, R361, R511, R518, R538; log entry 1). -/

namespace Sys2Proof.Machine

/-! ### Clocks -/

/-- R5, R538: the DCC after a cycle: 5 ticks in 7 cycles, at the rate the clock is slewed to. -/
def State.tickClock (s : State) : State :=
  let a := s.dccAcc + 5 * (1000000 + s.fab.slew).toNat
  { s with cycle := s.cycle + 1, dcc := s.dcc + BitVec.ofNat 64 (a / 7000000), dccAcc := a % 7000000 }

/-- R44: the watchdogs count the ticks of the cycle. -/
def State.tickWatchdogs (s : State) (n : Word) : State :=
  let go (e : Nat × Task) : Nat × Task := if e.2.wdCounts then (e.1, { e.2 with wdCount := e.2.wdCount + n }) else e
  { s with tasks := s.tasks.map go }

/-- R518: a cycle in which flits wait for credit counts on their ports, by VC, saturating. -/
def State.tickStalls (s : State) : State :=
  let keys := (s.fab.ports.map fun e =>
    ((e.2.queue.map flitVc).dedup.filter fun v => Tbl.get 64 e.2.credits v = 0).map fun v => 8 * e.1 + v).flatten
  let c := keys.foldl (fun t k => Tbl.set 0 t k (min (2 ^ 32 - 1) (Tbl.get 0 t k + 1))) s.dbg.stalls
  { s with dbg := { s.dbg with stalls := c } }

/-- R508, R511: the issue that the limiter withholds in the cycle. -/
def State.withheldNow (s : State) : Nat :=
  (s.tasks.map fun e =>
    let t := e.2
    let ready := t.st = .running && t.fetched.isSome
    if t.isRow then (if ready && s.withheld 0 t then 1 else 0) else (if ready && s.withheld 1 t then 1 else 0)).sum

def State.tickPower (s : State) : State := { s with pow := { s.pow with withheld := s.pow.withheld + s.withheldNow } }

/-- R275: ports of the scratchpads that are free again are forgotten. -/
def State.tickPorts (s : State) : State := { s with spBusy := s.spBusy.filter fun e => s.cycle < e.2 }

/-! ### The tasks in rows -/

/-- The tasks in the contexts of a row, the primary first (R358). -/
def State.onRow (s : State) (k : Nat) : List Gtid := (s.rowTask (k / 8) (k % 8) false).toList ++ (s.rowTask (k / 8) (k % 8) true).toList

/-- The row tasks in their rows. -/
def State.inRows (s : State) : List Gtid := ((List.range 32).map s.onRow).flatten

/-- The same, each with its cores: core by core along the stations of each die (R369), the primary first. -/
def State.rowCores (s : State) : List (Gtid × Nat) :=
  ((List.range 32).map fun k =>
    let gs := s.onRow k
    if gs.isEmpty then [] else ((List.range 8).map fun c => gs.map fun g => (g, c)).flatten).flatten

/-- The task in the other context of the row too, the primary first. -/
def State.bothOf (s : State) (g : Gtid) : List Gtid :=
  if (s.task g).isFiller then (s.partner (s.task g)).toList ++ [g] else g :: (s.partner (s.task g)).toList

/-! ### The engines that come before the M slot at a port of the scratchpad (R276) -/

def opt (b : Bool) (i : Instr) : List Instr := if b then [i] else []

/-- Starts and steps of MX and QR of a core (R232, R236, R264): an instruction takes its first step in the cycle in which it
starts. -/
def State.mxQrSteps (s : State) (g : Gtid) (c : Nat) : List Instr :=
  let h := s.share g c
  let ring := !h.ring.isEmpty || (h.mxq ++ (h.mxLoad.map (·.cmd)).toList).any fun x => x.op = .mring
  opt (!h.mxq.isEmpty) (.mxStart g c) ++ opt (1 < h.mxq.length) (.mxStart g c) ++ opt (!h.qrq.isEmpty) (.qrStart g c) ++
    opt (!h.mxq.isEmpty || h.mxLoad.isSome || h.mxComp.isSome || !h.mxFin.isEmpty || !h.mxFly.isEmpty) (.mxRetire g c) ++
    opt ring (.mringBeat g c) ++ opt (!h.qrq.isEmpty || h.qrRun.isSome || !h.qrFly.isEmpty) (.qrRetire g c)

/-- The state after an event. -/
def State.after (s : State) (i : Instr) : State :=
  match exec i s with
  | .next t => t
  | _ => s

/-- The core after MX and QR have worked in the coming cycle. -/
def State.enginesFirst (s : State) (g : Gtid) (c : Nat) : State :=
  ((s.bothOf g).map fun x => s.mxQrSteps x c).flatten.foldl State.after s

/-- R276, R277, R349: does the M syllable of an entry lose a port of the scratchpad in the coming cycle? -/
noncomputable def State.mLoses (s : State) (g : Gtid) (c : Nat) (e : WaveEntry) : Bool :=
  if e.m = 0 then false
  else
    match decode .m .core e.m 0 with
    | .error _ => false
    | .ok i =>
      match i with
      | .lds _ | .sts _ | .ldv _ | .ldvt _ | .stv _ =>
        let s := s.enginesFirst g c
        let it : Item := { unit := .core g c, addr := e.addr, isV := false, isE := false, word := e.m, lit := 0 }
        let s := { s.beginUnit (some (s.task g, s.share g c)) e.carried [] with spClaims := some [] }.takeItem it []
        !s.outsideBank i && (s.after i).portTaken
      | _ => false

/-! ### Holds (R349, R350) -/

/-- A hold: does the task wait under it (R349), is it yielding (R350), is it for a port of the scratchpad (R277)? -/
structure Hold where
  waits : Bool
  yields : Bool
  port : Bool := false
  deriving DecidableEq, Repr

/-- A hold under which the task is running (R349). -/
def stallHold : Hold := { waits := false, yields := false }

/-- R307, R541: the hold of a syllable for an engine that has 8 already. -/
def Share.fullHold (h : Share) (e : Nat) : List Hold :=
  match h.cmds e with
  | [] => []
  | c :: r => if r.length + 1 < 8 then [] else [{ waits := !h.canPop e c.f, yields := false }]

/-- R292: the hold of a copy while the issue buffer is full. -/
def Share.bufferHold (h : Share) : List Hold := if h.copies.length < 1024 then [] else [stallHold]

/-- R349: the holds of an E syllable on a core, its operands read as the bundle will read them. -/
def State.engineHolds (s : State) (g : Gtid) (c : Nat) (i : Instr) : List Hold :=
  let h := s.share g c
  let wait (ok yld : Bool) : List Hold := if ok then [] else [{ waits := true, yields := yld }]
  match i with
  | .vtok f => wait (h.canPop 0 f) false ++ (if h.pushWaits 0 then [stallHold] else [])
  | .cpw f => wait (h.cpwHolds (f.mod.toNat % 8) (s.opA f)) (f.mod.getLsbD 3) ++ h.fullHold 3
  | .waitb f => wait (h.waitbHolds (f.mod.toNat % 64)) (f.mod.getLsbD 6) ++ h.fullHold 3
  | .xwait f => wait (s.xwaitHolds (s.opB f) (s.opA f)) (f.mod.getLsbD 1) ++ h.fullHold 4
  | .xwaitDrain f => wait (s.portDrained g c) (f.mod.getLsbD 1) ++ h.fullHold 4
  | .cpq _ => h.fullHold 3
  | .arrv _ => h.fullHold 3
  | .cp _ => h.bufferHold ++ h.fullHold 3
  | .cpg _ => h.bufferHold ++ h.fullHold 3
  | .cps _ => h.bufferHold ++ h.fullHold 3
  | .cpd _ => h.bufferHold ++ h.fullHold 3
  | .cpf _ => h.bufferHold ++ h.fullHold 3
  | .mldb _ => h.fullHold 1
  | .mswap _ => h.fullHold 1
  | .mring _ => h.fullHold 1
  | .mma _ => h.fullHold 1
  | .mmas _ => h.fullHold 1
  | .gmma _ => h.fullHold 1
  | .mzero _ => h.fullHold 1
  | .mdrain _ => h.fullHold 1
  | .mstream _ => h.fullHold 1
  | .qcfg _ => h.fullHold 2
  | .qtri _ => h.fullHold 2
  | .qapply _ => h.fullHold 2
  | .qang _ => h.fullHold 2
  | .qrot _ => h.fullHold 2
  | .qsolve _ => h.fullHold 2
  | .qgain _ => h.fullHold 2
  | .qldt _ => h.fullHold 2
  | .qstt _ => h.fullHold 2
  | .xput _ => h.fullHold 4
  | .xget _ => h.fullHold 4
  | .xamo _ => h.fullHold 4
  | .xsend _ => h.fullHold 4
  | .xtrig _ => h.fullHold 4
  | .xcntRead _ => h.fullHold 4
  | .xcntSet _ => h.fullHold 4
  | .xcntAdd _ => h.fullHold 4
  | .xcntErr _ => h.fullHold 4
  | .xtile _ => h.fullHold 4
  | .xtileFire _ => h.fullHold 4
  | .xrt _ => h.fullHold 4
  | .xflush _ => h.fullHold 4
  | _ => []

/-- R277, R306, R349: the holds of the bundle of an entry on a core. An E syllable that faults or whose guard is false holds
nothing; a V syllable waits for a push of the vector unit that has no room; an M syllable waits for its port. -/
noncomputable def State.coreHolds (s : State) (g : Gtid) (c : Nat) (e : WaveEntry) : List Hold :=
  let port : List Hold := if s.mLoses g c e then [{ stallHold with port := true }] else []
  let s := { s with cur := .core g c, curE := true, snap := none, carried := e.carried }
  let h := s.share g c
  let v : List Hold := if majorOf e.m ≠ 0x35 && e.v ≠ 0 && h.pushWaits 0 then [stallHold] else []
  port ++ v ++ (if e.e = 0 || !wordGuard h.p e.e then []
    else match decode .e .core e.e 0 with
      | .ok i => s.engineHolds g c i
      | .error _ => [])

/-- R349: the holds that the cores of a row raise for the next cycle. -/
noncomputable def State.rowHolds (s : State) (g : Gtid) : List Hold :=
  let t := s.task g
  ((List.range 8).map fun c =>
    match t.wave.find? fun e => e.idx = (s.share g c).nextIdx && !e.done.getLsbD c && t.rowCycle + 1 = e.issued + 2 + 2 * c with
    | none => []
    | some e => s.coreHolds g c e).flatten

/-- Is a row task under way: bound in a row and past its start tick, held by nothing but its own waits? -/
def State.rowUnderWay (s : State) (t : Task) : Bool :=
  t.isRow && (t.st = .running || t.st = .waiting) && t.startTick ≤ s.dcc && (match t.place with | .row .. => true | _ => false)

/-- A task under the holds raised for it: waiting or running (R349); none is a release. -/
def Task.underHolds (t : Task) (hs : List Hold) : Task :=
  let t := ((t.release .hold).release .stall).release .port
  if hs.isEmpty then t
  else if hs.any (·.waits) then t.hold .hold
  else if hs.all (·.port) then t.hold .port
  else t.hold .stall

/-- Is a row task held by the row's own holds? -/
def Task.rowHeld (t : Task) : Bool := t.causes.any fun c => c = .hold || c = .stall || c = .port

/-- R343, R349, R350, R354, R359, R361: the next cycle of a row task. A catch-up cycle runs first; the row cycle then advances
unless a hold is raised, and yielding frozen cycles are counted. The holds of a task that is frozen (R43), or whose row the
filler has, are followed until they are satisfied. -/
noncomputable def State.rowCycleOf (s : State) (g : Gtid) : State :=
  let t := s.task g
  let inRow : Bool := match t.place with | .row .. => true | _ => false
  let follow (s : State) : State := if inRow && t.rowHeld then s.modTask g fun t => t.underHolds (s.rowHolds g) else s
  if !s.rowUnderWay t then (follow s).modTask g fun t => { t with yielding := 0 }
  else if !s.holdsRow t then follow s
  else if t.catchUp ≠ 0 then s.modTask g fun t => { t with yielding := 0 }
  else
    let hs := s.rowHolds g
    s.modTask g fun t =>
      if hs.isEmpty then { t.underHolds [] with rowCycle := t.rowCycle + 1, yielding := 0, waitCycles := 0 }
      else { t.underHolds hs with yielding := if hs.all (·.yields) then t.yielding + 1 else 0, waitCycles := t.waitCycles + 1 }

/-! ### The steps of a cycle -/

def gtidsOf (l : List (Nat × Task)) : List Gtid := l.map fun e => BitVec.ofNat 64 e.1

/-- R318: of two ready threads, does the first issue? -/
def issuesFirst (a b : Nat × Task) : Bool :=
  let slot (t : Task) : Nat := match t.place with | .bc _ _ k => k | _ => 0
  a.2.lastIssue < b.2.lastIssue || (a.2.lastIssue = b.2.lastIssue && slot a.2 < slot b.2)

/-- R318: the thread a BC issues. -/
def State.bcChoice (s : State) (die bc : Nat) : Option Gtid :=
  ((s.tasks.filter fun e =>
    (match e.2.place with | .bc d b _ => d = die && b = bc | _ => false) && s.bcReady (BitVec.ofNat 64 e.1)).foldl
      (fun b x => match b with
        | none => some x
        | some y => if issuesFirst x y then some x else some y) none).map fun e => BitVec.ofNat 64 e.1

/-- Steps of the copy engine and of the port of a core (R291 to R293, R541). -/
def State.copySteps (s : State) (g : Gtid) (c : Nat) : List Instr :=
  let h := s.share g c
  ((List.range 8).filter fun ch => (h.choose s.dcc ch).isSome).map (fun _ => Instr.copyDue g c) ++
    (if h.copies.isEmpty then [] else List.replicate 4 (.copyBeat g c)) ++
    h.copies.map (fun _ => Instr.copyComplete g c) ++ opt (!h.xeq.isEmpty) (.xeStart g c)

/-- R306: pushes that come due in the cycle, or have: a token that an instruction pushes as it retires is there in the next
cycle. -/
def State.pushSteps (s : State) (g : Gtid) (c : Nat) : List Instr :=
  let h := s.share g c
  let due (e : Engine) : Nat :=
    (h.duesOf (engineNo e)).length + (if e ≠ .mx && e ≠ .qr && (s.dueEntry g c).isSome then 1 else 0)
  (([Engine.v, .mx, .qr, .cp, .xe].map fun e => List.replicate (due e) (Instr.tokenPush g c e))).flatten

/-- Does a task have a reply with a fault? -/
def State.badReply (s : State) (g : Gtid) : Bool :=
  s.replies.any fun r => r.gtid = g &&
    match r.res with
    | .val _ => false
    | _ => true

/-- What a reply brings to its task. -/
def State.replyStep (s : State) (r : Reply) : Instr := if (s.task r.gtid).isRow then .waitSatisfied r.gtid else .bcReply r.gtid

/-- Steps of tasks and of the engines: issue, the cores, fetch, copies, tokens, the homes; `moved` names the rows whose cycle
advanced (R343). MX and QR come first, then the M slot, then the copy engine (R276). -/
def State.workSteps (s : State) (moved : List Gtid) : List Instr :=
  let gs := gtidsOf s.tasks
  let cores := s.rowCores
  let bcs := (List.range 64).filterMap fun k => s.bcChoice (k / 16) (k % 16)
  s.combinations.map (fun x => .faddCombine x.1 x.2.1 x.2.2) ++ (cores.map fun x => s.mxQrSteps x.1 x.2).flatten ++
    (moved.filter fun g => s.spineReady g || !(s.task g).redo.isEmpty).map .spineIssue ++
    (cores.filter fun x => (s.dueEntry x.1 x.2).isSome).map (fun x => .coreExecute x.1 x.2) ++
    bcs.map .bcIssue ++ (gs.filter fun g => s.fetchReady g || moved.contains g || bcs.contains g).map .bundleFetch ++
    (cores.map fun x => s.copySteps x.1 x.2).flatten ++
    (cores.filter fun x => (s.share x.1 x.2).waitingRow.isSome).map (fun x => .collatorRowAccept x.1 x.2) ++
    (cores.map fun x => s.pushSteps x.1 x.2).flatten ++
    (s.queues.filter fun q => !q.2.isEmpty).map (fun q => .homeAccess q.1) ++
    s.prefetchDue.map fun w => .pageWalk w.tlb w.asid w.root w.va

/-- R43: events that meet at a task take effect in the order fault, watchdog expiry, debug halt, pre-emption, wait
satisfaction. -/
def State.eventSteps (s : State) : List Instr :=
  let gs := gtidsOf s.tasks
  let bad (r : Reply) : Bool := s.badReply r.gtid
  (s.replies.filter bad).map s.replyStep ++
    (gs.filter fun g => (s.task g).wdExpired).map .watchdogExpiry ++
    opt (s.debugCmd 1) .halt ++ (gs.filter s.broken).map .breakpointHalt ++
    (s.gangs.filterMap fun w => if w.gang.st = .saving then some (.preempt w.launch.serial w.gi) else none) ++
    (s.replies.filter fun r => !bad r).map s.replyStep ++
    (gs.filter fun g => (s.task g).retry.isSome).map .waitSatisfied ++
    s.syscs.map fun q => .syscReply q.gtid

/-- Steps that end or move tasks: migrations, the stores still pending, retirement. -/
def State.leaveSteps (s : State) : List Instr :=
  let gs := gtidsOf s.tasks
  (gs.filter s.migrateReady).map .migrationSend ++
    (gs.filter fun g => match (s.task g).place with | .inbox .. => true | _ => false).map .migrationArrive ++
    (s.l1d.filter fun e => !e.2.pend.isEmpty).map (fun e => .registration (e.1 / 2 ^ 48) (e.1 % 2 ^ 48)) ++
    (gs.filter fun g => s.retireReady g || s.endReady g).map .taskRetire

/-- Steps of scheduling (R449 to R464). -/
def State.schedSteps (s : State) : List Instr :=
  let dies := List.range 4
  opt s.nextRing.isSome .launchAccept ++
    (s.sched.launches.filterMap fun e => e.2.bind fun l => if l.cls = 2 && !l.aged then some (.launchAgeing e.1) else none) ++
    (match s.nextGang with
     | none => []
     | some w => [if w.gang.st = .out then .restore w.launch.serial w.gi else .gangBind w.launch.serial w.gi]) ++
    (s.gangs.filterMap fun w =>
      if w.gang.st = .bound || (w.gang.st = .started && w.gang.tasks.any fun g => (s.task g).st = .bound) then
        some (.gangStart w.launch.serial w.gi)
      else none) ++
    (dies.filter fun d => !(Tbl.get [] s.sched.spawns d).isEmpty).map .spawnBind ++
    ((List.range 32).filter fun k => s.switchReady (k / 8) (k % 8)).map (fun k => .fillerSwitch (k / 8) (k % 8)) ++
    ((List.range 32).filter fun k => s.returnReady (k / 8) (k % 8)).map (fun k => .fillerReturn (k / 8) (k % 8)) ++
    s.sched.completions.map (fun c => .completionRecordPost c.ring) ++
    (s.faultPend.map fun f => .faultRecordPost f.die) ++ (s.faultOut.map fun f => .faultService f.die) ++
    (dies.filter fun d => !(Tbl.get [] s.sched.events d).isEmpty).map .eventRecordPost

/-- Steps of a die's memory side, its Collator and its exchange engine. -/
def State.dieSteps (s : State) (scrub : Bool) (d : Nat) : List Instr :=
  let busy (r : Nat) : Bool := !(s.reg r).getLsbD 63
  let sl : List Instr :=
    if busy (dieReg d 0 0) then
      ((s.slLeft d).map fun pa =>
        if s.slCmd pa 1 then .sliceWritebackInvalidate pa else if s.slCmd pa 2 then .sliceWriteback pa else .sliceDropHeld pa) ++
        [.sliceMaintDone d]
    else []
  let tl : List Instr :=
    if busy (dieReg d 0 0x8000) then
      [if s.tlbCmd d 1 then .tlbInvalidateAll d else if s.tlbCmd d 2 then .tlbInvalidateAsid d else .tlbInvalidateRange d,
       .tlbInvalidateDone d]
    else []
  let n := (s.reg (dieReg d 0 0x38)).toNat
  let c := s.collOf d
  sl ++ tl ++ opt (scrub && n ≠ 0 && s.dcc.toNat % n = 0) (.scrubRead d) ++
    opt (s.recordDue d) (.collatorRecordWrite d) ++ opt (c.active.isSome || !c.saved.isEmpty) (.routeEnd d) ++
    opt (!c.saved.isEmpty) (.routeResume d) ++ opt (busy (rcommitReg d)) (.residencyCommit d) ++
    opt (busy (dieReg d 3 0x18)) (.pprRepair d) ++
    (((s.xchOf d).ops.filter XOp.finished).map fun _ => Instr.putComplete d) ++
    (((s.xchOf d).permits.filter fun e => e.2.any fun p => p.since.isSome && !p.closed).map fun e => Instr.permitWindowExpiry d e.1) ++
    opt ((s.pressOf d).closes s.dcc) (.pressFrameClose d)

/-- Steps of the fabric (R525, R529, R533). -/
def State.fabricSteps (s : State) : List Instr :=
  ((s.fab.rx.map (·.1)).filter s.ackDue).map .ackSend ++
    (s.fab.tx.map fun e =>
      (e.2.unacked.filter fun x => s.e2eto ≤ s.dcc - x.sentAt).map fun x => Instr.e2eRetransmit e.1 x.msg.seq).flatten ++
    ((List.range 32).filter s.replayDue).map .linkReplay ++
    (s.fab.held.filter isReleaseWrite).map .releaseWritePerform

/-- Steps of the loader and of debug (R493 to R497, R511 to R519); `moved` where the DCC has moved in the cycle. -/
def State.masterSteps (s : State) (moved : Bool) : List Instr :=
  (match s.ldCmd with
   | some 1 => [.load]
   | some 2 => [.retry]
   | some 3 => [.commit]
   | some 4 => [.abort]
   | _ => []) ++
    (match s.ldr.session with
     | none => []
     | some x =>
       ((List.range x.shards.length).zip x.shards).filterMap fun y =>
         if y.2.st ≠ 0 then none
         else if y.2.got = y.2.len then some (.shardHashed y.1)
         else if x.dead ≤ s.dcc then some (.shardDeadline y.1)
         else none) ++
    opt (s.debugCmd 2) .resume ++ opt (s.debugCmd 3) .step ++ opt (s.debugCmd 4) .read ++
    opt (s.debugCmd 5) .write ++
    (if moved then
      ((gtidsOf s.tasks).filter s.sampleDue).map .pcSample ++
        opt (s.telemetryEvery ≠ 0 && s.dcc.toNat % max 1 s.telemetryEvery = 0) (.telemetryRecord (Config.freeWord s.free)) ++
        (if s.dcc.toNat % 1048576 = 0 then (List.range 6).map .gridStore else [])
     else [])

/-- A cycle passes, and the steps of the next one stand on the agenda. -/
noncomputable def State.tick (s : State) : State :=
  let old := s.dcc
  let s := s.tickClock
  let s := ((((s.tickWatchdogs (s.dcc - old)).tickStalls).tickPower).tickPorts).tickNet
  let before := s
  let s := s.inRows.foldl State.rowCycleOf s
  let moved := s.inRows.filter fun g => (before.task g).rowCycle < (s.task g).rowCycle
  let ticked : Bool := s.dcc ≠ old
  let steps := s.workSteps moved ++ s.eventSteps ++ s.leaveSteps ++ s.schedSteps ++
    ((List.range 4).map (s.dieSteps ticked)).flatten ++ s.fabricSteps ++ s.masterSteps ticked
  { s with agenda := steps, free := s.free + 1 }

end Sys2Proof.Machine
end

