-- ==== Sys2Proof/Machine/Run.lean ====
section
/-! DEFINITION. What one step does: a syllable of the bundle that a unit executes, an event that stands next, or a cycle that
passes (R77, R86, R322, R343; log entries 1 and 2). -/

namespace Sys2Proof.Machine

/-- The syllable at the head of those still to run: it decodes or raises the fault of its fate (R86), and has its meaning;
with the last one the bundle ends. -/
noncomputable def State.runItem (s : State) (it : Item) (rest : List Item) : Out :=
  let s := s.takeItem it rest
  match s.itemInstr it with
  | .error f => .next ((s.raiseCode (eUnitOf it.word) (fateCode f)).endBundle it none)
  | .ok i =>
    if s.skipItem it then .next (s.endBundle it (some i))
    else if s.outsideBank i then .next ((s.raiseCode (eUnitOf it.word) cFILLREG).endBundle it (some i))
    else match exec i s with
      | .next s' => .next (s'.endBundle it (some i))
      | .fault r => .fault r
      | .refused r => .refused r

/-- One step of the machine. -/
noncomputable def State.runStep (s : State) : Out :=
  match s.pending with
  | it :: rest => s.runItem it rest
  | [] =>
    match s.agenda with
    | i :: rest => exec i { s with agenda := rest }
    | [] => .next s.tick

/-! ### Placing one instruction -/

/-- The identifier of the task that runs a placed instruction: serial 1, index 0 (R20). -/
def placedGtid : Gtid := 0x1000000

/-- The launch of that task. -/
def placedLaunch : Launch :=
  { serial := 1, cls := 1, filler := false, asid := 0, root := 0, quota := 0, wdog := 0xFFFFFFFF, after := [], done := none, args := [],
    scratch := 0, scratchLen := 0, spFirst := 0, spCount := 64, ring := 0, slot := 0, nextIndex := 1, queuedAt := 0,
    gangs := [{ decls := [], st := .started, tasks := [placedGtid], ran := true }] }

/-- The task: running on row 0 of die 0, or in slot 0 of its BC 0. -/
def placedTask (bc : Bool) : Task :=
  { st := .running, isRow := !bc, place := if bc then .bc 0 0 0 else .row 0 0 false, launch := 1, wdLimit := 0xFFFFFFFF,
    vshape := if bc then vshapeBc else vshapeRow, bcMode := 16 }

/-- A machine in which the task exists and one syllable of its bundle is the next to run, in the position its major
belongs to (R76), as the start of its bundle leaves it (R77, R346). -/
def State.placeSyllable (s : State) (w lit : Word) : State :=
  let pu := tablePos (bits w 57 7).toNat (bits w 25 8).toNat
  let g := placedGtid
  let s := { s with agenda := [], sched := { s.sched with launches := Tbl.set none s.sched.launches 1 (some placedLaunch) } }
  let e : WaveEntry := { idx := 0, addr := 0, m := 0, v := 0, e := 0, issued := 0, carried := [], csr := [], done := 0 }
  let it (u : Agent) : Item := { unit := u, addr := 0, isV := pu.1 = .v, isE := pu.1 = .e, word := w, lit := lit }
  match pu.1 with
  | .s => (s.setTask g (placedTask true)).beginUnit (some (placedTask true, {})) [] [it (.bc g)]
  | .x => (s.setTask g { placedTask false with wave := [e], bundleIdx := 1 }).beginUnit none [] [it (.spine g)]
  | _ =>
    let t := { placedTask false with wave := [e], bundleIdx := 1 }
    (s.setTask g t).beginUnit (some (t, {})) [] [it (.core g 0)]

end Sys2Proof.Machine
end

