-- ==== Sys2Proof/Machine/Step.lean ====
section
/-! DEFINITION. The step of the machine, and the placing of one instruction where the step finds it. -/

namespace Sys2Proof.Machine

/-- One step. -/
noncomputable def step (s : State) : Host.Outcome State Fault Refusal := s.runStep

/-- The machine with one instruction as the next to run: bits 63 to 0 are its syllable, bits 127 to 64 its literal
position (R73). -/
def State.withFetchWord (s : State) (_nbits w : Nat) : State :=
  s.placeSyllable (BitVec.ofNat 64 w) (BitVec.ofNat 64 (w / 2 ^ 64))

end Sys2Proof.Machine
end

