-- ==== Sys2Proof/Safety.lean ====
section
/-! DEFINITION. The terms the statements use: what a unit's registers hold, what a syllable leaves as it was, the bytes a
row sees, and the forms that every step keeps. -/

namespace Sys2Proof

open Sys2Proof.Machine

/-! ### Guards and registers -/

/-- The guard of a syllable (R60, R61); none for NOP and for a step that is no syllable. -/
def Instr.guard? (i : Instr) : Option Guard :=
  match i.enc with
  | none => none
  | some (.a _ _ _ f) => some f.g
  | some (.i _ _ _ f) => some f.g
  | some (.b _ _ f) => some f.g
  | some (.m _ _ f) => some f.g
  | some (.v _ _ f) => some f.g
  | some (.e _ _ f) => some f.g
  | some (.l _ _ _ f) => some f.g

/-- The context of the task whose syllable runs, as it is now. -/
def curTask (s : State) : Task := s.task s.curGtid

/-- The share whose syllable runs, as it is now. -/
def curShare (s : State) : Share := s.share s.curGtid s.curCore

/-- What integer register `n` of the executing unit holds now: s or x of the task, a of the core (R26, R109, R110). -/
def liveInt (s : State) (n : BitVec 6) : Word :=
  if s.onCore then Tbl.get 0 (curShare s).a n.toNat else Tbl.get 0 (curTask s).r n.toNat

/-- What predicate `n` of the executing unit holds now; p0 is 1 (R27). -/
def livePred (s : State) (n : Nat) : Bool := ((if s.onCore then (curShare s).p else (curTask s).p) ||| 1).getLsbD n

/-- The fmode of the executing context now (R35). -/
def liveFmode (s : State) : Word := if s.onCore then (curShare s).fmode else (curTask s).fmode

/-- The vector registers and masks of the executing context now (R182). -/
def liveVec (s : State) : VecFile := if s.onCore then (curShare s).vec else (curTask s).vec

/-- R77: the V syllable of a thread's bundle has written register `n`, and the S syllable that runs now leaves it alone. -/
def keptByV (s : State) (n : Nat) : Bool := s.onBc && !s.curV && s.vDests.contains n

/-! ### Frames -/

/-- Two states agree but for what `em` takes over from the first (tasks and shares among it), for the executing task but for
what `et` takes over, and for the executing share but for what `es` takes over; every other task and share is the same. -/
def unitFrame (em : State → State → State) (et : Task → Task → Task) (es : Share → Share → Share) (s t : State) : Prop :=
  em s t = s ∧ (∀ g, g ≠ s.curGtid → t.task g = s.task g) ∧
    (∀ g c, shareKey g c ≠ shareKey s.curGtid s.curCore → t.share g c = s.share g c) ∧
    et (curTask s) (t.task s.curGtid) = curTask s ∧ es (curShare s) (t.share s.curGtid s.curCore) = curShare s

/-- Only integer register `d` of the executing unit may differ (and the model's note of what the V syllable wrote). -/
def onlyInt (s t : State) (d : BitVec 6) : Prop :=
  unitFrame (fun s t => { t with tasks := s.tasks, shares := s.shares, vDests := s.vDests })
    (fun a b => if s.onCore then b else { b with r := a.r }) (fun a b => if s.onCore then { b with a := a.a } else b) s t ∧
  ∀ n, n ≠ d → liveInt t n = liveInt s n

/-- Only predicate `d` of the executing unit may differ. -/
def onlyPred (s t : State) (d : BitVec 6) : Prop :=
  unitFrame (fun s t => { t with tasks := s.tasks, shares := s.shares })
    (fun a b => if s.onCore then b else { b with p := a.p }) (fun a b => if s.onCore then { b with p := a.p } else b) s t ∧
  ∀ n, n < 32 → n ≠ d.toNat → livePred t n = livePred s n

/-- Only integer register `d` and the sticky flags of the executing context may differ (R174). -/
def onlyIntFlags (s t : State) (d : BitVec 6) : Prop :=
  unitFrame (fun s t => { t with tasks := s.tasks, shares := s.shares, vDests := s.vDests, flagAcc := s.flagAcc })
    (fun a b => if s.onCore then b else { b with r := a.r, fmode := a.fmode })
    (fun a b => if s.onCore then { b with a := a.a, fmode := a.fmode } else b) s t ∧
  ∀ n, n ≠ d → liveInt t n = liveInt s n

/-- Only the executing task may differ, and there only what `et` takes over. -/
def onlyTask (et : Task → Task → Task) (s t : State) : Prop :=
  unitFrame (fun s t => { t with tasks := s.tasks }) et (fun _ b => b) s t

/-- A syllable with guard `g` writes `v` to integer register `d`, and changes nothing else: it answers a next state whenever
its guard lets it execute (R61); on a binning core the V syllable's result prevails (R77). -/
def writesInt (i : Instr) (g : Guard) (d : BitVec 6) (v : State → Word) : Prop :=
  ∀ s : State, s.guardTrue g = true →
    ∃ t, exec i s = .next t ∧ liveInt t d = (if keptByV s d.toNat then liveInt s d else v s) ∧ onlyInt s t d

/-! ### Steps -/

/-- The step answers a next state. -/
def steps (s : State) : Prop := ∃ t, step s = .next t

/-- Memory and the full/empty tags are in their canonical form: equal memories are equal lists. -/
def canonicalMem (s : State) : Prop := Memory.wf s.mem = true ∧ Tbl.wf false s.tags = true

end Sys2Proof
end

