-- ==== Sys2Proof/Certificates/Slice0/Obligations.lean ====
section
/-! DEFINITION. The statements for the provers. Each definition `Obligations.X` is one statement; what stands before them are the
functions and lists they are written with: the results the rules give, in the terms of the rules. -/

open Sys2Proof Sys2Proof.Machine

/-! ### Integer, compare and predicate instructions (R109 to R119) -/

namespace Sys2Proof

/-- The count B[5:0] of a shift (R112). -/
def specCount (b : Word) : Nat := b.toNat % 64

/-- R113: the quotient truncated toward zero; by zero, all ones. -/
def specDiv (a b : Word) : Word := if b = 0 then BitVec.allOnes 64 else BitVec.ofInt 64 (a.toInt.tdiv b.toInt)

/-- R113: the remainder with the sign of the dividend; by zero, the dividend. -/
def specRem (a b : Word) : Word := if b = 0 then a else BitVec.ofInt 64 (a.toInt.tmod b.toInt)

/-- R112, CLZ: 63 less the place of the highest one bit; 64 for zero. -/
def specClz (a : Word) : Word := if a = 0 then 64 else BitVec.ofNat 64 (63 - a.toNat.log2)

/-- R112, POPC: the number of one bits. -/
def specPopc (a : Word) : Word := BitVec.ofNat 64 ((List.range 64).countP a.getLsbD)

/-- The bits SEXT and ZEXT keep: 8, 16 or 32 (R112). -/
def specWidth (f : FmtA) : Nat := 8 * 2 ^ (f.mod.extractLsb' 0 2).toNat

/-- R112, R113: the result of an instruction of two registers, from the predicates and the operands A and B. -/
noncomputable def registerForms : List ((FmtA → Instr) × (FmtA → (Nat → Bool) → Word → Word → Word)) :=
  [(.add, fun _ _ a b => BitVec.ofNat 64 (a.toNat + b.toNat)),
   (.mAdd, fun _ _ a b => BitVec.ofNat 64 (a.toNat + b.toNat)),
   (.sub, fun _ _ a b => BitVec.ofInt 64 (a.toInt - b.toInt)),
   (.mSub, fun _ _ a b => BitVec.ofInt 64 (a.toInt - b.toInt)),
   (.mul, fun _ _ a b => BitVec.ofNat 64 (a.toNat * b.toNat)),
   (.mMul, fun _ _ a b => BitVec.ofNat 64 (a.toNat * b.toNat)),
   (.mulh, fun _ _ a b => BitVec.ofInt 64 (a.toInt * b.toInt / 2 ^ 64)),
   (.mMulh, fun _ _ a b => BitVec.ofInt 64 (a.toInt * b.toInt / 2 ^ 64)),
   (.mulhu, fun _ _ a b => BitVec.ofNat 64 (a.toNat * b.toNat / 2 ^ 64)),
   (.mMulhu, fun _ _ a b => BitVec.ofNat 64 (a.toNat * b.toNat / 2 ^ 64)),
   (.div, fun _ _ a b => specDiv a b),
   (.mDiv, fun _ _ a b => specDiv a b),
   (.divu, fun _ _ a b => if b = 0 then BitVec.allOnes 64 else BitVec.ofNat 64 (a.toNat / b.toNat)),
   (.mDivu, fun _ _ a b => if b = 0 then BitVec.allOnes 64 else BitVec.ofNat 64 (a.toNat / b.toNat)),
   (.rem, fun _ _ a b => specRem a b),
   (.mRem, fun _ _ a b => specRem a b),
   (.remu, fun _ _ a b => if b = 0 then a else BitVec.ofNat 64 (a.toNat % b.toNat)),
   (.mRemu, fun _ _ a b => if b = 0 then a else BitVec.ofNat 64 (a.toNat % b.toNat)),
   (.and, fun _ _ a b => a &&& b),
   (.mAnd, fun _ _ a b => a &&& b),
   (.or, fun _ _ a b => a ||| b),
   (.mOr, fun _ _ a b => a ||| b),
   (.xor, fun _ _ a b => a ^^^ b),
   (.mXor, fun _ _ a b => a ^^^ b),
   (.andn, fun _ _ a b => a &&& ~~~b),
   (.mAndn, fun _ _ a b => a &&& ~~~b),
   (.shl, fun _ _ a b => BitVec.ofNat 64 (a.toNat * 2 ^ specCount b)),
   (.mShl, fun _ _ a b => BitVec.ofNat 64 (a.toNat * 2 ^ specCount b)),
   (.shr, fun _ _ a b => BitVec.ofNat 64 (a.toNat / 2 ^ specCount b)),
   (.mShr, fun _ _ a b => BitVec.ofNat 64 (a.toNat / 2 ^ specCount b)),
   (.sra, fun _ _ a b => BitVec.ofInt 64 (a.toInt / 2 ^ specCount b)),
   (.mSra, fun _ _ a b => BitVec.ofInt 64 (a.toInt / 2 ^ specCount b)),
   (.rot, fun _ _ a b => BitVec.ofNat 64 (a.toNat * 2 ^ specCount b + a.toNat / 2 ^ (64 - specCount b))),
   (.mRot, fun _ _ a b => BitVec.ofNat 64 (a.toNat * 2 ^ specCount b + a.toNat / 2 ^ (64 - specCount b))),
   (.min, fun _ _ a b => if a.toInt ≤ b.toInt then a else b),
   (.mMin, fun _ _ a b => if a.toInt ≤ b.toInt then a else b),
   (.max, fun _ _ a b => if a.toInt ≤ b.toInt then b else a),
   (.mMax, fun _ _ a b => if a.toInt ≤ b.toInt then b else a),
   (.minu, fun _ _ a b => if a.toNat ≤ b.toNat then a else b),
   (.mMinu, fun _ _ a b => if a.toNat ≤ b.toNat then a else b),
   (.maxu, fun _ _ a b => if a.toNat ≤ b.toNat then b else a),
   (.mMaxu, fun _ _ a b => if a.toNat ≤ b.toNat then b else a),
   (.clz, fun _ _ a _ => specClz a),
   (.mClz, fun _ _ a _ => specClz a),
   (.popc, fun _ _ a _ => specPopc a),
   (.mPopc, fun _ _ a _ => specPopc a),
   (.sel, fun f p a b => if p (f.mod.extractLsb' 0 5).toNat then a else b),
   (.mSel, fun f p a b => if p (f.mod.extractLsb' 0 5).toNat then a else b),
   (.mov, fun _ _ a _ => a),
   (.mMov, fun _ _ a _ => a),
   (.sext, fun f _ a _ => BitVec.ofInt 64 (Int.bmod a.toNat (2 ^ specWidth f))),
   (.mSext, fun f _ a _ => BitVec.ofInt 64 (Int.bmod a.toNat (2 ^ specWidth f))),
   (.zext, fun f _ a _ => BitVec.ofNat 64 (a.toNat % 2 ^ specWidth f)),
   (.mZext, fun f _ a _ => BitVec.ofNat 64 (a.toNat % 2 ^ specWidth f))]

/-- R114: the result of an instruction of a register and an immediate, from A, the immediate extended, and what D held. -/
noncomputable def immediateForms : List ((FmtI → Instr) × (Word → Word → Word → Word)) :=
  [(.addImm, fun a b _ => BitVec.ofNat 64 (a.toNat + b.toNat)),
   (.mAddImm, fun a b _ => BitVec.ofNat 64 (a.toNat + b.toNat)),
   (.mulImm, fun a b _ => BitVec.ofNat 64 (a.toNat * b.toNat)),
   (.mMulImm, fun a b _ => BitVec.ofNat 64 (a.toNat * b.toNat)),
   (.andImm, fun a b _ => a &&& b),
   (.mAndImm, fun a b _ => a &&& b),
   (.orImm, fun a b _ => a ||| b),
   (.mOrImm, fun a b _ => a ||| b),
   (.xorImm, fun a b _ => a ^^^ b),
   (.mXorImm, fun a b _ => a ^^^ b),
   (.shlImm, fun a b _ => BitVec.ofNat 64 (a.toNat * 2 ^ specCount b)),
   (.mShlImm, fun a b _ => BitVec.ofNat 64 (a.toNat * 2 ^ specCount b)),
   (.shrImm, fun a b _ => BitVec.ofNat 64 (a.toNat / 2 ^ specCount b)),
   (.mShrImm, fun a b _ => BitVec.ofNat 64 (a.toNat / 2 ^ specCount b)),
   (.sraImm, fun a b _ => BitVec.ofInt 64 (a.toInt / 2 ^ specCount b)),
   (.mSraImm, fun a b _ => BitVec.ofInt 64 (a.toInt / 2 ^ specCount b)),
   (.rotImm, fun a b _ => BitVec.ofNat 64 (a.toNat * 2 ^ specCount b + a.toNat / 2 ^ (64 - specCount b))),
   (.mRotImm, fun a b _ => BitVec.ofNat 64 (a.toNat * 2 ^ specCount b + a.toNat / 2 ^ (64 - specCount b))),
   (.minImm, fun a b _ => if a.toInt ≤ b.toInt then a else b),
   (.mMinImm, fun a b _ => if a.toInt ≤ b.toInt then a else b),
   (.maxImm, fun a b _ => if a.toInt ≤ b.toInt then b else a),
   (.mMaxImm, fun a b _ => if a.toInt ≤ b.toInt then b else a),
   (.minuImm, fun a b _ => if a.toNat ≤ b.toNat then a else b),
   (.mMinuImm, fun a b _ => if a.toNat ≤ b.toNat then a else b),
   (.maxuImm, fun a b _ => if a.toNat ≤ b.toNat then b else a),
   (.mMaxuImm, fun a b _ => if a.toNat ≤ b.toNat then b else a),
   (.movImm, fun _ b _ => b),
   (.mMovImm, fun _ b _ => b),
   (.movh, fun _ b d => BitVec.ofNat 64 (b.toNat % 2 ^ 32 * 2 ^ 32 + d.toNat % 2 ^ 32)),
   (.mMovh, fun _ b d => BitVec.ofNat 64 (b.toNat % 2 ^ 32 * 2 ^ 32 + d.toNat % 2 ^ 32))]

/-- The conditions of R117 as relations of numbers. -/
def condRelation (c : Cond) (a b : Word) : Prop :=
  match c with
  | .eq => a = b
  | .ne => a ≠ b
  | .lt => a.toInt < b.toInt
  | .ge => b.toInt ≤ a.toInt
  | .ltu => a.toNat < b.toNat
  | .geu => b.toNat ≤ a.toNat

/-- R117: the guard, the destination, the condition and the operands of a compare. -/
noncomputable def compareForms : List ((FmtA → Instr) × Cond) :=
  [(.cmpEq, .eq),
   (.cmpNe, .ne),
   (.cmpLt, .lt),
   (.cmpGe, .ge),
   (.cmpLtu, .ltu),
   (.cmpGeu, .geu),
   (.mcmpEq, .eq),
   (.mcmpNe, .ne),
   (.mcmpLt, .lt),
   (.mcmpGe, .ge),
   (.mcmpLtu, .ltu),
   (.mcmpGeu, .geu)]

/-- R117: the compares with an immediate. -/
noncomputable def compareImmForms : List ((FmtI → Instr) × Cond) :=
  [(.cmpiEq, .eq),
   (.cmpiNe, .ne),
   (.cmpiLt, .lt),
   (.cmpiGe, .ge),
   (.cmpiLtu, .ltu),
   (.cmpiGeu, .geu),
   (.mcmpiEq, .eq),
   (.mcmpiNe, .ne),
   (.mcmpiLt, .lt),
   (.mcmpiGe, .ge),
   (.mcmpiLtu, .ltu),
   (.mcmpiGeu, .geu)]

/-- R118: the operation of a predicate instruction. -/
noncomputable def predicateForms : List ((FmtA → Instr) × (Bool → Bool → Bool)) :=
  [(.pand, fun a b => a && b),
   (.mPand, fun a b => a && b),
   (.por, fun a b => a || b),
   (.mPor, fun a b => a || b),
   (.pxor, fun a b => a ^^ b),
   (.mPxor, fun a b => a ^^ b),
   (.pandn, fun a b => a && !b),
   (.mPandn, fun a b => a && !b),
   (.pnot, fun a _ => !a),
   (.mPnot, fun a _ => !a),
   (.pmov, fun a _ => a),
   (.mPmov, fun a _ => a)]

end Sys2Proof

/-! ### Floating point, reads of state, control transfer, CSRs, traps (R120 to R128, R131, R149 to R153, R282, R283) -/

namespace Sys2Proof

/-- The value of register `r` as the float format of a syllable reads it (R120). -/
def floatIn (s : State) (f : FmtA) (r : BitVec 6) : FVal := fDecode (fltFmt f) (s.rdInt r).toNat

/-- R120, R122: the result and the flags of a float instruction whose result is a float: A and B are the registers' values,
rounded as MOD[11:9] or fmode says. -/
def floatForms : List ((FmtA → Instr) × (FmtA → State → FRes)) :=
  [(.fadd, fun f s => fAdd (fltFmt f) (s.fltMode f) (floatIn s f f.sa) (floatIn s f f.sb)),
   (.fsub, fun f s => fAdd (fltFmt f) (s.fltMode f) (floatIn s f f.sa) (floatIn s f f.sb).neg),
   (.fmul, fun f s => fMul (fltFmt f) (s.fltMode f) (floatIn s f f.sa) (floatIn s f f.sb)),
   (.fdiv, fun f s => fDiv (fltFmt f) (s.fltMode f) (floatIn s f f.sa) (floatIn s f f.sb)),
   (.fsqrt, fun f s => fSqrt (fltFmt f) (s.fltMode f) (floatIn s f f.sa)),
   (.fma, fun f s => fFma (fltFmt f) (s.fltMode f) (floatIn s f f.sa) (floatIn s f f.sb) (floatIn s f f.d)),
   (.fmin, fun f s => fMinMax (fltFmt f) false (s.rdInt f.sa).toNat (s.rdInt f.sb).toNat),
   (.fmax, fun f s => fMinMax (fltFmt f) true (s.rdInt f.sa).toNat (s.rdInt f.sb).toNat),
   (.fcvt, fun f s => fConvert (fltFmt f) (s.fltMode f) s.saturates
      (fDecode (floatFmt (f.mod.extractLsb' 5 4).toNat) (s.rdInt f.sa).toNat)),
   (.fcvtf, fun f s => fFromInt (fltFmt f) (s.fltMode f) false (intTypeRead (f.mod.extractLsb' 3 2).toNat (s.rdInt f.sa)))]

/-- The sticky flags of the context gained `w`, and the bundle's collection too (R173, R174). -/
def flagsGained (s t : State) (w : Word) : Prop := liveFmode t = liveFmode s ||| w ∧ t.flagAcc = s.flagAcc ||| w

/-- R67, R131: the effective address as a sum. -/
def specEa (s : State) (f : FmtM) : Word :=
  BitVec.ofInt 64 ((s.rdInt f.base).toNat + (if f.ix then (s.rdInt f.index).toNat * 2 ^ f.scale.toNat else 0) + f.disp.toInt)

/-- R66, R74, R75: bundles are 32 bytes on a row and 16 on a binning core. -/
def specBundle (s : State) : Nat := if s.onBc then 16 else 32

/-- R66: the target at a signed count of bundles from the bundle that executes. -/
def specTarget (s : State) (f : FmtB) : Word := BitVec.ofInt 64 (s.curAddr.toNat + f.off.toInt * specBundle s)

/-- R125: the target a register names: its low bits are ignored. -/
def specRegTarget (s : State) (f : FmtB) : Word :=
  BitVec.ofNat 64 ((s.rdInt f.sa).toNat / specBundle s * specBundle s)

/-- A transfer: the next bundle executed is `w`, and nothing else changes. -/
def jumpsTo (i : Instr) (s : State) (w : Word) : Prop :=
  ∃ t, exec i s = .next t ∧ (curTask t).nextPc = some w ∧ onlyTask (fun a b => { b with nextPc := a.nextPc }) s t

/-- R33, R36, R39, R40, R356: the bits of a CSR of the own context that a write sets (thresh and schcur apart). -/
def ownCsrRw (c : Nat) : Word :=
  if c = 1 then 0x1FF
  else if c = 2 then 0x0FFFFFFF
  else if c = 3 then BitVec.allOnes 64
  else if 0x20 ≤ c ∧ c < 0x30 then
    (if c % 4 = 2 then BitVec.allOnes 64 else if c % 4 = 3 then 1 else 0xFFFFFFFFFFFFFFE0)
  else 0

/-- R149: the value a CSR write gives. -/
def specCsrValue (o : CsrOp) (old v : Word) : Word :=
  match o with
  | .write => v
  | .set => old ||| v
  | .clear => old &&& ~~~v

/-- R11, R36: a CSR of the own context after a write: only RW bits change, and a write of 5, 6 or 7 leaves RM as it is. -/
def specOwnCsr (c : Nat) (old new : Word) : Word :=
  let keepRm : Bool := c = 1 && 5 ≤ new.toNat % 8
  let rw := if keepRm then 0x1F8 else ownCsrRw c
  (old &&& ~~~rw) ||| (new &&& rw)

/-- A context with the CSRs that are written of another. -/
def sameButCsrs (a b : Task) : Task :=
  { b with fmode := a.fmode, vshape := a.vshape, vcarry := a.vcarry, thresh := a.thresh, schcur := a.schcur, loops := a.loops }

/-- R149: the three instructions that write a CSR. -/
def csrWrites : List ((FmtA → Instr) × CsrOp) := [(.csrw, .write), (.csrs, .set), (.csrc, .clear)]

/-- R151: the share on core `c` that bundle `n` reads: as the core stood before the first of the bundles after n - 3 - 2 c that it
has executed, with what engines have since added to the arrival counters; as it is now where there is none. -/
def specPast (h : Share) (n c : Nat) : Share :=
  match h.past.reverse.find? fun p => n < p.idx + 3 + 2 * c with
  | none => h
  | some p =>
    { h with fmode := p.fmode, vshape := p.vshape, qcfg := p.qcfg, cpShape := p.cpShape, cpClip := p.cpClip, cpdpat := p.cpdpat,
             ac := (List.range 64).foldl (fun a i => Tbl.set 0 a i (Tbl.get 0 p.ac i + Tbl.get 0 h.credits i - Tbl.get 0 p.credits i)) p.ac }

/-- R77: the V syllable of a thread's bundle has set vshape, and a CSR write of the bundle gives way to it. -/
def shapeByV (s : State) (f : FmtA) : Prop := f.mod.toNat % 4096 = 2 ∧ s.onBc = true ∧ s.vDests.contains vshapeDest = true

/-- The CSR number of a syllable (R149). -/
def specCsr (f : FmtA) : Nat := f.mod.toNat % 4096

end Sys2Proof

/-! ### Loads, stores, atomics and tagged accesses (R129 to R148, R323, R324, R372, R391 to R395, R413) -/

namespace Sys2Proof

/-- Byte `k` of a word. -/
def byteOf (w : Word) (k : Nat) : Byte := w.extractLsb' (8 * k) 8

/-- The byte at `pa` as a load of context `g` of row `row` sees it (R391): the context's own pending bytes in the L1D first, then an
owned word, then the L1D's copy, then the home. -/
def seenByte (s : State) (row : Nat) (g : Gtid) (pa : Nat) : Byte :=
  let w := s.l1 row pa
  let under : Byte := if w.owned then s.memByte pa else match w.copy with
    | some c => byteOf c (pa % 8)
    | none => s.memByte pa
  match w.pend.find? fun p => p.g = g with
  | some p => if p.mask.getLsbD (pa % 8) then byteOf p.data (pa % 8) else under
  | none => under

/-- The byte at `pa` at its home once the pending bytes that the context has in the row's L1D have performed (R391, R395). -/
def homeByte (s : State) (row : Nat) (g : Gtid) (pa : Nat) : Byte :=
  match (s.l1 row pa).pend.find? fun p => p.g = g with
  | some p => if p.mask.getLsbD (pa % 8) then byteOf p.data (pa % 8) else s.memByte pa
  | none => s.memByte pa

/-- Has the context no pending byte in the word (R391)? -/
def nonePending (s : State) (row : Nat) (g : Gtid) (pa : Nat) : Prop := ∀ p ∈ (s.l1 row pa).pend, p.g ≠ g

/-- The little-endian number of `n` bytes from `pa` on (R6). -/
def bytesFrom (b : Nat → Byte) (pa : Nat) : Nat → Nat
  | 0 => 0
  | n + 1 => (b pa).toNat + 256 * bytesFrom b (pa + 1) n

/-- An access of `n` bytes at `va`, aligned to its size, hits entry `e` of the unit's TLB, which permits it (R413 to R416). -/
def tlbHit (s : State) (a : Access) (va : Word) (n : Nat) (e : TlbEntry) : Prop :=
  ((Tbl.get [] s.tlbs s.memTlb).find? fun e => e.covers (s.task s.curGtid).asid va && canonical va) = some e ∧
    a.permits e.w0 = true ∧ e.w1.getLsbD (groupBit (s.task s.curGtid)) = true ∧ va.toNat % n = 0 ∧
    (n = 1 ∨ n = 2 ∨ n = 4 ∨ n = 8)

/-- The page lies in the device's own HBM (R411, R472). -/
def localHbm (e : TlbEntry) (va : Word) : Prop := pageRemote e.w1 = false ∧ windowOf (e.pa va) = .hbm

/-- Nothing stored has an error, no line is held, and no injection is armed (R383, R385, R387). -/
def noErrors (s : State) : Prop :=
  s.flips = [] ∧ (∀ e ∈ s.lines, e.2.held = false) ∧
    ∀ d, d < 4 → let m := Word.field (s.reg (dieReg d 0 0x80)) 62 2; m ≠ 1 ∧ m ≠ 2

/-- The row's L1D has room for the line of an address: of its 512 lines (R3), fewer are other lines. -/
def l1Room (s : State) (row pa : Nat) : Prop := ((s.l1Lines row).filter (· ≠ pa / 128)).length < 512

/-- The Spine of a row task executes. -/
def onSpine (s : State) (g : Gtid) : Prop := s.cur = .spine g ∧ (s.task g).isRow = true

/-- The row of the executing Spine, 8 × die + row: the L1D it uses (R391). -/
def spineRow (s : State) : Nat := tlbSpine (s.task s.curGtid)

/-- The loads: the bytes each reads, and whether the value is sign-extended (R130). -/
def loadForms : List ((FmtM → Instr) × (FmtM → Nat) × Bool) :=
  [(.ld8, fun _ => 1, false), (.ld8sx, fun _ => 1, true), (.ld16, fun _ => 2, false), (.ld16sx, fun _ => 2, true),
   (.ld32, fun _ => 4, false), (.ld32sx, fun _ => 4, true), (.ld64, fun _ => 8, false),
   (.lda, fun f => if f.flags.getLsbD 2 then 4 else 8, false)]

/-- The plain stores, by bytes (R130). -/
def storeForms : List ((FmtM → Instr) × Nat) := [(.st8, 1), (.st16, 2), (.st32, 4), (.st64, 8)]

/-- A loaded number of `n` bytes as a register takes it (R130). -/
def specExtend (n : Nat) (sx : Bool) (v : Nat) : Word :=
  if sx then BitVec.ofInt 64 (Int.bmod v (2 ^ (8 * n))) else BitVec.ofNat 64 v

/-- What accesses at their homes may change besides memory and tags: the lines, the L1Ds, the counters. -/
def sameButHome (s t : State) : State :=
  { t with lines := s.lines, lruClock := s.lruClock, l1d := s.l1d, regs := s.regs }

/-- R138: the new value of `w` bits at the home, from the old one, the operand and the compare value. -/
def amoForms : List ((FmtM → Instr) × AmoOp × (Nat → Nat → Nat → Nat → Nat)) :=
  let sg (w x : Nat) : Int := Int.bmod x (2 ^ w)
  [(.amoFadd, .fadd, fun w a v _ => (a + v) % 2 ^ w), (.amoSwap, .swap, fun _ _ v _ => v),
   (.amoCas, .cas, fun _ a v c => if a = c then v else a),
   (.amoMin, .min, fun w a v _ => if sg w v < sg w a then v else a), (.amoMax, .max, fun w a v _ => if sg w a < sg w v then v else a),
   (.amoMinu, .minu, fun _ a v _ => Nat.min a v), (.amoMaxu, .maxu, fun _ a v _ => Nat.max a v),
   (.amoAnd, .and, fun _ a v _ => a &&& v), (.amoOr, .or, fun _ a v _ => a ||| v), (.amoXor, .xor, fun _ a v _ => a ^^^ v)]

/-- R140: the bytes of an AMO, and its address. -/
def amoBytes (f : FmtM) : Nat := if f.flags.getLsbD 2 then 4 else 8
def amoAddr (s : State) (f : FmtM) : Word := BitVec.ofInt 64 ((s.rdInt f.base).toNat + f.disp.toInt)

/-- R145: the tagged instructions: the tag each waits for, the tag it leaves, whether it loads or stores. -/
structure TagForm where
  form : FmtM → Instr
  op : TagOp
  needs : Option Bool
  after : Bool
  loads : Bool
  stores : Bool

def tagForms : List TagForm :=
  [⟨.ldfe, .ldfe, some true, false, true, false⟩, ⟨.ldff, .ldff, some true, true, true, false⟩,
   ⟨.stef, .stef, some false, true, false, true⟩, ⟨.stff, .stff, none, true, false, true⟩,
   ⟨.sete, .sete, none, false, false, false⟩, ⟨.setf, .setf, none, true, false, false⟩]

/-- A request stands last in the output of a station of a die, on its way to its home (R369, R471). -/
def sentFrom (s t : State) (die st : Nat) (r : Req) : Prop :=
  r.legs = legsTo die st (paDie r.pa) (homeStation r.pa) ∧ r.back = [] ∧ r.tail = [] ∧
    Tbl.get [] (t.netOf die).out0 st = Tbl.get [] (s.netOf die).out0 st ++ [r] ∧
    (∀ k, k ≠ st → Tbl.get [] (t.netOf die).out0 k = Tbl.get [] (s.netOf die).out0 k) ∧
    (∀ d, d ≠ die → t.netOf d = s.netOf d) ∧
    { t.netOf die with out0 := (s.netOf die).out0 } = s.netOf die

/-- The executing task waits, by a cause, for one part of an access. -/
def awaitsPart (t : State) (c : Cause) (d : MemDest) (n : Nat) (acq : Bool) : Prop :=
  (curTask t).causes.contains c = true ∧
    ∃ m, (curTask t).memOp = some m ∧ m.dest = d ∧ m.parts = [(n, none)] ∧ m.acquire = acq

/-- The Spine's request at a word of a row's own die is sent (R138, R145, R372): from the station of the row, for the executing task,
which waits for its answer; what the context has pending in the line has performed before it, and no other byte changes. -/
def spineAsks (s t : State) (g : Gtid) (pa n : Nat) (op : HomeOp) (c : Cause) (d : MemDest) (acq : Bool) : Prop :=
  (∃ r : Req, sentFrom s t (s.task g).die (4 * (s.task g).rowNo) r ∧ r.org = .task g 0 ∧ r.pa = pa ∧ r.bytes = n ∧ r.op = op) ∧
    awaitsPart t c d n acq ∧ nonePending t (spineRow s) g pa ∧ (t.l1 (spineRow s) pa).owned = false ∧ (t.l1 (spineRow s) pa).copy = none ∧
    t.tags = s.tags ∧ (∀ k, liveInt t k = liveInt s k)

/-- No earlier store of the context is outstanding, and none to a peer has failed (R394, R530). -/
def nothingOutstanding (s : State) (g : Gtid) : Prop :=
  (s.task g).unacked = 0 ∧ (∀ e ∈ (s.task g).remoteOut, e.2 = 0) ∧ (s.task g).remoteFail = none

/-- The access kind of a tagged instruction: LDFE, LDFF and STEF read the word (R414). -/
def tagAccess (e : TagForm) : Access := if e.loads || e.needs = some false then .rmw else .store

end Sys2Proof

/-! ### Threads' requests, homes, fences, pins, caches, translation, errors (R136, R142 to R144, R322 to R341, R371 to R395,
R410 to R421) -/

namespace Sys2Proof

/-- A binning thread executes. -/
def onThread (s : State) (g : Gtid) : Prop := s.cur = .bc g ∧ (s.task g).isRow = false

/-- The executing thread waits for one part of an access, of `n` bytes, for a destination. -/
def awaits (t : State) (d : MemDest) (n : Nat) : Prop :=
  (curTask t).causes.contains .reply = true ∧ ∃ m, (curTask t).memOp = some m ∧ m.dest = d ∧ m.parts = [(n, none)]

/-- One request more stands at the end of the queue of the thread's binning core (R323, R326); memory, tags, the registers of
the thread and every other task are as they were. -/
def requested (s t : State) (g : Gtid) (pa n : Nat) (op : HomeOp) (parks : Bool) : Prop :=
  let k := 16 * (s.task g).die + (s.task g).bcNo
  (∃ r : Req, Tbl.get [] t.bcQueues k = Tbl.get [] s.bcQueues k ++ [r] ∧ r.pa = pa ∧ r.bytes = n ∧ r.op = op ∧ r.org = .task g 0 ∧
    r.parks = parks ∧ r.tail = []) ∧
  (∀ j, j ≠ k → Tbl.get [] t.bcQueues j = Tbl.get [] s.bcQueues j) ∧ { t with bcQueues := s.bcQueues, tasks := s.tasks } = s ∧
  (∀ n, liveInt t n = liveInt s n) ∧ ∀ h, h ≠ g → t.task h = s.task h

/-- The request is sent and the thread goes on, with one request more to be acknowledged (R324). -/
def requestedOnly (s t : State) (g : Gtid) (pa n : Nat) (op : HomeOp) : Prop :=
  requested s t g pa n op false ∧ (curTask t).unacked = (curTask s).unacked + 1 ∧ (curTask t).causes = (curTask s).causes

/-- The reply that a request of a task gets. -/
def replyTo (r : Req) (g : Gtid) (k : Nat) (w : Word) : Reply :=
  { gtid := g, part := k, parks := r.parks, res := .val w, va := r.va, redo := r.redo }

/-- The answer to a request of a task: at once where no network lies between, else a reply that goes back by the way the
request came (R328, R375, R471). -/
def answered (s t : State) (r : Req) (g : Gtid) (k : Nat) (w : Word) : Prop :=
  match r.back with
  | [] => t.replies = s.replies ++ [replyTo r g k w] ∧ t.nets = s.nets
  | l :: ls =>
    t.replies = s.replies ∧
      Tbl.get [] (t.netOf l.die).out1 l.dst = Tbl.get [] (s.netOf l.die).out1 l.dst ++ [{ req := r, res := .val w, legs := l :: ls }] ∧
      (∀ st, st ≠ l.dst → Tbl.get [] (t.netOf l.die).out1 st = Tbl.get [] (s.netOf l.die).out1 st) ∧
      { t.netOf l.die with out1 := (s.netOf l.die).out1 } = s.netOf l.die ∧ ∀ d, d ≠ l.die → t.netOf d = s.netOf d

/-- Only what a home's service changes may differ: memory, tags and the home's own bookkeeping, the queue and the answer. -/
def sameButService (s t : State) : State :=
  { sameButHome s t with mem := s.mem, tags := s.tags, queues := s.queues, replies := s.replies, nets := s.nets, slcLast := s.slcLast,
                         waits := s.waits }

/-- No byte outside `n` bytes from `pa` on differs. -/
def otherBytes (s t : State) (pa n : Nat) : Prop := ∀ a, a < pa ∨ pa + n ≤ a → t.memByte a = s.memByte a

/-- A page of the thread's own tile memory (R330, R472). -/
def ownTile (s : State) (g : Gtid) (e : TlbEntry) (va : Word) : Prop :=
  pageRemote e.w1 = false ∧ windowOf (e.pa va) = .tile ∧ paDie (e.pa va) = (s.task g).die ∧ paBc (e.pa va) = (s.task g).bcNo

/-- A page that a thread reaches on its own device: of local HBM, or of its own tile memory. -/
def near (s : State) (g : Gtid) (e : TlbEntry) (va : Word) : Prop := localHbm e va ∨ ownTile s g e va

/-- The command number of a register with DONE in bit 63, while it runs (R374, R420). -/
def runsCommand (s : State) (r n : Nat) : Prop := (s.reg r).getLsbD 63 = false ∧ (s.reg r).toNat % 4 = n

/-- Only the lines, the use clock and the registers differ. -/
def sameButLines (s t : State) : State := { t with lines := s.lines, lruClock := s.lruClock, regs := s.regs }

/-- A command of slice maintenance serves the line at an address now: its number runs over it, and it is the line's turn (R374). -/
def serves (s : State) (pa n : Nat) : Prop := s.slCmd pa n = true ∧ s.slTurn pa = true

end Sys2Proof

/-! ### The vector unit (R27, R28, R33, R34, R77, R174, R182 to R213) -/

namespace Sys2Proof

/-- R182: register `n` of the executing vector unit as it is now. -/
def liveVreg (s : State) (n : Nat) : BitVec 8192 := Tbl.get 0 (liveVec s).v n

/-- R196, R197: mask register `n` as it is now; m0 selects everything (R27). -/
def liveMask (s : State) (n : Nat) : BitVec 2048 := if n = 0 then BitVec.allOnes 2048 else Tbl.get 0 (liveVec s).m n

/-- R183: element `i`, `w` bits wide, of a register. -/
def elemOf (r : BitVec 8192) (w i : Nat) : Nat := r.toNat / 2 ^ (i * w) % 2 ^ w

/-- R184: the effective format, the elements of the shape, and the width of a format in bits. -/
def vF (s : State) (f : FmtV) : Nat := s.effFmt f.fmt
def vN (s : State) : Nat := shapeRows s.vshapeNow * shapeCols s.vshapeNow
def vW (s : State) (f : FmtV) : Nat := fmtBits (vF s f)

/-- R186: the elements of A, of B, and of C. -/
def vA (s : State) (f : FmtV) (i : Nat) : Nat := s.opAe f (vW s f) i
def vB (s : State) (f : FmtV) (i : Nat) : Nat := s.opBe f (vW s f) i
def vC (s : State) (f : FmtV) (i : Nat) : Nat := s.opCe f (vW s f) i

/-- The register VD names (R62). -/
def vD (f : FmtV) : Nat := f.vd.toNat + (if f.xt.getLsbD 3 then 64 else 0)

/-- R185: the position is selected by the write mask. -/
def vSel (s : State) (f : FmtV) (i : Nat) : Bool := (s.rdMask f.mask.toNat).getLsbD i

/-- R184: the shape is valid, and registers of these formats hold all its elements. -/
def vReady (s : State) (fmts : List Nat) : Prop :=
  shapeValid s.vshapeNow s.regBytes = true ∧ ∀ x ∈ fmts, vN s * fmtBits x ≤ 8 * s.regBytes

/-- Only vector register `d` and the sticky flags of the executing context may differ. -/
def onlyVec (s t : State) (d : Nat) : Prop :=
  unitFrame (fun s t => { t with tasks := s.tasks, shares := s.shares, vDests := s.vDests, flagAcc := s.flagAcc })
    (fun a b => if s.onCore then b else { b with vec := a.vec, fmode := a.fmode })
    (fun a b => if s.onCore then { b with vec := a.vec, fmode := a.fmode } else b) s t ∧
  (∀ n, n ≠ d → liveVreg t n = liveVreg s n) ∧ (liveVec t).m = (liveVec s).m

/-- Only vector registers `d` and `d + 1` and the sticky flags may differ. -/
def onlyPair (s t : State) (d : Nat) : Prop :=
  unitFrame (fun s t => { t with tasks := s.tasks, shares := s.shares, vDests := s.vDests, flagAcc := s.flagAcc })
    (fun a b => if s.onCore then b else { b with vec := a.vec, fmode := a.fmode })
    (fun a b => if s.onCore then { b with vec := a.vec, fmode := a.fmode } else b) s t ∧
  (∀ n, n ≠ d → n ≠ d + 1 → liveVreg t n = liveVreg s n) ∧ (liveVec t).m = (liveVec s).m

/-- Only mask register `d` and the sticky flags may differ. -/
def onlyMask (s t : State) (d : Nat) : Prop :=
  unitFrame (fun s t => { t with tasks := s.tasks, shares := s.shares, flagAcc := s.flagAcc })
    (fun a b => if s.onCore then b else { b with vec := a.vec, fmode := a.fmode })
    (fun a b => if s.onCore then { b with vec := a.vec, fmode := a.fmode } else b) s t ∧
  (∀ n, n ≠ d → liveMask t n = liveMask s n) ∧ (liveVec t).v = (liveVec s).v

/-- A number as an element of `w` bits, modulo 2^w; and an element as a signed number (R156, R195). -/
def wrapTo (w : Nat) (v : Int) : Nat := (v % 2 ^ w).toNat
def signOf (w x : Nat) : Int := Int.bmod x (2 ^ w)

/-- R195: clamped to the signed range when `sat`, then taken modulo 2^w. -/
def satTo (w : Nat) (sat : Bool) (v : Int) : Nat :=
  let lo : Int := -2 ^ (w - 1)
  let hi : Int := 2 ^ (w - 1) - 1
  wrapTo w (if sat && decide (v < lo) then lo else if sat && decide (hi < v) then hi else v)

/-- A vector instruction: its constructor, the formats its entry accepts, the formats it reads or writes, its own shape
condition, the positions it writes, and the element it gives there. -/
structure VForm where
  form : FmtV → Instr
  accept : FmtV → Nat → Bool
  formats : FmtV → Nat → List Nat := fun _ F => [F]
  fits : State → FmtV → Bool := fun _ _ => true
  wrote : State → FmtV → Nat → Bool := vSel
  elem : State → FmtV → Nat → FRes

/-- A float operation on the elements A and B, decoded (R192), under the rounding of RMODE (R172). -/
def fltElem (op : FloatFmt → Nat → FVal → FVal → FRes) (s : State) (f : FmtV) (i : Nat) : FRes :=
  let F := floatFmt (vF s f)
  op F (s.roundMode f.rmode.toNat) (fDecode F (vA s f i)) (fDecode F (vB s f i))

/-- R192: A × VB with C added. -/
def fmaElem (neg : Bool) (s : State) (f : FmtV) (i : Nat) : FRes :=
  let F := floatFmt (vF s f)
  let c := fDecode F (vC s f i)
  fFma F (s.roundMode f.rmode.toNat) (fDecode F (vA s f i)) (fDecode F (elemOf (s.vecB f) (vW s f) i)) (if neg then c.neg else c)

/-- A function of A alone (R193). -/
def funElem (op : FloatFmt → Nat → FVal → FRes) : State → FmtV → Nat → FRes := fltElem fun F m a _ => op F m a

/-- R192, VABS and VNEG: the sign cleared, or inverted; a NaN becomes canonical. -/
def signElem (invert : Bool) (s : State) (f : FmtV) (i : Nat) : FRes :=
  let F := floatFmt (vF s f)
  let a := vA s f i
  let top := 2 ^ (F.ebits + F.mbits)
  if (fDecode F a).isNan then { bits := F.canonNan }
  else { bits := a % top + (if invert && a / top % 2 = 0 then top else 0) }

/-- An integer operation on the elements A and B (R195): no flag. -/
def intElem (op : FmtV → Nat → Nat → Nat → Nat) (s : State) (f : FmtV) (i : Nat) : FRes :=
  { bits := op f (vW s f) (vA s f i) (vB s f i) }

/-- A move of bits (R204): no flag. -/
def moveElem (op : State → FmtV → Nat → Nat) (s : State) (f : FmtV) (i : Nat) : FRes := { bits := op s f i }

def f14 (_ : FmtV) (F : Nat) : Bool := decide (1 ≤ F ∧ F ≤ 4)
def f24 (_ : FmtV) (F : Nat) : Bool := decide (2 ≤ F ∧ F ≤ 4)
def f17 (_ : FmtV) (F : Nat) : Bool := decide (1 ≤ F ∧ F ≤ 7)
def i89 (_ : FmtV) (F : Nat) : Bool := decide (F = 8 ∨ F = 9)
def f19 (_ : FmtV) (_ : Nat) : Bool := true

/-- R195: the shift count: 3 bits of an INT8 element, 5 of an INT32. -/
def specShift (w b : Nat) : Nat := if w = 8 then b % 8 else b % 32

/-- R192, R193, R195, R198, R199, R201, R204 to R207, R209: the instructions that write one vector register element by element. -/
noncomputable def vectorForms : List VForm :=
  [{ form := .vadd, accept := f14, elem := fltElem fAdd },
   { form := .vsub, accept := f14, elem := fltElem fun F m a b => fAdd F m a b.neg },
   { form := .vmul, accept := f14, elem := fltElem fMul },
   { form := .vdiv, accept := f14, elem := fltElem fDiv },
   { form := .vfma, accept := f14, elem := fmaElem false },
   { form := .vfms, accept := f14, elem := fmaElem true },
   { form := .vmin, accept := f17, elem := fun s f i => fMinMax (floatFmt (vF s f)) false (vA s f i) (vB s f i) },
   { form := .vmax, accept := f17, elem := fun s f i => fMinMax (floatFmt (vF s f)) true (vA s f i) (vB s f i) },
   { form := .vabs, accept := f17, elem := signElem false },
   { form := .vneg, accept := f17, elem := signElem true },
   { form := .vrcp, accept := f14, elem := funElem fRcp },
   { form := .vrsq, accept := f14, elem := funElem fRsq },
   { form := .vsqrt, accept := f14, elem := funElem fSqrt },
   { form := .vexp2, accept := f24, elem := funElem fExp2 },
   { form := .vlog2, accept := f24, elem := funElem fLog2 },
   { form := .vsig, accept := f24, elem := funElem fSig },
   { form := .vtanh, accept := f24, elem := funElem fTanh },
   { form := .vaddInt, accept := i89, elem := intElem fun f w a b => satTo w (f.aux.getLsbD 0) (signOf w a + signOf w b) },
   { form := .vsubInt, accept := i89, elem := intElem fun f w a b => satTo w (f.aux.getLsbD 0) (signOf w a - signOf w b) },
   { form := .vmulInt, accept := i89, elem := intElem fun _ w a b => a * b % 2 ^ w },
   { form := .vminInt, accept := i89, elem := intElem fun f w a b =>
      if f.aux.getLsbD 1 then Nat.min a b else if signOf w a ≤ signOf w b then a else b },
   { form := .vmaxInt, accept := i89, elem := intElem fun f w a b =>
      if f.aux.getLsbD 1 then Nat.max a b else if signOf w a ≤ signOf w b then b else a },
   { form := .vand, accept := i89, elem := intElem fun _ _ a b => a &&& b },
   { form := .vor, accept := i89, elem := intElem fun _ _ a b => a ||| b },
   { form := .vxor, accept := i89, elem := intElem fun _ _ a b => a ^^^ b },
   { form := .vnot, accept := i89, elem := intElem fun _ w a _ => 2 ^ w - 1 - a },
   { form := .vshl, accept := i89, elem := intElem fun _ w a b => a * 2 ^ specShift w b % 2 ^ w },
   { form := .vshr, accept := i89, elem := intElem fun _ w a b => a / 2 ^ specShift w b },
   { form := .vsra, accept := i89, elem := intElem fun _ w a b => wrapTo w (signOf w a / 2 ^ specShift w b) },
   { form := .vpopc, accept := i89, elem := intElem fun _ w a _ => (List.range w).countP a.testBit },
   { form := .vclz, accept := i89, elem := intElem fun _ w a _ => if a = 0 then w else w - 1 - a.log2 },
   { form := .vsel, accept := f19, wrote := fun _ _ _ => true,
     elem := moveElem fun s f i => if vSel s f i then vA s f i else vB s f i },
   { form := .vcvt, accept := fun f _ => decide (1 ≤ f.vb.toNat % 16 ∧ f.vb.toNat % 16 ≤ 9), formats := fun f F => [f.vb.toNat % 16, F],
     elem := fun s f i => let G := f.vb.toNat % 16
       vcvtElem G (vF s f) (s.roundMode f.rmode.toNat) s.saturates (elemOf (s.vecA f) (fmtBits G) i) },
   { form := .vdeq, accept := fun f F => decide (5 ≤ f.vb.toNat % 16 ∧ f.vb.toNat % 16 ≤ 7 ∧ 1 ≤ F ∧ F ≤ 4),
     formats := fun f F => [f.vb.toNat % 16, F],
     fits := fun s f => decide (shapeCols s.vshapeNow % 16 = 0 ∧ (f.aux = 2 → shapeRows s.vshapeNow ≤ 64)),
     elem := fun s f i =>
       let G := f.vb.toNat % 16
       let im := s.rdVec (f.va.toNat + (if f.xt.getLsbD 2 then 64 else 0) + 1)
       let bd := if f.aux = 1 then 0x3F80 else if f.aux = 2 then elemOf im 16 (s.regBytes / 2 - 1) else (s.scalarC f).toNat % 2 ^ 16
       dequantElem G (vF s f) (s.roundMode f.rmode.toNat) bd (elemOf im 8 (i / 16)) (elemOf (s.vecA f) (fmtBits G) i) },
   { form := .vmov, accept := f19, elem := moveElem vA },
   { form := .vbcast, accept := f19, elem := moveElem fun s f i =>
      let cols := shapeCols s.vshapeNow
      if f.cfile ≠ 0 then (s.scalarC f).toNat % 2 ^ vW s f
      else vA s f (if f.aux.getLsbD 0 then i / cols * cols else i % cols) },
   { form := .vtran, accept := f19, elem := moveElem fun s f i =>
      vA s f (i % shapeRows s.vshapeNow * shapeCols s.vshapeNow + i / shapeRows s.vshapeNow) },
   { form := .vshuf, accept := f19, fits := fun s _ => decide (vN s * 2 ≤ s.regBytes), elem := moveElem fun s f i =>
      let k := elemOf (s.vecB f) 16 i
      if vN s ≤ k then 0 else vA s f k },
   { form := .viota, accept := fun f F => decide (f.rmode = 7 ∨ 1 ≤ F ∧ F ≤ 7), elem := fun s f i =>
      let v : Int := (if f.cfile = 0 then 0 else (s.scalarC f).toInt) + i
      if vF s f = 8 ∨ vF s f = 9 then { bits := wrapTo (vW s f) v }
      else fFromInt (floatFmt (vF s f)) (s.roundMode f.rmode.toNat) false v }]

/-- The other vector instructions with the checks of R184: their formats and shape conditions (R196 to R213). -/
noncomputable def otherVectorForms : List VForm :=
  let none (_ : State) (_ : FmtV) (_ : Nat) : FRes := { bits := 0 }
  let redOk (f : FmtV) (F : Nat) : Bool :=
    decide (((F = 8 ∨ F = 9) ∨ f.aux.toNat ≤ 2 ∧ 1 ≤ F ∧ F ≤ 4) ∧ (f.rmode = 7 ∨ f.aux = 0 ∧ 1 ≤ F ∧ F ≤ 4))
  [{ form := .vcmp, accept := fun f F => decide (if F = 8 ∨ F = 9 then f.aux.toNat ≠ 3 ∧ f.aux.toNat ≠ 7 else f.aux.toNat ≤ 4), elem := none },
   { form := .vqnt, accept := fun f F => decide (2 ≤ f.vb.toNat % 16 ∧ f.vb.toNat % 16 ≤ 4 ∧ 5 ≤ F ∧ F ≤ 7),
     formats := fun f F => [f.vb.toNat % 16, F],
     fits := fun s f => decide (shapeCols s.vshapeNow % 16 = 0 ∧ (f.aux = 2 → shapeRows s.vshapeNow ≤ 64)), elem := none },
   { form := .vred, accept := redOk, elem := none },
   { form := .vscan, accept := redOk, elem := none },
   { form := .vext, accept := f19, elem := none },
   { form := .vins, accept := f19, elem := none },
   { form := .nzscan, accept := f19, elem := none },
   { form := .vtopk, accept := f19,
     fits := fun s f => decide (f.aux.toNat + 1 ≤ shapeCols s.vshapeNow ∧ shapeRows s.vshapeNow * (f.aux.toNat + 1) * 2 ≤ s.regBytes), elem := none },
   { form := .vsort, accept := fun f F => !(f.aux.getLsbD 1 && decide (1 ≤ F ∧ F ≤ 7)),
     fits := fun s _ => decide (vN s * 2 ≤ s.regBytes), elem := none }]

/-- The executing unit raises a fault of its V position and does nothing else (R184, R188). -/
def raisesV (i : Instr) (s : State) (code : Nat) : Prop :=
  exec i s = .next { s with raised := s.raised ++ [{ unit := s.syllUnit 0, code := code }] }

/-- R196: a float condition and an integer condition on two elements, with the flags. -/
def specVcmp (s : State) (f : FmtV) (i : Nat) : Bool × Word :=
  let w := vW s f
  let a := vA s f i
  let b := vB s f i
  if vF s f = 8 ∨ vF s f = 9 then
    (match f.aux.toNat with
     | 0 => decide (a = b)
     | 1 => decide (signOf w a < signOf w b)
     | 2 => decide (signOf w a ≤ signOf w b)
     | 4 => decide (a ≠ b)
     | 5 => decide (a < b)
     | _ => decide (a ≤ b), 0)
  else
    fCmp (floatFmt (vF s f)) (match f.aux.toNat with | 0 => .eq | 1 => .lt | 2 => .le | 3 => .un | _ => .ne) a b

/-- R197: the operations on masks. -/
noncomputable def maskForms : List ((FmtV → Instr) × (Bool → Bool → Bool)) :=
  [(.vmand, fun a b => a && b), (.vmor, fun a b => a || b), (.vmxor, fun a b => a ^^ b), (.vmnot, fun a _ => !a)]

/-- R202: the lists of an axis: the position of each result, and the positions of its elements. -/
def specLists (s : State) (f : FmtV) : List (Nat × List Nat) :=
  let rows := shapeRows s.vshapeNow
  let cols := shapeCols s.vshapeNow
  match f.vb.toNat % 4 with
  | 0 => [(0, List.range (rows * cols))]
  | 1 => (List.range rows).map fun r => (r * cols, (List.range cols).map fun c => r * cols + c)
  | _ => (List.range cols).map fun c => (c, (List.range rows).map fun r => r * cols + c)

/-- The elements of A that the mask selects of a list, in its order (R180). -/
def selected (s : State) (f : FmtV) (l : List Nat) : List Nat := (l.filter (vSel s f)).map (vA s f)

/-- The operation of VRED and VSCAN on two elements (R202). -/
def redOf (s : State) (f : FmtV) : Nat → Nat → FRes := redOp f.aux.toNat (vF s f) (s.roundMode f.rmode.toNat)

/-- R210: the element is not zero. -/
def specNonZero (s : State) (f : FmtV) (i : Nat) : Bool :=
  if vF s f = 8 ∨ vF s f = 9 then vA s f i ≠ 0
  else match fDecode (floatFmt (vF s f)) (vA s f i) with
    | .fin _ m _ => m ≠ 0
    | _ => true

/-- A list of columns is in an order: each two neighbours stand as `before` has them, equals by ascending column (R211, R213). -/
def ordered (before : Nat → Nat → Bool) : List Nat → Prop
  | a :: b :: l => (before b a = false ∧ (before a b = false → a < b)) ∧ ordered before (b :: l)
  | _ => True

end Sys2Proof

/-! ### Scratchpads, vector memory accesses, engine commands, copies and waits (R83, R214 to R217, R241, R255, R264, R275 to
R281, R284 to R308, R541, R562 to R569) -/

namespace Sys2Proof

/-- R275: byte `o` of a share's scratchpad. -/
def spadByte (h : Share) (o : Nat) : Byte := Tbl.get 0 h.spm o

/-- R280: the task may reach each of the `n` bytes from offset `o` on: they lie in the scratchpad, in the filler partition for
a filler task, outside the partition given away for a primary. -/
def spReach (t : Task) (h : Share) (o n : Nat) : Prop :=
  o + n ≤ 2 ^ 21 ∧ ∀ k, k < n →
    let bank := (o + k) / 2 ^ 15
    let first := Word.field h.spfill 0 6
    let inside := first ≤ bank ∧ bank < first + Word.field h.spfill 8 6
    if t.isFiller then inside else (t.gaveBank = true → ¬inside)

/-- R383: the stored words that hold the `n` bytes agree with their ECC. -/
def spSound (s : State) (t : Task) (c o n : Nat) : Prop :=
  ∀ w, o / 8 ≤ w → w ≤ (o + n - 1) / 8 → Tbl.get 0 s.flips (flipKey (spCell t c (8 * w))) = 0

/-- A scratchpad access of the executing share that meets no fault. -/
def spGood (s : State) (o n : Nat) : Prop := spReach (curTask s) (curShare s) o n ∧ spSound s (curTask s) s.curCore o n

/-- R281: the width in bytes. -/
def specSpWidth (f : FmtM) : Nat :=
  if (f.flags.extractLsb' 0 2).toNat = 0 then 8 else if (f.flags.extractLsb' 0 2).toNat = 1 then 4
  else if (f.flags.extractLsb' 0 2).toNat = 2 then 2 else 1

/-- A state with the note of bank ports as in another (R275): an access of a scratchpad adds its own to it. -/
def portsOf (s t : State) : State := { t with spClaims := s.spClaims }

/-- Only the scratchpad of the executing share may differ (and error injection's own state, R387, and the note of ports). -/
def onlySpad (s t : State) : Prop :=
  unitFrame (fun s t => { portsOf s t with shares := s.shares, flips := s.flips, regs := s.regs }) (fun _ b => b)
    (fun a b => { b with spm := a.spm }) s t

/-- R215: the rows of a vector access: how many, the elements of each, its length in bytes; LDVT's rows are columns. -/
def rowCount (s : State) (tr : Bool) : Nat := if tr then shapeCols s.vshapeNow else shapeRows s.vshapeNow
def rowElems (s : State) (tr : Bool) : Nat := if tr then shapeRows s.vshapeNow else shapeCols s.vshapeNow
def rowBytes (s : State) (tr : Bool) (w : Nat) : Nat := rowElems s tr * w / 8

/-- R215: row `r` starts at EA + r × T, T the stride register or `l`. -/
def rowStart (s : State) (f : FmtM) (l r : Nat) : Word :=
  BitVec.ofInt 64 ((specEa s f).toNat + r * (if f.flags.getLsbD 0 then (s.rdInt f.index).toInt else (l : Int)))

/-- R214: the vector register a memory access names. -/
def memVec (f : FmtM) : Nat := f.d.toNat + (if f.flags.getLsbD 3 then 64 else 0)

/-- The width of vshape.FMT. -/
def shapeW (s : State) : Nat := fmtBits (shapeFmt s.vshapeNow)

/-- R214: the access passes its own checks: the shape is valid and each row is whole bytes. -/
def vecMemReady (s : State) (tr : Bool) : Prop :=
  shapeValid s.vshapeNow s.regBytes = true ∧ rowElems s tr * shapeW s % 8 = 0

/-- The requests of a physical run: its pieces within aligned words, in order (R323). -/
def piecesOf (pa n : Nat) : List (Nat × Nat) := wordsOf pa n (n / 8 + 2)

/-- R215, R217: the pieces of all rows of a thread's access whose pages one TLB entry maps. -/
def rowPieces (s : State) (f : FmtM) (p : TlbEntry) (count l : Nat) : List (Nat × Nat) :=
  (List.range count).flatMap fun r => piecesOf (p.pa (rowStart s f l r)) l

/-- Each row lies in one page, which entry `p` maps and permits; they are all in local HBM, or all in the thread's tile memory. -/
def rowsHit (s : State) (a : Access) (f : FmtM) (p : TlbEntry) (count l : Nat) : Prop :=
  (∀ r, r < count →
    let va := rowStart s f l r
    ((Tbl.get [] s.tlbs s.memTlb).find? fun e => e.covers (s.task s.curGtid).asid va && canonical va) = some p ∧
      va.toNat % 2 ^ 16 + l ≤ 2 ^ 16 ∧ a.permits p.w0 = true ∧ p.w1.getLsbD (groupBit (s.task s.curGtid)) = true) ∧
  ((∀ r, r < count → localHbm p (rowStart s f l r)) ∨ ∀ r, r < count → ownTile s s.curGtid p (rowStart s f l r))

/-- What the words of a request ask, in order. -/
def reqAsks (r : Req) : List (Nat × Nat × HomeOp) := (r.pa, r.bytes, r.op) :: r.tail.map fun x => (x.pa, x.bytes, x.op)

/-- A value cut into pieces, low bytes first. -/
def cutInto (v : Nat) : List (Nat × Nat) → List (Nat × Nat × HomeOp)
  | [] => []
  | (pa, n) :: l => (pa, n, .write (BitVec.ofNat 64 (v % 2 ^ (8 * n)))) :: cutInto (v / 2 ^ (8 * n)) l

/-- The queue of the thread's binning core has grown by requests that ask for these pieces, in order (R323, R326); those in one
line go together (R132). -/
def queueGains (s t : State) (g : Gtid) (l : List (Nat × Nat × HomeOp)) : Prop :=
  let k := 16 * (s.task g).die + (s.task g).bcNo
  ∃ rs : List Req, Tbl.get [] t.bcQueues k = Tbl.get [] s.bcQueues k ++ rs ∧ rs.flatMap reqAsks = l

/-- A syllable of an engine: its number (R305) and its operation. -/
noncomputable def engineForms : List ((FmtE → Instr) × EngOp × Nat) :=
  [(.mldb, .mldb, 1), (.mswap, .mswap, 1), (.mring, .mring, 1), (.mma, .mma, 1), (.mmas, .mmas, 1), (.gmma, .gmma, 1),
   (.mzero, .mzero, 1), (.mdrain, .mdrain, 1), (.mstream, .mstream, 1), (.qcfg, .qcfg, 2), (.qtri, .qtri, 2),
   (.qapply, .qapply, 2), (.qang, .qang, 2), (.qrot, .qrot, 2), (.qsolve, .qsolve, 2), (.qgain, .qgain, 2), (.qldt, .qldt, 2),
   (.qstt, .qstt, 2), (.xput, .xput, 4), (.xget, .xget, 4), (.xamo, .xamo, 4), (.xsend, .xsend, 4), (.xtrig, .xtrig, 4),
   (.xcntRead, .xcntRead, 4), (.xcntSet, .xcntSet, 4), (.xcntAdd, .xcntAdd, 4), (.xcntErr, .xcntErr, 4), (.xtile, .xtile, 4),
   (.xtileFire, .xtileFire, 4), (.xrt, .xrt, 4), (.xflush, .xflush, 4)]

/-- R63, R70: an engine operand: an a register, or the s register the bundle carries. -/
def specEngine (s : State) (r : BitVec 6) (isS : Bool) : Word := if isS then Tbl.get 0 s.carried r.toNat else s.rdInt r

/-- The command holds the operands read when its bundle executed, and its place in the share's order. -/
def captured (s : State) (op : EngOp) (f : FmtE) (k : Cmd) : Prop :=
  k.op = op ∧ k.f = f ∧ k.addr = s.curAddr ∧ k.a = specEngine s f.opa (f.fsel.getLsbD 2) ∧
    k.b = specEngine s f.opb (f.fsel.getLsbD 1) ∧ k.c = specEngine s f.opc (f.fsel.getLsbD 0) ∧
    k.time = (if f.isAt then specEngine s f.atreg f.ats else 0) ∧ k.qcfg = s.rdShare.qcfg ∧ k.seq = (curShare s).seq

/-- R71, R306: an instruction of engine `e` owes its push, to the engine its PUSH field names, until it retires. -/
def owesPush (a b : Share) (e : Nat) (f : FmtE) : Prop :=
  b.seq = a.seq + 1 ∧
    Tbl.get [] b.dues e = Tbl.get [] a.dues e ++
      (if f.push = 0 then [] else [{ seq := a.seq, dest := f.push.toNat - 1, retired := false }]) ∧
    ∀ e', e' ≠ e → Tbl.get [] b.dues e' = Tbl.get [] a.dues e'

/-- A share with its queues of commands, its pushes and qcfg as in another. -/
def queuesOf (a b : Share) : Share :=
  { b with mxq := a.mxq, qrq := a.qrq, xeq := a.xeq, seq := a.seq, dues := a.dues, qcfg := a.qcfg }

/-- A share with its copy engine's command stage, issue buffer and pushes as in another. -/
def stageOf (a b : Share) : Share :=
  { b with cpq := a.cpq, copies := a.copies, tokens := a.tokens, seq := a.seq, dues := a.dues, cpNext := a.cpNext }

/-- R305, R70: the tokens from engine `i` to engine `j`; every queue that `f` pops to engine `e` holds one. -/
def tokensAt (h : Share) (i j : Nat) : Nat := Tbl.get 0 h.tokens (5 * i + j)
def popsReady (h : Share) (e : Nat) (f : FmtE) : Prop := ∀ i, i < 4 → f.pop.getLsbD i = true → tokensAt h i e ≠ 0

/-- One token has been taken from every queue that `f` pops, and from no other. -/
def popsTaken (a b : Share) (e : Nat) (f : FmtE) : Prop :=
  ∀ i j, i < 5 → j < 5 → tokensAt b i j = tokensAt a i j - (if j = e ∧ i < 4 ∧ f.pop.getLsbD i = true then 1 else 0)

/-- The command stage of the copy engine is empty and free, and the issue buffer has an entry free (R292, R306). -/
def stageFree (h : Share) : Prop := h.cpq = [] ∧ h.stopped = false ∧ h.pushWaits 3 = false ∧ h.copies.length < 1024

/-- The copies, by constructor. -/
noncomputable def copyForms : List ((FmtE → Instr) × EngOp) := [(.cp, .cp), (.cpg, .cpg), (.cps, .cps), (.cpd, .cpd), (.cpf, .cpf)]

/-- R287, R288, R298: the core refuses the copy. -/
def copyRefused (s : State) (op : EngOp) (f : FmtE) : Prop :=
  let h := s.rdShare
  let k := (f.mod.extractLsb' 3 2).toNat
  let w := specEngine s f.opc (f.fsel.getLsbD 0)
  let ssp := f.mod.getLsbD 6
  let dfmt := Word.field w 8 4
  let n0 := Word.field (h.shapeWord k 0) 0 32
  let n1 := if op = .cpd then 1 else Word.field (h.shapeWord k 0) 32 16
  let n2 := if op = .cp ∨ op = .cpf then Word.field (h.shapeWord k 0) 48 16 else 1
  Word.field w 53 11 ≠ 0 ∨ Word.field w 12 20 ≠ 0 ∨ (Word.field w 32 21 ≠ 0 ∧ op ≠ .cpg ∧ op ≠ .cps) ∨
    (dfmt ≠ 0 ∧ (ssp = true ∨ op = .cpd ∨ op = .cpf)) ∨ (ssp = true ∧ op = .cpf) ∨ (f.mod.getLsbD 5 = false ∧ op = .cpd) ∨
    0xA ≤ dfmt ∨ 2 ^ 38 < n0 * n1 * n2 ∨ (dfmt ≠ 0 ∧ n0 * 8 % fmtBits dfmt ≠ 0) ∨
    (op = .cpd ∧ (Word.field h.cpdpat 8 8 = 0 ∨ Word.field h.cpdpat 0 4 < 5 ∨ 12 < Word.field h.cpdpat 0 4))

/-- R393, R400: the row's L1D holds no unowned copy, and is otherwise as it was. -/
def acquired (s t : State) : Prop :=
  (∀ a, a < 2 ^ 48 → (t.l1 (spineRow s) a).copy = none) ∧
    (∀ a, a < 2 ^ 48 → (s.l1 (spineRow s) a).pend ≠ [] ∨ (s.l1 (spineRow s) a).owned = true →
      t.l1 (spineRow s) a = { s.l1 (spineRow s) a with copy := none }) ∧
    ∀ r a, r ≠ spineRow s → a < 2 ^ 48 → t.l1 r a = s.l1 r a

end Sys2Proof

/-! ### The engines at work: MX, QR, the copy engine, the exchange engine (R219 to R250, R253, R264 to R274, R291 to R300, R306,
R544, R545, R548, R566) -/

namespace Sys2Proof

/-- R308, R358, R508: engine `e` of a share may start an instruction. -/
def engineReady (s : State) (g : Gtid) (c e : Nat) : Prop :=
  (∃ d r b, (s.task g).place = .row d r b) ∧ c < 8 ∧ (s.share g c).stopped = false ∧ (s.share g c).pushWaits e = false ∧
    s.withheld 2 (s.task g) = false

/-- R308: the engines of the share run. -/
def engineRuns (s : State) (g : Gtid) (c : Nat) : Prop :=
  (∃ d r b, (s.task g).place = .row d r b) ∧ c < 8 ∧ (s.share g c).stopped = false

/-- R275: no port of a scratchpad's bank is taken. -/
def portsFree (s : State) : Prop := ∀ p, Tbl.get 0 s.spBusy p ≤ s.cycle

/-- A state with the bank ports as in another (R275). -/
def banksOf (s t : State) : State := { portsOf s t with spBusy := s.spBusy }

/-- Only one share may differ, and there only what `es` takes over (and which engine pipes worked in this cycle, R358; the bank
ports taken, R275; the count of free values drawn). -/
def onlyShareAt (s t : State) (g : Gtid) (c : Nat) (es : Share → Share → Share) : Prop :=
  (∀ g' c', shareKey g' c' ≠ shareKey g c → t.share g' c' = s.share g' c') ∧
    { es (s.share g c) (t.share g c) with usedAt := (s.share g c).usedAt } = s.share g c ∧
    { banksOf s t with shares := s.shares, free := s.free } = s

/-- The push of the instruction `k` of engine `e`, if it has one, is due, and no other has changed. -/
def pushDue (a b : Share) (e : Nat) (k : Cmd) : Prop :=
  Tbl.get [] b.dues e = (Tbl.get [] a.dues e).map (fun d => if d.seq = k.seq then { d with retired := true } else d) ∧
    ∀ e', e' ≠ e → Tbl.get [] b.dues e' = Tbl.get [] a.dues e'

/-- MX has nothing but the instruction in its compute pipe. -/
def onlyComputes (h : Share) (r : Running) : Prop := h.mxComp = some r ∧ h.mxLoad = none ∧ h.mxFly = [] ∧ h.mxFin = []

/-- R224, R179: INT8 planes: the exact dot product of a streamed row and a weight row, modulo 2^32. -/
def int8Dot (a w : Nat) : Nat :=
  let x (v p : Nat) : Int := Int.bmod (v / 2 ^ (8 * p) % 256) 256
  (((List.range 1024).map fun p => x a p * x w p).sum % 2 ^ 32).toNat

/-- The number at an offset of a scratchpad (R6). -/
def spadNat (h : Share) (o n : Nat) : Nat := bytesFrom (spadByte h) o n

/-- A scratchpad access of share (g, c) that meets no fault. -/
def spGoodAt (s : State) (g : Gtid) (c o n : Nat) : Prop := spReach (s.task g) (s.share g c) o n ∧ spSound s (s.task g) c o n

/-- R284: the core and the offset of a scratchpad operand of core `c`. -/
def spOperand (c : Nat) (w : Word) : Nat × Nat := ((c + Word.field w 21 3) % 8, Word.field w 0 21)

/-- R296: the offset of byte (p, r, b) of an operand: its base, its planes and rows at their strides. -/
def linearOff (base : Nat) (plane row : Word) (p r b : Nat) : Int := base + p * plane.toInt + r * row.toInt + b

/-- R292: of two copies of a channel, `x` comes first. -/
def comesFirst (x y : Cmd) : Prop := x.time.toNat < y.time.toNat ∨ (x.time = y.time ∧ x.seq < y.seq)

/-- R544: counter `ref` of the module: its value and its error bit. -/
def xCounter (s : State) (ref : Nat) : Word := Tbl.get 0 (Tbl.get {} s.xch (ref / 4096 % 4)).ctr (ref % 4096)
def xError (s : State) (ref : Nat) : Bool := Tbl.get false (Tbl.get {} s.xch (ref / 4096 % 4)).err (ref % 4096)

/-- No trigger is armed on the die of a counter (R553). -/
def noTriggers (s : State) (ref : Nat) : Prop := ∀ e, (Tbl.get {} (Tbl.get {} s.xch (ref / 4096 % 4)).trig e).st ≠ .armed

/-- Only counter `ref`, its error bit apart, may differ in the exchange engines. -/
def onlyCounter (s t : State) (ref : Nat) : Prop :=
  (∀ r, r < 2 ^ 14 → r ≠ ref % 2 ^ 14 → xCounter t r = xCounter s r ∧ xError t r = xError s r) ∧
    ∀ d, { Tbl.get {} t.xch d with ctr := (Tbl.get {} s.xch d).ctr, err := (Tbl.get {} s.xch d).err } = Tbl.get {} s.xch d

end Sys2Proof

/-! ### Rows and threads: fetch, issue, execution, replies, migration, SPAWN (R42, R47, R74 to R78, R136, R152, R316 to R336, R339,
R343 to R346, R352, R459) -/

namespace Sys2Proof

/-- Only task `g` may differ, and there only what `e` takes over. -/
def onlyTaskAt (s t : State) (g : Gtid) (e : Task → Task → Task) : Prop :=
  e (s.task g) (t.task g) = s.task g ∧ (∀ g', g' ≠ g → t.task g' = s.task g')

/-- R78, R319, R344: the task fetches its next bundle: it runs, or waits for an answer, and has nothing to execute again. -/
def mayFetch (s : State) (g : Gtid) : Prop :=
  let t := s.task g
  (t.st = .running ∨ ((t.st = .waiting ∨ t.st = .parked) ∧
    ∀ c ∈ t.causes, c = .reply ∨ c = .tag ∨ c = .sysc ∨ c = .status ∨ c = .release ∨ c = .fetch ∨ c = .hold)) ∧
  t.startTick.toNat ≤ s.dcc.toNat ∧ t.fetched = none ∧ t.exited = false ∧ t.redo = [] ∧
  (if t.isRow then s.holdsRow t = true else ∃ d b k, t.place = .bc d b k)

/-- The TLB of a task's fetches. -/
def codeTlb (t : Task) : Nat := if t.isRow then tlbSpine t else tlbBc t

/-- The page of the next bundle: in the TLB, executable, for the task's unit, in local HBM. -/
def codeHit (s : State) (g : Gtid) (p : TlbEntry) : Prop :=
  let t := s.task g
  ((Tbl.get [] s.tlbs (codeTlb t)).find? fun e => e.covers t.asid t.pc && canonical t.pc) = some p ∧ p.w0.getLsbD 4 = true ∧
    p.w1.getLsbD (groupBit t) = true ∧ localHbm p t.pc ∧ t.pc.toNat % (if t.isRow then 32 else 16) = 0

/-- The task has fetched its bundle, of the words `w`; a thread's S and V alone (R77, R78). -/
def hasFetched (s t : State) (g : Gtid) (w : Nat → Word) : Prop :=
  let x (i : Nat) : Word := if (s.task g).isRow || i < 2 then w i else 0
  (t.task g).fetched = some { addr := (s.task g).pc, w0 := x 0, w1 := x 1, w2 := x 2, w3 := x 3 } ∧
    (t.task g).causes.contains .fetch = false ∧ onlyTaskAt s t g (fun a b => { b with fetched := a.fetched, causes := a.causes, st := a.st })

/-- R66: a literal takes the position after its word: MOVL, by its major. -/
def isLiteral (w : Word) : Bool := w.toNat / 2 ^ 57 = 0x03 || w.toNat / 2 ^ 57 = 0x35

/-- R344, R345, R362, R456, R508: nothing holds the Spine's issue. -/
def spineMay (s : State) (g : Gtid) : Prop :=
  let t := s.task g
  t.isRow = true ∧ t.st = .running ∧ s.holdsRow t = true ∧ t.memOp = none ∧ t.retry = none ∧ t.startTick.toNat ≤ s.dcc.toNat ∧
    s.saving t = false ∧ s.withheld 0 t = false

/-- Nothing is left of the bundle before: the next one begins with these syllables and reads the registers as `snap` and
`carried` give them (R77, R346). -/
def begins (t : State) (snap : Option (Task × Share)) (carried : Tbl Word) (l : List Item) (vDests : List Nat := []) : Prop :=
  t.pending = l ∧ t.snap = snap ∧ t.carried = carried ∧ t.raised = [] ∧ t.flagAcc = 0 ∧ t.vDests = vDests

/-- A state with the notes of the bundle that begins as in another. -/
def bundleOf (s t : State) : State :=
  { t with pending := s.pending, snap := s.snap, carried := s.carried, raised := s.raised, flagAcc := s.flagAcc, vDests := s.vDests }

/-- A syllable of a bundle at `a`. -/
def syllable (u : Agent) (a w l : Word) (v e : Bool) : Item := { unit := u, addr := a, isV := v, isE := e, word := w, lit := l }

/-- R316: nothing holds the thread's issue. -/
def threadMay (s : State) (g : Gtid) : Prop :=
  let t := s.task g
  t.isRow = false ∧ t.st = .running ∧ (∃ d b k, t.place = .bc d b k) ∧ t.memOp = none ∧ t.retry = none ∧ t.readyAt ≤ s.cycle ∧
    t.startTick.toNat ≤ s.dcc.toNat ∧ s.saving t = false ∧ s.withheld 1 t = false ∧ t.unacked + (t.remoteOut.map (·.2)).sum < 16

/-- The task with the registers that a syllable held back is to read (R77). -/
def asThen (t : Task) (r : Redo) : Task :=
  match r.before with
  | none => t
  | some b => { t with r := b.r, p := b.p, fmode := b.fmode, vshape := b.vshape, vcarry := b.vcarry, vec := b.vec }

/-- The syllable held back, to be executed alone (R133, R322). -/
def alone (u : Agent) (r : Redo) : List Item :=
  [{ unit := u, addr := r.addr, isV := false, isE := false, word := 0, lit := 0, instr := some r.instr }]

/-- The reply of a part of the task's access is the first for it. -/
def firstReply (s : State) (g : Gtid) (r : Reply) (l : List Reply) : Prop :=
  r.gtid = g ∧ ∃ a b, s.replies = a ++ r :: b ∧ l = a ++ b ∧ ∀ x ∈ a, x.gtid ≠ g

/-- The step in which a reply reaches its task. -/
def replyStep (s : State) (g : Gtid) : Instr := if (s.task g).isRow then .waitSatisfied g else .bcReply g

/-- R459: the value of a service. -/
def specService (s : State) (g : Gtid) (svc : Nat) (arg : Word) : Word :=
  if svc = 0 then arg
  else if svc = 1 then (s.task g).startTick
  else if svc = 2 then (s.task g).wdLimit - (s.task g).wdCount
  else if svc = 3 then s.reg (dieReg 0 2 (0x2000 + 8 * (arg.toNat % 1024)))
  else BitVec.allOnes 64

/-- A register of a task. -/
def regOf (t : State) (g : Gtid) (n : BitVec 6) : Word := Tbl.get 0 (t.task g).r n.toNat

/-- R37, R38: the thread's packet carries vector register `n`: a valid byte of vcarry names it. -/
def carries (t : Task) (n : Nat) : Prop :=
  n < 256 / t.bcMode ∧ ∃ i, i < 8 ∧ t.vcarry.toNat / 2 ^ (8 * i) % 256 = 128 + n

/-- R454: the eight words of a slot entry. -/
def inSlot (b r : Nat) : Prop := ∃ i, i < 8 ∧ r = b + 8 * i

/-- The slot entry of a binning slot (R447). -/
def bslotAt (d b k : Nat) : Nat := dieReg d 2 (0x5000 + 64 * (16 * b + k))

end Sys2Proof

/-! ### Faults: taking one, its record, its service, the resume (R44, R54 to R59, R85, R86, R308, R335, R351 to R354, R418, R419,
R422, R447, R463) -/

namespace Sys2Proof

/-- R57: the codes after which a resume executes again. -/
def specRestarts (c : Nat) : Bool := decide (c ∈ [0x06, 0x10, 0x11, 0x12, 0x18, 0x20])

/-- R55, R56: the record of a fault: what happened, where, when and to whom. -/
def recordSays (s : State) (x : FaultRec) (g : Gtid) (r : Raised) (bundle : Word) (more : Bool) : Prop :=
  x.gtid = g ∧ x.die = (s.task g).die ∧ x.dcc = s.dcc ∧ x.code = r.code ∧ x.unit = r.unit ∧ x.va = r.va ∧ x.detail = r.detail ∧
    x.write = r.write ∧ x.restart = specRestarts r.code ∧ x.bundle = bundle ∧ x.more = more ∧ x.xop = none

/-- R42: the state of a row task held by a fault, from the states in which it may issue. -/
def frozenFrom (a b : Task) : Prop :=
  (a.st = .running ∨ a.st = .waiting ∨ a.st = .parked ∨ a.st = .frozen) → b.st = .frozen

/-- Every cause that held a task still does. -/
def keepsCauses (a b : Task) : Prop := ∀ c, a.causes.contains c = true → b.causes.contains c = true

/-- R85: the fault an encoding fate raises. -/
def specFate (x : Fate) : Nat :=
  match x with
  | .illop => 0x01
  | .illslot => 0x02
  | .illovl => 0x03

/-- R580: the unit of a syllable of a core, by its position and, in the E position, its major. -/
def specUnit (it : Item) : Nat :=
  if it.isE then
    let m := it.word.toNat / 2 ^ 57
    if m = 0x60 then 3 else if m = 0x61 then 4 else if m = 0x62 then 5 else if m = 0x63 then 8 else if m = 0x64 then 2 else 1
  else if it.isV then 2
  else 1

/-- R59: a record that the same core raised in this cycle and that is not posted. -/
def joinsHere (s : State) (g : Gtid) (core : Nat) (f : FaultRec) : Prop :=
  core < 8 ∧ f.gtid = g ∧ f.row = some core ∧ f.cycle = s.cycle ∧ f.xop = none

/-- R59: the records kept until they are posted, with one for the fault: a new one, or one the core has raised in this cycle, which then
names the unit of least number and says that there is more. -/
def recordKept (s t : State) (g : Gtid) (core : Nat) (r : Raised) (bundle : Word) (more : Bool) : Prop :=
  ((∀ f ∈ s.faultPend, ¬joinsHere s g core f) → ∃ x, t.faultPend = s.faultPend ++ [x] ∧ recordSays s x g r bundle more) ∧
  ((∃ f ∈ s.faultPend, joinsHere s g core f) → t.faultPend.length = s.faultPend.length ∧
    ∀ (i : Nat) (f : FaultRec), s.faultPend[i]? = some f → ∃ y, t.faultPend[i]? = some y ∧
      (¬joinsHere s g core f → y = f) ∧
      (joinsHere s g core f → y.more = true ∧ (r.unit < f.unit → recordSays s y g r bundle true) ∧
        (f.unit ≤ r.unit → { y with more := f.more, fresh := f.fresh } = f)))

/-- R49: the stores of a task have performed, and none of its requests is on its way. -/
def settled (s : State) (g : Gtid) : Prop :=
  (s.task g).unacked = 0 ∧ (∀ e ∈ (s.task g).remoteOut, e.2 = 0) ∧ s.anyMoving (fun r => r.ofTask g) = false

/-- R48, R464: the status of a task whose gang ends: 1 if it is frozen or parked on a fault or a watchdog expiry, else 2. -/
def endStatus (a : Task) : Nat :=
  if (a.st = .frozen ∨ a.st = .parked) ∧ (a.causes.contains .fault ∨ a.causes.contains .watchdog ∨ a.causes.contains .translation) then 1
  else 2

/-- R48, R49, R58, R464: every task of a gang ends, with its status: it retires at once, or when its stores have performed; no other
task differs. -/
def endsGang (s t : State) (x : Gang) : Prop :=
  (∀ g ∈ x.tasks, (s.task g).st ≠ .retired → (s.task g).ending = 0 →
    (settled s g → (t.task g).st = .retired ∧ (t.task g).exitStatus = endStatus (s.task g)) ∧
    (¬settled s g → (t.task g).ending = endStatus (s.task g) ∧ (t.task g).causes.contains .ended = true ∧ (t.task g).memOp = none ∧
      (t.task g).retry = none ∧ (t.task g).redo = [])) ∧
    (∀ g ∈ x.tasks, (s.task g).st = .retired → t.task g = s.task g) ∧ ∀ g, g ∉ x.tasks → t.task g = s.task g

/-- A register of block 0 or 2 of a die. -/
def dieRg (die blk o : Nat) (s : State) : Word := s.reg (dieReg die blk o)

/-- R54, R447, R453: a ring of `size` entries has room, by its head and tail. -/
def ringRoom (s : State) (die blk size head tail : Nat) : Prop :=
  dieRg die blk head s - dieRg die blk tail s ≠ dieRg die blk size s ∧ dieRg die blk size s ≠ 0

/-- The eight bytes from `a` on are those of a word, the least significant first. -/
def wordStands (t : State) (a : Nat) (w : Word) : Prop := ∀ k, k < 8 → t.memByte (a + k) = byteOf w k

/-- Words stand in memory from `a` on, and every byte outside them is as it was. -/
def wordsAt (s t : State) (a : Nat) (ws : List Word) : Prop :=
  (∀ i, i < ws.length → t.memWord (a + 8 * i) = ws.getD i 0) ∧ ∀ x, x < a ∨ a + 8 * ws.length ≤ x → t.memByte x = s.memByte x

/-- R55, R56: the eight words of a record. -/
def specRecord (f : FaultRec) (seq : Nat) : List Word :=
  let b (x : Bool) (k : Nat) : Nat := if x then 2 ^ k else 0
  [BitVec.ofNat 64 (f.kind + f.code * 2 ^ 16 + f.unit * 2 ^ 24 + f.die * 2 ^ 28 + f.core % 64 * 2 ^ 30 + b f.restart 36 + b f.write 37 +
     b f.noframe 38 + b f.more 39),
   f.gtid, f.dcc, f.va, f.detail, f.bundle, f.frame, BitVec.ofNat 64 (seq % 2 ^ 32)]

end Sys2Proof

/-! ### Launches, gangs, retirement, pre-emption, the filler switch (R19 to R22, R29, R41 to R49, R358 to R362, R448 to R462) -/

namespace Sys2Proof

/-- Register `i` of submission ring `q` (R448): 0 rbase, 1 rsize, 2 rtail, 3 rhead, 4 cbase, 5 csize, 6 chead, 7 ctail. -/
def ringAt (q i : Nat) : Nat := dieReg 0 2 (0x1000 + 64 * q + 8 * i)

/-- Ring `q` holds a record that is not taken yet. -/
def ringHas (s : State) (q : Nat) : Prop := s.reg (ringAt q 1) ≠ 0 ∧ s.reg (ringAt q 3) ≠ s.reg (ringAt q 2)

/-- R449: ring `q` is the next of the turn. -/
def ringsTurn (s : State) (q : Nat) : Prop :=
  q < 64 ∧ ringHas s q ∧ ∀ q', q' < 64 → ringHas s q' → (q + 64 - s.sched.turn) % 64 ≤ (q' + 64 - s.sched.turn) % 64

/-- The slot of the record the lead core takes, and its 32 words. -/
def slotNow (s : State) (q : Nat) : Nat := (s.reg (ringAt q 3)).toNat % (s.reg (ringAt q 1)).toNat
def recordNow (s : State) (q : Nat) : List Word := s.getWords ((s.reg (ringAt q 0)).toNat / 256 * 256 + 256 * slotNow s q) 32

/-- R41, R29: a task as it waits to be bound: its registers, but for the arguments, at their bind values. -/
def freshTask (t : Task) (serial : Nat) (args : List Word) : Prop :=
  t.st = .queued ∧ t.launch = serial ∧ t.place = .none ∧ t.p = 1 ∧ t.fmode = 0 ∧ t.wdCount = 0 ∧ t.causes = [] ∧
    ∀ n, Tbl.get 0 t.r n = args.getD n 0

/-- A place is free (R456). -/
def freePlace (s : State) (p : Place) : Prop :=
  match p with
  | .row d r f => s.rowTask d r f = none
  | .bc d b k => s.slotTask d b k = none
  | _ => False

/-- The eight words of a slot are zero (R454). -/
def slotIsFree (t : State) (p : Place) : Prop := ∀ b, p.reg = some b → ∀ i, i < 8 → t.reg (b + 8 * i) = 0

/-- R45, R541: no engine of the share has work. -/
def shareIdle (h : Share) : Prop :=
  h.mxq = [] ∧ h.qrq = [] ∧ h.cpq = [] ∧ h.xeq = [] ∧ h.mxLoad = none ∧ h.mxComp = none ∧ h.mxFin = [] ∧ h.mxFly = [] ∧ h.qrRun = none ∧
    h.qrFly = [] ∧ h.copies = []

/-- R45, R46, R49: the task has issued EXIT, and nothing of it is still to be done. -/
def mayRetire (s : State) (g : Gtid) : Prop :=
  let t := s.task g
  t.st = .running ∧ t.exited = true ∧ t.memOp = none ∧ t.retry = none ∧ t.redo = [] ∧ t.ending = 0 ∧ nothingOutstanding s g ∧
    (t.isRow = true → t.wave = [] ∧ (∀ c, c < 8 → shareIdle (s.share g c)) ∧
      ∀ d, d < 4 → ∀ o ∈ (s.xchOf d).ops, o.g = g → o.src ≠ .port ∧ o.src ≠ .tile)

/-- The gang needs nothing read from memory when it is bound: no schedule table, no image. -/
def needsNoImage (l : Launch) (x : Gang) : Prop := l.scratch = 0 ∧ x.routes = 0 ∧ x.tiles = 0 ∧ ∀ d ∈ x.decls, d.schedLen = 0

end Sys2Proof

/-! ### The Collator: ROUTE, CANCEL, RSTAT, rows, records, the end of a route, residency, hints (R426 to R446) -/

namespace Sys2Proof

/-- A Spine or a thread runs the syllable, and no store of its context is outstanding or pending. -/
def unitRuns (s : State) (g : Gtid) : Prop :=
  (onSpine s g ∨ onThread s g) ∧ nothingOutstanding s g ∧ (onSpine s g → ∀ pa, nonePending s (spineRow s) g pa)

/-- `n` bytes at `va` lie in one page, which entry `p` of TLB `k` maps for a task, and which it permits: local HBM. -/
def pageHit (s : State) (k : Nat) (g : Gtid) (a : Access) (va : Word) (n : Nat) (p : TlbEntry) : Prop :=
  ((Tbl.get [] s.tlbs k).find? fun e => e.covers (s.task g).asid va && canonical va) = some p ∧ a.permits p.w0 = true ∧
    p.w1.getLsbD (groupBit (s.task g)) = true ∧ va.toNat % 2 ^ 16 + n ≤ 2 ^ 16 ∧ localHbm p va

/-- `n` loads of `k` bytes at `va` have given the value `v`: a syllable executed again has their answers; else the Spine reads what
it sees, in a page that entry `p` maps, its L1D with room for the lines (R391, R429, R570). -/
def wordsRead (s : State) (g : Gtid) (va : Word) (k n v : Nat) : Prop :=
  (s.task g).got.find? (fun x => x.1 = va && x.2.1 = k * n) = some (va, k * n, v) ∨
    (s.task g).got.find? (fun x => x.1 = va && x.2.1 = k * n) = none ∧ onSpine s g ∧ (s.l1Lines (spineRow s)).length + 40 ≤ 512 ∧
      ∃ p, pageHit s s.memTlb g .load va (k * n) p ∧ v = bytesFrom (seenByte s (spineRow s) g) (p.pa va) (k * n)

/-- A thread asks for the words of a descriptor: one request for each, and it waits for all of them (R323, R429, R570). -/
def asksForWords (s t : State) (g : Gtid) (va : Word) (k n : Nat) (p : TlbEntry) : Prop :=
  let q := 16 * (s.task g).die + (s.task g).bcNo
  (∃ l, Tbl.get [] t.bcQueues q = Tbl.get [] s.bcQueues q ++ l ∧ l.length = n ∧
    ∀ i r, l[i]? = some r → r.pa = p.pa va + k * i ∧ r.bytes = k ∧ r.op = .read ∧ r.org = .task g i ∧ r.tail = [] ∧ r.parks = true) ∧
  (∀ j, j ≠ q → Tbl.get [] t.bcQueues j = Tbl.get [] s.bcQueues j) ∧
  (t.task g).causes.contains .reply = true ∧
  (∃ m, (t.task g).memOp = some m ∧ m.dest = .got va (k * n) ∧ m.parts = List.replicate n (k, none)) ∧
  onlyTaskAt s t g (fun a b => { b with memOp := a.memOp, causes := a.causes, st := a.st }) ∧
  { t with tasks := s.tasks, bcQueues := s.bcQueues } = s

/-- A status reaches its register: at once on the Spine, as a reply on a thread, which waits for it. Memory, tags, the shares and
every other register are as they were. -/
def statusIs (s t : State) (g : Gtid) (d : BitVec 6) (v : Word) : Prop :=
  (s.onBc = false → liveInt t d = v ∧ (∀ k, k ≠ d → liveInt t k = liveInt s k) ∧ t.replies = s.replies) ∧
  (s.onBc = true → t.replies = s.replies ++ [{ gtid := g, part := 0, parks := true, res := .val v }] ∧
    awaits t (s.keptDest (.int d 8 false)) 8 ∧ ∀ k, liveInt t k = liveInt s k) ∧
  (t.task g).got = [] ∧ t.mem = s.mem ∧ t.tags = s.tags ∧ t.shares = s.shares

/-- The Collator of a die. -/
def collAt (s : State) (d : Nat) : Collator := Tbl.get {} s.coll d

/-- Every other die's Collator is as it was. -/
def othersColl (s t : State) (d : Nat) : Prop := ∀ d', d' ≠ d → collAt t d' = collAt s d'

/-- Bits `lo` on, `n` of them, of a word. -/
def bitsOf (w : Word) (lo n : Nat) : Nat := w.toNat / 2 ^ lo % 2 ^ n

/-- R429: a route descriptor is not valid: a field of it is out of range, or a bit that must be zero is set. -/
def routeInvalid (w : Nat → Word) : Prop :=
  let e := bitsOf (w 0) 0 11
  let k := bitsOf (w 0) 12 4
  let a := bitsOf (w 0) 16 2
  bitsOf (w 0) 11 1 ≠ 0 ∨ bitsOf (w 0) 21 3 ≠ 0 ∨ bitsOf (w 0) 28 4 ≠ 0 ∨ bitsOf (w 0) 48 16 ≠ 0 ∨ (∃ i, i < 4 ∧ w (4 + i) ≠ 0) ∨ e = 0 ∨ 1024 < e ∨
    k = 0 ∨ 8 < k ∨ 2 < a ∨ e < k + a ∨ 12 < bitsOf (w 0) 24 4 ∨ bitsOf (w 0) 32 16 = 0 ∨
    (∃ n, n < 16 ∧ (bitsOf (w 0) 32 16).testBit n = true ∧ (w (8 + n)).toNat % 16 ≠ 0) ∨ 2 ^ 32 < bitsOf (w 1) 0 32 + bitsOf (w 1) 32 32

/-- A route of a launch that has not been cancelled. -/
def liveRouteOf (launch : Nat) (r : Route) : Prop := r.launch = launch ∧ r.cancelled = false

/-- The route that a descriptor starts. -/
def routeSays (r : Route) (t : Task) (g : Gtid) (w : Nat → Word) : Prop :=
  r.launch = t.launch ∧ r.gtid = g ∧ r.e = bitsOf (w 0) 0 11 ∧ r.k = bitsOf (w 0) 12 4 ∧ r.a = bitsOf (w 0) 16 2 ∧ r.mode = bitsOf (w 0) 18 2 ∧
    r.wb = (w 0).getLsbD 20 ∧ r.lb = bitsOf (w 0) 24 4 ∧ r.mask = bitsOf (w 0) 32 16 ∧ r.t0 = bitsOf (w 1) 0 32 ∧ r.n = bitsOf (w 1) 32 32 ∧
    r.donew = w 3 ∧ r.tokens = [] ∧ r.out = [] ∧ r.finished = [] ∧ r.emit = 0 ∧ r.disc = 0 ∧ r.cancelled = false ∧ r.fault = false ∧
    ∀ i, i < 16 → r.rbase.getD i 0 = w (8 + i)

/-- R440: the status word of the Collator for a launch. -/
def specRstat (c : Collator) (launch : Nat) : Word :=
  let word (act fault ovr : Bool) (inbuf disc emit : Nat) : Word :=
    BitVec.ofNat 64 (emit % 2 ^ 32 + disc * 2 ^ 32 + inbuf * 2 ^ 48 + ovr.toNat * 2 ^ 60 + fault.toNat * 2 ^ 61 + 2 ^ 62 + act.toNat * 2 ^ 63)
  match c.active with
  | some r => if r.launch = launch then word true r.fault r.ovr r.tokens.length r.disc r.emit
    else BitVec.ofNat 64 (2 ^ 63 + r.fault.toNat * 2 ^ 61)
  | none =>
    match c.ended with
    | some r => if r.launch = launch then word false false r.ovr 0 r.disc r.emit else 0
    | none => 0

/-- R430: a row waits first at the port of a core that may work, and its launch has the active route. -/
def rowWaits (s : State) (g : Gtid) (c : Nat) (r : Route) (i : Nat) (scores : List (BitVec 32)) : Prop :=
  engineRuns s g c ∧ (collAt s (s.task g).die).active = some r ∧ r.launch = (s.task g).launch ∧ r.fault = false ∧ r.cancelled = false ∧
    ¬(r.out = [] ∧ r.emit = r.n) ∧ (collAt s (s.task g).die).rowAt ≠ s.cycle + 1 ∧ (s.share g c).waitingRow = some (i, scores)

/-- What becomes of the row at the port: it is gone, the die has accepted its row of the cycle, and the route is `r'`. -/
def rowTaken (s t : State) (g : Gtid) (c : Nat) (r' : Route) : Prop :=
  let d := (s.task g).die
  collAt t d = { collAt s d with active := some r', rowAt := s.cycle + 1 } ∧ othersColl s t d ∧
    (((t.share g c).mxFin ++ (t.share g c).mxComp.toList).map (·.pend)).flatten =
      (((s.share g c).mxFin ++ (s.share g c).mxComp.toList).map (·.pend)).flatten.tail ∧
    (∀ g' c', shareKey g' c' ≠ shareKey g c → t.share g' c' = s.share g' c') ∧
    { t.share g c with mxFin := (s.share g c).mxFin, mxComp := (s.share g c).mxComp } = s.share g c ∧
    { t with coll := s.coll, shares := s.shares } = s

/-- A page that the Collator of a die may write for a route: tags are enabled (R437). -/
def collHit (s : State) (d : Nat) (r : Route) (va : Word) (n : Nat) (p : TlbEntry) : Prop :=
  ((Tbl.get [] s.tlbs (100 + d)).find? fun e => e.covers (s.task r.gtid).asid va && canonical va) = some p ∧ p.w0.getLsbD 3 = true ∧
    p.w1.getLsbD r.bit = true ∧ pageTag p.w1 = true ∧ pageRemote p.w1 = false ∧ va.toNat % 2 ^ 16 + n ≤ 2 ^ 16

/-- The residency registers (R442). -/
def xresAt (d e i : Nat) (s : State) : Word := s.reg (dieReg d 1 (0x4000 + 16 * e + 8 * i))
def xstageAt (d e i : Nat) (s : State) : Word := s.reg (dieReg d 1 (0x14000 + 16 * e + 8 * i))

/-- R442: entry `e` is staged. -/
def isStaged (d e : Nat) (s : State) : Prop := (xstageAt d e 1 s).getLsbD 47 = true

end Sys2Proof

/-! ### Permits, dispatches, combines (R557 to R560, R570 to R573) -/

namespace Sys2Proof

/-- Word `i` of what stands in memory at `va`, through entry `p`. -/
def wordOf (s : State) (p : TlbEntry) (va : Word) (i : Nat) : Word := BitVec.ofNat 64 (bytesFrom s.memByte (p.pa va + 8 * i) 8)

/-- R522: this device's number. -/
def deviceIs (s : State) (n : Nat) : Prop := (s.reg (ioReg 0 3 0x5000)).getLsbD 12 = true ∧ bitsOf (s.reg (ioReg 0 3 0x5000)) 0 12 = n

/-- R557: entry `e` of the permit table of die `d`. -/
def permitAt (s : State) (d e : Nat) : Option Permit := Tbl.get none (Tbl.get {} s.xch d).permits e

/-- In the exchange engines only one permit entry may differ. -/
def onlyPermit (s t : State) (d e : Nat) : Prop :=
  (∀ d' e', (d' ≠ d ∨ e' ≠ e) → permitAt t d' e' = permitAt s d' e') ∧
    ∀ d', { Tbl.get {} t.xch d' with permits := (Tbl.get {} s.xch d').permits } = Tbl.get {} s.xch d'

/-- Memory, tags and the shares are as they were. -/
def sameStores (s t : State) : Prop := t.mem = s.mem ∧ t.tags = s.tags ∧ t.shares = s.shares

/-- The task has the status in its register, which a V syllable of the bundle may have written instead (R77), and waits for nothing
more; its other registers are as they were. -/
def hasStatus (t s : State) (d : BitVec 6) (v : Word) : Prop :=
  (s.keptDest (.int d 8 false) = .int d 8 false → liveInt t d = v) ∧
  (s.keptDest (.int d 8 false) = .none → liveInt t d = liveInt s d) ∧ (∀ k, k ≠ d → liveInt t k = liveInt s k) ∧ (curTask t).memOp = none

/-- The task waits for a status to come (R570). -/
def awaitsStatus (s t : State) (d : BitVec 6) : Prop :=
  (∀ k, liveInt t k = liveInt s k) ∧ (∃ m, (curTask t).memOp = some m ∧ m.dest = s.keptDest (.int d 8 false) ∧ m.parts = [(8, none)]) ∧
    (curTask t).causes.contains (if s.onBc then .reply else .status) = true

/-- The sending and the receiving side of the pair with a device (R528). -/
def txAt (s : State) (dev : Nat) : PairTx := Tbl.get {} s.fab.tx dev
def rxAt (s : State) (dev : Nat) : PairRx := Tbl.get {} s.fab.rx dev

/-- One message more for a device: numbered and sent, or waiting to be numbered (R528, R532). -/
def messageSent (s t : State) (dev : Nat) (p : Msg → Prop) : Prop :=
  ∃ x : Sent, x.msg.dst.toNat = dev % 4096 ∧ p x.msg ∧
    (((txAt t dev).unacked = (txAt s dev).unacked ++ [x] ∧ (txAt t dev).waiting = (txAt s dev).waiting) ∨
      ((txAt t dev).unacked = (txAt s dev).unacked ∧ (txAt t dev).waiting = (txAt s dev).waiting ++ [x]))

/-- R558: the sum of an entry's grants, and what is left for a request. -/
def grantedSum (p : Permit) : Nat := (p.grants.map (·.2.2)).sum
def specGrant (p : Permit) (count : Nat) : Nat := Nat.min count (p.cap - grantedSum p)

/-- R571: the result of a granted request. -/
def specGrantWord (p : Permit) (count : Nat) (late : Bool) : Word :=
  BitVec.ofNat 64 (specGrant p count % 2 ^ 16 + grantedSum p % 2 ^ 16 * 2 ^ 16 + (decide (specGrant p count < count)).toNat * 2 ^ 32 +
    late.toNat * 2 ^ 33)

/-- A status of R570. -/
def specStatus (c : Nat) : Word := BitVec.ofNat 64 (c * 2 ^ 56)

/-- R572: a dispatch descriptor that a field makes invalid. -/
def dispatchInvalid (w : Nat → Word) : Prop :=
  bitsOf (w 3) 57 7 ≠ 0 ∨ bitsOf (w 4) 34 30 ≠ 0 ∨ w 5 ≠ 0 ∨ w 6 ≠ 0 ∨ w 7 ≠ 0 ∨ bitsOf (w 3) 0 16 < 8 ∨ 8192 < bitsOf (w 3) 0 16 ∨
    bitsOf (w 3) 0 16 % 8 ≠ 0

/-- R573: a combine descriptor that a field makes invalid. -/
def combineInvalid (w : Nat → Word) : Prop :=
  bitsOf (w 4) 0 16 = 0 ∨ 4096 < bitsOf (w 4) 0 16 ∨ bitsOf (w 4) 16 4 = 0 ∨ 4 < bitsOf (w 4) 16 4 ∨ bitsOf (w 4) 20 4 = 0 ∨
    4 < bitsOf (w 4) 20 4 ∨ bitsOf (w 4) 24 8 ≠ 0 ∨ w 6 ≠ 0 ∨ w 7 ≠ 0

/-- R573: column `c` of a run: each weight times its row's element, added in list order from +0, each step rounded. -/
def specColumn (ifmt c : Nat) (rows : List (Nat × (Nat → Nat))) : Nat :=
  rows.foldl (fun acc r => (fFma (floatFmt 2) 0 (fDecode (floatFmt 2) r.1) (fDecode (floatFmt ifmt) (r.2 c)) (fDecode (floatFmt 2) acc)).bits) 0

/-- R559: the dispatch lies within a grant of its sender. -/
def granted (p : Permit) (own base n : Nat) : Prop := ∃ x ∈ p.grants, x.1 = own ∧ x.2.1 ≤ base ∧ base + n ≤ x.2.1 + x.2.2

/-- A page of the exchange engine of the die of a task (R421). -/
def xchHit (s : State) (g : Gtid) (a : Access) (va : Word) (n : Nat) (p : TlbEntry) : Prop :=
  ((Tbl.get [] s.tlbs (96 + (s.task g).die)).find? fun e => e.covers (s.task g).asid va && canonical va) = some p ∧
    a.permits p.w0 = true ∧ p.w1.getLsbD (groupBit (s.task g)) = true ∧ va.toNat % 2 ^ 16 + n ≤ 2 ^ 16 ∧ pageRemote p.w1 = false

/-- What is read and written of a local dispatch, each piece in one page: the header `hp`, the records behind it, the row of
each record's token `rp i`, and the rows `dp` and the records `mp` at the destination (R572). -/
structure DispatchPages where
  hp : TlbEntry
  rp : Nat → TlbEntry
  dp : TlbEntry
  mp : TlbEntry

/-- The number of records in the bin at `hdr`, and the token of record `i`. -/
def binCount (s : State) (x : DispatchPages) (hdr : Word) : Nat := bytesFrom s.memByte (x.hp.pa hdr) 8 % 2 ^ 16
def binToken (s : State) (x : DispatchPages) (hdr : Word) (i : Nat) : Nat := bytesFrom s.memByte (x.hp.pa hdr + 16 + 16 * i) 4

/-- The places of the rows of a dispatch: where row `i` comes from, where the rows and the records go. -/
def rowFrom (s : State) (x : DispatchPages) (w : Nat → Word) (hdr : Word) (i : Nat) : Word :=
  w 0 + BitVec.ofNat 64 (binToken s x hdr i * bitsOf (w 3) 0 16)
def rowsTo (w : Nat → Word) : Word := w 1 + BitVec.ofNat 64 (bitsOf (w 3) 16 16 * bitsOf (w 3) 0 16)
def recordsTo (w : Nat → Word) : Word := w 2 + BitVec.ofNat 64 (16 * bitsOf (w 3) 16 16)

/-- The pages map, and every access of the dispatch is permitted and local; rows and records do not meet. -/
def dispatchMaps (s : State) (g : Gtid) (x : DispatchPages) (w : Nat → Word) (hdr : Word) : Prop :=
  let n := binCount s x hdr
  let b := bitsOf (w 3) 0 16
  xchHit s g .load hdr (16 + 16 * n) x.hp ∧ windowOf (x.hp.pa hdr) = .tile ∧ paDie (x.hp.pa hdr) = (s.task g).die ∧
    (∀ i, i < n → xchHit s g .load (rowFrom s x w hdr i) b (x.rp i) ∧ windowOf ((x.rp i).pa (rowFrom s x w hdr i)) = .hbm) ∧
    xchHit s g .store (rowsTo w) (n * b) x.dp ∧ windowOf (x.dp.pa (rowsTo w)) = .hbm ∧
    xchHit s g .store (recordsTo w) (16 * n) x.mp ∧ windowOf (x.mp.pa (recordsTo w)) = .hbm ∧
    (x.dp.pa (rowsTo w) + n * b ≤ x.mp.pa (recordsTo w) ∨ x.mp.pa (recordsTo w) + 16 * n ≤ x.dp.pa (rowsTo w))

/-- What is read and written of a combine of one run of entries: the list, the row bases, the rows, the output row. -/
structure CombinePages where
  lp : TlbEntry
  bp : Nat → TlbEntry
  rp : Nat → TlbEntry
  op : TlbEntry

/-- Entry `i` of the list: its two words; its row's base and address. -/
def listWord (s : State) (x : CombinePages) (w : Nat → Word) (i k : Nat) : Word := wordOf s x.lp (w 0) (2 * i + k)
def rowBase (w : Nat → Word) (e : Word) : Word := w 2 + BitVec.ofNat 64 (8 * bitsOf e 32 10)
def rowOf (s : State) (x : CombinePages) (w : Nat → Word) (i : Nat) : Word :=
  wordOf s (x.bp i) (rowBase w (listWord s x w i 0)) 0 +
    BitVec.ofNat 64 (bitsOf (listWord s x w i 1) 32 16 * (bitsOf (w 4) 0 16 * fmtBits (bitsOf (w 4) 16 4) / 8))

/-- Where the output row goes. -/
def outOf (s : State) (x : CombinePages) (w : Nat → Word) : Word :=
  w 3 + (BitVec.ofNat 64 (bitsOf (listWord s x w 0 0) 0 32) - BitVec.ofNat 64 (bitsOf (w 4) 32 32)) * w 5

/-- The rows that are combined, each with its weight: those of valid entries, in list order. -/
def combined (s : State) (x : CombinePages) (w : Nat → Word) : List (Nat × (Nat → Nat)) :=
  let b := fmtBits (bitsOf (w 4) 16 4) / 8
  ((List.range (bitsOf (w 1) 0 32)).filter fun i => (listWord s x w i 0).getLsbD 63).map fun i =>
    (bitsOf (listWord s x w i 1) 0 32, fun c => bytesFrom s.memByte ((x.rp i).pa (rowOf s x w i) + c * b) b)

/-- The list is one run of one token, every access of the combine is permitted, in one page each, in local HBM. -/
def combineMaps (s : State) (g : Gtid) (x : CombinePages) (w : Nat → Word) : Prop :=
  let n := bitsOf (w 1) 0 32
  let cols := bitsOf (w 4) 0 16
  xchHit s g .load (w 0) (16 * n) x.lp ∧ windowOf (x.lp.pa (w 0)) = .hbm ∧
    (∀ i, i < n → bitsOf (listWord s x w i 0) 0 32 = bitsOf (listWord s x w 0 0) 0 32) ∧
    (∀ i, i < n → (listWord s x w i 0).getLsbD 63 = true →
      xchHit s g .load (rowBase w (listWord s x w i 0)) 8 (x.bp i) ∧ windowOf ((x.bp i).pa (rowBase w (listWord s x w i 0))) = .hbm ∧
        xchHit s g .load (rowOf s x w i) (cols * fmtBits (bitsOf (w 4) 16 4) / 8) (x.rp i) ∧ windowOf ((x.rp i).pa (rowOf s x w i)) = .hbm) ∧
    xchHit s g .store (outOf s x w) (cols * fmtBits (bitsOf (w 4) 20 4) / 8) x.op ∧ windowOf (x.op.pa (outOf s x w)) = .hbm

end Sys2Proof

/-! ### Links, messages, acknowledgements, failure (R522 to R534, R548, R558 to R560, R563) -/

namespace Sys2Proof

/-- A register of block 3 of the north I/O die (R539). -/
def fabWord (o : Nat) : Nat := ioReg 0 3 o

/-- R539: register `o` of a port: 0 pctl, 8 pstat, 16 replays, 24 crcerr. -/
def portWord (p o : Nat) : Nat :=
  if p < 16 then ioReg 0 3 (0x4000 + 64 * p + o) else if p < 35 then ioReg 1 3 (0x4000 + 64 * (p - 16) + o) else ioReg 0 3 (0x4000 + 64 * 16 + o)

/-- R539: a port is enabled and up. -/
def linkUp (s : State) (p : Nat) : Prop := (s.reg (portWord p 0)).getLsbD 0 = true ∧ (s.reg (portWord p 8)).getLsbD 0 = true

/-- A link port's retry state. -/
def linkAt (s : State) (p : Nat) : Port := Tbl.get {} s.fab.ports p

/-- R523: the fields of a flit's header, from its first bytes. -/
def flitWord (f : List Byte) : Nat := bytesFrom (fun k => f.getD k 0) 0 8
def flitNumber (f : List Byte) : Nat := flitWord f % 2 ^ 12
def flitFack (f : List Byte) : Nat := flitWord f / 2 ^ 12 % 2 ^ 12
def flitBit (f : List Byte) (k : Nat) : Bool := (flitWord f).testBit k
def flitChannel (f : List Byte) : Nat := flitWord f / 2 ^ 25 % 8
def flitKind (f : List Byte) : Nat := flitWord f / 2 ^ 30 % 4

/-- R523: the flit's CRC is good. -/
def crcGood (f : List Byte) : Prop := (crc64 (f.take 248)).toNat = bytesFrom (fun k => f.getD k 0) 248 8

/-- A flit comes to a link port that is up. -/
def flitComes (s : State) (p : Nat) (f : List Byte) : Prop := p < 32 ∧ linkUp s p ∧ f.length = 256

/-- Only the fabric, the registers and the debug counters differ; a step may have been asked for. -/
def onlyLinks (s t : State) : Prop := { t with fab := s.fab, regs := s.regs, dbg := s.dbg, agenda := s.agenda } = s

/-- R526, R560: the virtual channel of a message type that is sequenced. -/
def specChannel (typ : Nat) : Option Nat :=
  if typ = 1 ∨ typ = 2 ∨ typ = 4 ∨ typ = 6 ∨ typ = 7 then some 0
  else if typ = 3 ∨ typ = 5 then some 1
  else if typ = 0x14 ∨ typ = 0x17 then some 4
  else if typ = 0x10 ∨ typ = 0x11 ∨ typ = 0x12 ∨ typ = 0x13 ∨ typ = 0x16 ∨ typ = 0x18 ∨ typ = 0x1A then some 3
  else none

/-- R522, R534: the message is for this device, on its type's channel, in the clear, from a peer whose messages need not be
sealed. -/
def forUs (s : State) (m : Msg) : Prop :=
  deviceIs s m.dst.toNat ∧ specChannel m.typ.toNat = some m.vc.toNat ∧ m.enc = false ∧
    (s.reg (fabWord (0x100000 + 128 * m.src.toNat + 64))).getLsbD 1 = false

/-- R528: it carries the sequence number `k` beyond the base of its pair, and nothing waits behind a flush. -/
def numbered (s : State) (m : Msg) (k : Nat) : Prop :=
  let r := rxAt s m.src.toNat
  m.seq.toNat = (r.base + k) % 2 ^ 32 ∧ (k < 4096 → r.base + k ∉ r.got) ∧ s.fab.flushes = [] ∧ s.fab.held = []

/-- It has been performed, and marked. -/
def markedNow (s t : State) (m : Msg) : Prop := (rxAt s m.src.toNat).base < (rxAt t m.src.toNat).base

/-- The step that receives a message of a type (R528, R558, R559). -/
def receiveStep (p : Nat) (m : Msg) : Instr :=
  if m.typ = 0x16 then .permitRequestReceive p m else if m.typ = 0x18 then .dispatchReceive p m else .messageReceive p m

/-- One register differs: it has counted one event more. -/
def countsOne (s t : State) (r : Nat) : Prop :=
  t.reg r = s.reg r + 1 ∧ (∀ q, q ≠ r → t.reg q = s.reg q) ∧ { t with regs := s.regs } = s

/-- R527: the first path of a device's route entry on die `d` is port `p`, the only one, and it is up. -/
def onePath (s : State) (d dev p : Nat) : Prop := (Xch.paths (Tbl.get {} s.xch d) dev).1 = [p] ∧ linkUp s p

/-- R534: messages to a peer go in the clear. -/
def inClear (s : State) (dev : Nat) : Prop := (s.reg (fabWord (0x100000 + 128 * dev + 64))).getLsbD 0 = false

end Sys2Proof

/-! ### Commands of the masters: registers, spares, repair, bad pages, firmware, keys, attestation, kill (R424, R464, R477 to R490, R503 to R505) -/

namespace Sys2Proof

/-- A command ends with a status and a body, and its reply is all there is to see of it. -/
def answers (s t : State) (w : Caller) (st : Nat) (body : List Byte) : Prop := t.answered = .reply w st body :: s.answered

/-- A command that fails: a status that is not 0, and nothing else changes (but the count of free values). -/
def refusedBy (s t : State) (w : Caller) : Prop :=
  ∃ st, st ≠ 0 ∧ answers s t w st [] ∧ { t with answered := s.answered, free := s.free } = s

/-- The number that `n` bytes of a string from `o` on hold, the first lowest (R6). -/
def octets (b : List Byte) (o n : Nat) : Nat := bytesFrom (fun i => b.getD i 0) o n

/-- `n` bytes of a string from `o` on. -/
def cutOf (b : List Byte) (o n : Nat) : List Byte := (List.range n).map fun i => b.getD (o + i) 0

/-- A 384-bit digest as bytes, the most significant first. -/
def digestOf (b : List Byte) : List Byte := (List.range 48).map fun i => (Config.sha384 b).extractLsb' (8 * (47 - i)) 8

/-- The commands that recovery refuses (R485, R505): all but RESET and FWUPDATE. -/
def isCommand (w : Caller) (i : Instr) : Prop :=
  (∃ d k u r, i = .spare w d k u r ∨ i = .unspare w d k u r) ∨ (∃ k n, i = .svn w k n) ∨ (∃ h, i = .owner w h) ∨
    (∃ b, i = .enrol w b ∨ i = .revoke w b ∨ i = .attest w b) ∨ (∃ e, i = .badadd w e ∨ i = .badclr w e) ∨ (∃ pa, i = .regread w pa) ∨
    (∃ pa v, i = .regwrite w pa v) ∨ ∃ g, i = .kill w g

/-- R477: the place in sparemap of a kind of unit: 0 MC, 1 BC, 2 slice. -/
def spareBit (kind row : Nat) : Nat := if kind = 0 then 4 * row else if kind = 1 then 32 else 36

/-- R477: sparemap of a die, and the unit a spare of it serves; 15 none. -/
def spareWord (s : State) (d : Nat) : Word := s.reg (dieReg d 3 0)
def spareOf (s : State) (d kind row : Nat) : Nat := bitsOf (spareWord s d) (spareBit kind row) 4

/-- R477: the unit that a spare serves, if it serves one; sparemap shows 15 for unit 15 and for none (log entry 30). -/
def servedBy (s : State) (d kind row : Nat) : Option Nat :=
  (s.sec.spares.find? fun x => x.1 = d && x.2.1 = kind && (kind ≠ 0 || x.2.2.1 = row)).map (·.2.2.2)

/-- A die, a kind, a row and a unit that exist. -/
def spareArgs (d kind row : Nat) : Prop := d < 4 ∧ kind < 3 ∧ (kind = 0 → row < 8)
def unitExists (kind unit : Nat) : Prop := if kind = 0 then unit < 8 else unit < 16

/-- R478: the unit is idle. -/
def unitFree (s : State) (d kind row : Nat) : Prop :=
  if kind = 0 then s.unitIdle d .mc row = true else if kind = 1 then s.unitIdle d .bc row = true else s.unitIdle d .slice row = true

/-- R477, R479: the command has ended with a status, and sparestat says so; the substitutions and sparemap are as they were but, with
status 0, for the unit's place. -/
def spareEnds (s t : State) (w : Caller) (d kind row st unit : Nat) (now : Option Nat) : Prop :=
  answers s t w st [] ∧ t.reg (dieReg d 3 8) = BitVec.ofNat 64 (2 ^ 63 + st) ∧ servedBy t d kind row = now ∧
    (st = 0 → spareOf t d kind row = now.getD 15) ∧ (st ≠ 0 → spareWord t d = spareWord s d) ∧
    (∀ k r, spareArgs d k r → spareBit k r ≠ spareBit kind row →
      spareOf t d k r = spareOf s d k r ∧ servedBy t d k r = servedBy s d k r) ∧
    (st ≠ 0 → t.mem = s.mem ∧ t.tags = s.tags ∧ t.tlbs = s.tlbs) ∧
    (kind ≠ 1 → t.mem = s.mem ∧ t.tags = s.tags) ∧
    (kind = 1 → st = 0 → ∀ a, (a / 2 ^ 19 = tileAddr d unit 0 / 2 ^ 19 → t.memByte a = 0 ∧ t.tag a = false) ∧
      (a / 2 ^ 19 ≠ tileAddr d unit 0 / 2 ^ 19 → t.memByte a = s.memByte a ∧ t.tag a = s.tag a)) ∧
    t.tasks = s.tasks ∧ t.shares = s.shares

/-- R484, R485: an image is accepted for a KIND. -/
def imageGood (s : State) (k : Nat) (b : List Byte) : Prop :=
  octets b 0 8 = k ∧ 1 ≤ k ∧ k ≤ 4 ∧ octets b 8 8 < 2 ^ 16 ∧ 1 ≤ octets b 16 8 ∧ octets b 16 8 ≤ 2 ^ 24 ∧ b.length = 256 + octets b 16 8 ∧
    (∀ i, 24 ≤ i → i < 64 → b.getD i 0 = 0) ∧ (∀ i, 112 ≤ i → i < 160 → b.getD i 0 = 0) ∧
    Config.ecdsaOk Config.firmwareKey (Config.sha384 (b.take 160)) (cutOf b 160 96) = true ∧ digestOf (b.drop 256) = cutOf b 64 48 ∧
    Tbl.get 0 s.sec.minSvn k ≤ octets b 8 8

/-- R483: the copy of a KIND that boots: A where it is accepted, else B. -/
def copyOf (s : State) (b : Bool) (k : Nat) : List Byte := if b then Tbl.get [] s.sec.copyB k else Tbl.get [] s.sec.copyA k
def boots (s : State) (k : Nat) (img : List Byte) : Prop :=
  (imageGood s k (copyOf s false k) ∧ img = copyOf s false k) ∨
    (¬imageGood s k (copyOf s false k) ∧ imageGood s k (copyOf s true k) ∧ img = copyOf s true k)

/-- R486, R499: the bytes of measurement register `i`. -/
def measure (s : State) (i : Nat) : List Byte :=
  (List.range 48).map fun j => (s.reg (ioReg 0 0 (64 * i + 8 * (j / 8)))).extractLsb' (8 * (j % 8)) 8

/-- R489: word `w` of key slot `i`, its STATE and LASTGEN; the command counter; the 1,800 bytes that SLOTDIG covers. -/
def slotWord (s : State) (i w : Nat) : Word := s.reg (ioReg 0 0 (0x1000 + 112 * i + 8 * w))
def slotStateOf (s : State) (i : Nat) : Nat := bitsOf (slotWord s i 12) 0 8
def slotGenOf (s : State) (i : Nat) : Nat := bitsOf (slotWord s i 12) 16 16
def slotBytes (s : State) : List Byte :=
  (List.range 1800).map fun j => (s.reg (ioReg 0 0 (0x1000 + 8 * (j / 8)))).extractLsb' (8 * (j % 8)) 8

/-- R490: the status of an enrolment command: the first check that fails. -/
def specEnrol (s : State) (b : List Byte) : Nat :=
  let op := octets b 0 1
  let slot := octets b 1 1 % 16
  let owner := cutOf b 112 96
  let key := cutOf b 16 96
  if s.sec.ownerHash = 0 ∨ s.sec.ownerHash ≠ Config.sha384 owner then 2
  else if Config.ecdsaOk owner (Config.sha384 (cutOf b 0 208)) (cutOf b 208 96) = false then 1
  else if BitVec.ofNat 64 (octets b 8 8) ≠ s.reg (ioReg 0 0 0x1700) + 1 then 3
  else if b.length ≠ 304 ∨ octets b 0 8 / 2 ^ 12 ≠ 0 ∨ (op ≠ 1 ∧ op ≠ 2) ∨ (op = 1 ∧ (slotStateOf s slot = 1 ∨ Config.onCurve key = false)) ∨
      (op = 2 ∧ (slotStateOf s slot ≠ 1 ∨ ∃ x ∈ key, x ≠ 0)) then 4
  else 0

/-- What a command on keys leaves as it was: everything but the security block and the replies. -/
def onlyKeys (s t : State) : Prop :=
  (∀ r, (∀ o, o < 0x2000 → r ≠ ioReg 0 0 o) → t.reg r = s.reg r) ∧ { t with regs := s.regs, answered := s.answered } = s

/-- A register whose write starts nothing: its bits that can be written are set, and nothing else happens (R11). -/
def plainWrite (pa : Nat) : Prop :=
  let o := pa % 2 ^ 24
  let b := pa / 2 ^ 24 % 16
  let side := pa / 2 ^ 38 % 2
  (windowOf pa = .die ∧ ((b = 0 ∧ o ≠ 0 ∧ o ≠ 0x8000 ∧ o ≠ 0x10800) ∨ (b = 1 ∧ o ≠ 0 ∧ o ≠ 0x10080) ∨ (b = 2 ∧ o ≠ 0 ∧ paDie pa ≠ 0) ∨
      (b = 2 ∧ o ≠ 0 ∧ (o < 0x1000 ∨ 0x2000 ≤ o)) ∨ (b = 3 ∧ o ≠ 0x10))) ∨
    (windowOf pa = .io ∧ ((b = 0) ∨ (b = 1 ∧ o ≠ 0) ∨ b = 2 ∨ (b = 3 ∧ side = 1 ∧ (o < 0x3000 ∨ 0x3098 ≤ o)) ∨
      (b = 3 ∧ side = 0 ∧ o ≠ 0x800 ∧ o ≠ 0x5018 ∧ (o < 0x3000 ∨ 0x3098 ≤ o) ∧ o < 0x100000)))

/-- A command register, with the number of its command in its low bits (R374, R420, R500, R514). -/
def commandRegs : List (Nat × Nat × Nat) :=
  [(dieReg 0 0 0, 4, 3), (dieReg 1 0 0, 4, 3), (dieReg 2 0 0, 4, 3), (dieReg 3 0 0, 4, 3), (dieReg 0 0 0x8000, 4, 3), (dieReg 1 0 0x8000, 4, 3),
   (dieReg 2 0 0x8000, 4, 3), (dieReg 3 0 0x8000, 4, 3), (ioReg 0 1 0, 16, 4), (ioReg 0 3 0x800, 16, 5)]

/-- R473, R502: a control-block address. -/
def inBlocks (pa : Nat) : Prop := windowOf pa = .die ∨ windowOf pa = .io

end Sys2Proof

/-! ### The loader (R491 to R497, R500) -/

namespace Sys2Proof

/-- R500: a register of the loader: 0 ldcmd, 8 ldman, 0x10 ldplace, 0x18 ldasid, 0x20 ldtab, 0x28 lddead, 0x40 lddisc. -/
def ldAt (o : Nat) : Nat := ioReg 0 1 o

/-- R500: ldcmd runs command `n`; it ends with a status: DONE, STAT, its other bits as written. -/
def ldRuns (s : State) (n : Nat) : Prop := (s.reg (ldAt 0)).getLsbD 63 = false ∧ bitsOf (s.reg (ldAt 0)) 0 4 = n
def ldEnds (s t : State) (st : Nat) : Prop := t.reg (ldAt 0) = (s.reg (ldAt 0) ||| BitVec.ofNat 64 (2 ^ 63 + st * 2 ^ 48))

/-- A command ends with a status, and nothing else happens. -/
def onlyEnds (s t : State) (st : Nat) : Prop :=
  ldEnds s t st ∧ (∀ r, r ≠ ldAt 0 → t.reg r = s.reg r) ∧ { t with regs := s.regs } = s

/-- R496: the status word of a shard. -/
def specShardWord (x : Shard) : Word :=
  BitVec.ofNat 64 (x.st + Nat.min 255 x.tries * 2 ^ 8 + (x.pieces.map (·.2.length)).sum % 2 ^ 40 * 2 ^ 24)

/-- R500: ldsess and ldcount of a session: its number, and the shards of each state. -/
def countsOf (t : State) (x : Session) : Prop :=
  t.reg (ldAt 0x30) = BitVec.ofNat 64 x.num ∧
    ∀ k, k < 4 → bitsOf (t.reg (ldAt 0x38)) (16 * k) 16 = (x.shards.filter fun y => decide (y.st = k)).length % 65536

/-- Bytes received of a shard. -/
def gotOf (y : Shard) : Nat := (y.pieces.map (·.2.length)).sum

/-- R493: where a shard lies: PABASE of its die, plus its offset. -/
def shardStart (x : Session) (y : Shard) : Nat := ((x.place[y.die]?).map (·.1)).getD 0 + y.off

/-- R491: a header that is malformed. -/
def headInvalid (m : List Byte) : Prop :=
  octets m 0 8 ≠ 0x4D4E4647 ∨ octets m 8 2 ≠ 1 ∨ octets m 10 2 = 0 ∨ octets m 12 4 / 16 ≠ 0 ∨ octets m 16 8 = 0 ∨ 65536 < octets m 16 8 ∨
    (∃ i, 24 ≤ i ∧ i < 32 ∧ m.getD i 0 ≠ 0) ∨ ∃ i, 80 ≤ i ∧ i < 128 ∧ m.getD i 0 ≠ 0

/-- R492: shard entry `i` breaks its field limits. -/
def entryInvalid (m : List Byte) (i : Nat) : Prop :=
  let o := 128 + 64 * i
  let w := octets m (o + 48) 8
  let off := octets m (o + 56) 8
  let res := w / 2 ^ 42 % 4
  w % 2 ^ 40 = 0 ∨ res = 3 ∨ w / 2 ^ 44 % 16 ≠ 0 ∨ (res = 0 ∧ w / 2 ^ 48 ≠ 0xFFFF) ∨ (res ≠ 0 ∧ 1024 ≤ w / 2 ^ 48) ∨ 2 ^ 38 ≤ off ∨ off % 128 ≠ 0

/-- R492: two entries name one expert of a die, or overlap there. -/
def entriesMeet (m : List Byte) (i j : Nat) : Prop :=
  let w (i : Nat) : Nat := octets m (128 + 64 * i + 48) 8
  let o (i : Nat) : Nat := octets m (128 + 64 * i + 56) 8 % 2 ^ 38
  w i / 2 ^ 40 % 4 = w j / 2 ^ 40 % 4 ∧
    ((w i / 2 ^ 42 % 4 ≠ 0 ∧ w j / 2 ^ 42 % 4 ≠ 0 ∧ w i / 2 ^ 48 = w j / 2 ^ 48) ∨ (o i < o j + w j % 2 ^ 40 ∧ o j < o i + w i % 2 ^ 40))

/-- R491, R492: a manifest is malformed. -/
def manifestInvalid (m : List Byte) : Prop :=
  headInvalid m ∨ (∃ i, i < octets m 16 8 ∧ entryInvalid m i) ∨ ∃ i j, i < j ∧ j < octets m 16 8 ∧ entriesMeet m i j

/-- The manifest ldman names in local HBM, of N entries. -/
def manifestAt (s : State) (m : List Byte) : Prop :=
  let pa := (s.reg (ldAt 8)).toNat
  windowOf pa = .hbm ∧ m.length = 128 + 64 * octets m 16 8 + 96 ∧ ∀ i, i < m.length → m.getD i 0 = s.memByte (pa + i)

/-- R493: PABASE of a die in the placement table. -/
def placeBase (s : State) (d : Nat) : Nat := (s.memWord ((s.reg (ldAt 0x10)).toNat / 64 * 64 + 16 * d)).toNat

/-- R493: shard `i` lies outside its die's local HBM, or meets a range of an active generation. -/
def misplaced (s : State) (m : List Byte) (i : Nat) : Prop :=
  let w := octets m (128 + 64 * i + 48) 8
  let d := w / 2 ^ 40 % 4
  let a := placeBase s d + octets m (128 + 64 * i + 56) 8 % 2 ^ 38
  placeBase s d % 2 ^ 16 ≠ 0 ∨ placeBase s d / 2 ^ 38 ≠ d ∨ (d + 1) * 2 ^ 38 < a + w % 2 ^ 40 ∨
    ∃ e ∈ s.ldr.active, ∃ r ∈ e.2, a < r.1 + r.2 ∧ r.1 < a + w % 2 ^ 40

/-- R493: the lowest status of LOAD that applies. -/
def specLoad (s : State) (m : List Byte) (st : Nat) : Prop :=
  let slot := octets m 12 1 % 16
  let signed := m.take (128 + 64 * octets m 16 8)
  let bad (k : Nat) : Prop :=
    if k = 1 then s.ldr.session ≠ none
    else if k = 2 then manifestInvalid m
    else if k = 3 then slotStateOf s slot ≠ 1
    else if k = 4 then Config.ecdsaOk (List.flatten ((List.range 12).map fun i => (List.range 8).map fun j => byteOf (slotWord s slot i) j))
      (Config.sha384 signed) (cutOf m (128 + 64 * octets m 16 8) 96) = false
    else if k = 5 then octets m 10 2 ≤ slotGenOf s slot
    else ∃ i, i < octets m 16 8 ∧ misplaced s m i
  (∀ k, 1 ≤ k → k ≤ 6 → k < st ∨ st = 0 → ¬bad k) ∧ (st ≠ 0 → st ≤ 6 ∧ bad st)

/-- The header of a chunk (R494): session, shard, offset, length; and whether the chunk is whole. -/
def chunkSession (b : List Byte) : Nat := octets b 0 4
def chunkShard (b : List Byte) : Nat := octets b 4 4
def chunkOff (b : List Byte) : Nat := octets b 8 8
def chunkLen (b : List Byte) : Nat := octets b 16 8
def chunkWhole (b : List Byte) : Prop := 1 ≤ chunkLen b ∧ chunkLen b ≤ 65536 ∧ octets b 24 8 = 0 ∧ b.length = 32 + chunkLen b

/-- R494, R495: a chunk is received into shard `y` of session `x`. -/
def chunkFits (s : State) (b : List Byte) (x : Session) (y : Shard) : Prop :=
  chunkWhole b ∧ s.ldr.session = some x ∧ x.num % 2 ^ 32 = chunkSession b ∧ x.shards[chunkShard b]? = some y ∧ y.st = 0 ∧
    (gotOf y < y.len → s.dcc < x.dead) ∧ chunkOff b + chunkLen b ≤ y.len ∧
    ∀ p ∈ y.pieces, chunkOff b + chunkLen b ≤ p.1 ∨ p.1 + p.2.length ≤ chunkOff b

/-- A session with one shard changed. -/
def withShard (x : Session) (i : Nat) (y : Shard) : Session := { x with shards := x.shards.set i y }

/-- Shard `i` of the session is now `y`, its status word is written, and the counts follow (R496, R500). -/
def shardNow (s t : State) (x : Session) (i : Nat) (y : Shard) : Prop :=
  t.ldr = { s.ldr with session := some (withShard x i y) } ∧ wordStands t (x.tab + 8 * i) (specShardWord y) ∧
    (∀ a, a < x.tab + 8 * i ∨ x.tab + 8 * i + 8 ≤ a → t.memByte a = s.memByte a) ∧ countsOf t (withShard x i y) ∧ t.tags = s.tags ∧
    t.tasks = s.tasks ∧ t.shares = s.shares

end Sys2Proof

/-! ### Power, telemetry, debug, trace, the host (R152, R506 to R519, R535 to R538) -/

namespace Sys2Proof

/-- R506: a power register: 0 capm, 8 caph, 0x10 rup, 0x18 rdn, 0x20 pctl, 0x28 pnow, 0x30 pbounds, 0x40 tiv … 0x70 tdest. -/
def powerAt (o : Nat) : Nat := ioReg 0 2 o

/-- R506: a ramp rate as it acts: 1,000 to 200,000 mW/ms. -/
def specRamp (w : Word) : Nat := if w.toNat < 1000 then 1000 else if 200000 < w.toNat then 200000 else w.toNat

/-- R506, R510: the cap set, and the effective cap. -/
def specSetCap (s : State) : Nat := Nat.min 3600000 (Nat.min (s.reg (powerAt 0)).toNat (s.reg (powerAt 8)).toNat)
def specCap (s : State) : Nat := match s.pow.throttle with | none => specSetCap s | some c => Nat.min c (specSetCap s)

/-- R507: the ceiling and the floor of the next window, in whole milliwatts. -/
def specCeiling (s : State) (p : Nat) : Nat := Nat.min (specCap s) ((1000 * p + 1024 * specRamp (s.reg (powerAt 0x10))) / 1000)
def specFloor (s : State) (p : Nat) : Nat := Nat.min (specCeiling s p) ((1000 * p - 1024 * specRamp (s.reg (powerAt 0x18))) / 1000)

/-- R508: the kinds (0 row issue, 1 BC issue, 2 engine starts) and the classes (0 urgent to 3 filler), in the order they are withheld. -/
def holdOrder : List (Nat × Nat) := [(0, 3), (0, 2), (0, 1), (0, 0), (1, 3), (1, 2), (1, 1), (1, 0), (2, 3), (2, 2), (2, 1), (2, 0)]
def drawn (m : PowerIn) (k : Nat × Nat) : Nat := (if k.1 = 0 then m.row else if k.1 = 1 then m.bc else m.eng).getD k.2 0

/-- A fabric's debug register (R512 to R519). -/
def debugAt (o : Nat) : Nat := ioReg 0 3 o

/-- R514: dbgcmd runs command `n`; it ends with a status. -/
def debugRuns (s : State) (n : Nat) : Prop := (s.reg (debugAt 0x800)).getLsbD 63 = false ∧ (s.reg (debugAt 0x800)).toNat % 16 = n
def debugEnds (s t : State) (st : Nat) : Prop :=
  t.reg (debugAt 0x800) = ((s.reg (debugAt 0x800) &&& 0xF) ||| BitVec.ofNat 64 (2 ^ 63 + st * 2 ^ 60))
def onlyDebugEnds (s t : State) (st : Nat) : Prop :=
  debugEnds s t st ∧ (∀ r, r ≠ debugAt 0x800 → t.reg r = s.reg r) ∧ { t with regs := s.regs } = s

/-- R514: the task is there, and halted. -/
def haltedNow (s : State) (g : Gtid) : Prop :=
  (s.task g).causes.contains .halt = true ∧ (s.task g).st ≠ .absent ∧ (s.task g).st ≠ .retired

/-- R513: the record of a halt. -/
def haltRecord (s : State) (g : Gtid) (idx imm : Nat) (addr : Word) : List Word := [BitVec.ofNat 64 (idx + imm * 2 ^ 32), g, addr, s.dcc]

/-- Only the debug unit's own state, and the count of free values, differ besides a task's hold. -/
def onlyHalts (s t : State) (g : Gtid) : Prop :=
  onlyTaskAt s t g (fun a b => { b with causes := a.causes, st := a.st, stepping := a.stepping, brkPast := a.brkPast }) ∧
    { t with tasks := s.tasks, dbg := s.dbg, regs := s.regs, free := s.free } = s

/-- R512: the first watch entry of a task for which a test on its control word and address holds. -/
def watchIs (s : State) (g : Gtid) (ok : Word → Word → Prop) (i : Nat) : Prop :=
  let e (k w : Nat) : Word := s.reg (debugAt (32 * k + 8 * w))
  i < 16 ∧ e i 0 = g ∧ g ≠ 0 ∧ ok (e i 2) (e i 1) ∧ ∀ k, k < i → ¬(e k 0 = g ∧ ok (e k 2) (e k 1))

/-- The Press of a die. -/
def pressAt (s : State) (d : Nat) : Press := Tbl.get {} s.dbg.press d

/-- Nothing but the Press of a die differs, and it has one record more or counts one lost. -/
def pressed (s t : State) (d : Nat) : Prop :=
  ((pressAt t d).count + (pressAt t d).queue.length + (pressAt t d).lostRecs = (pressAt s d).count + (pressAt s d).queue.length + (pressAt s d).lostRecs + 1) ∧
    (∀ k, k ≠ d → pressAt t k = pressAt s k) ∧ { t with dbg := { t.dbg with press := s.dbg.press } } = s

/-- R514: FILE, CORE and INDEX of dbgsel. -/
def chosen (s : State) (f c i : Nat) : Prop :=
  let w := s.reg (debugAt 0x810)
  bitsOf w 0 4 = f ∧ bitsOf w 4 4 = c ∧ bitsOf w 16 16 = i

/-- R539: word `w` of queue pair `n`; a memory region. -/
def qpWord (s : State) (n w : Nat) : Word := s.reg (ioReg 0 3 (0x6000 + 64 * n + 8 * w))
def mrWord (s : State) (m w : Nat) : Word := s.reg (ioReg 0 3 (0xA000 + 32 * m + 8 * w))

/-- R485, R536, R539: the queue pair is in use, the host port is up, and the message is the next in order. -/
def nextOnQp (s : State) (qp psn : Nat) : Prop :=
  qp < 256 ∧ (qpWord s qp 4).getLsbD 28 = true ∧ s.sec.recovery = false ∧ psn = bitsOf (qpWord s qp 4) 0 24

/-- R536: a region in use with the key admits `n` bytes at `pa`. -/
def admitted (s : State) (rkey : BitVec 32) (pa n : Nat) (write : Bool) : Prop :=
  ∃ m, m < 256 ∧ (mrWord s m 2).getLsbD 34 = true ∧ (mrWord s m 2).setWidth 32 = rkey ∧ (mrWord s m 2).getLsbD (if write then 33 else 32) = true ∧
    (mrWord s m 0).toNat ≤ pa ∧ pa + n ≤ (mrWord s m 0).toNat + (mrWord s m 1).toNat

/-- R536: the receive PSN moves on by the packets of `n` bytes; the queue pair's other bits stay. -/
def psnMoves (s t : State) (qp n : Nat) : Prop :=
  let mtu := 128 * 2 ^ bitsOf (qpWord s qp 4) 24 3
  bitsOf (qpWord t qp 4) 0 24 = (bitsOf (qpWord s qp 4) 0 24 + Nat.max 1 ((n + mtu - 1) / mtu)) % 2 ^ 24 ∧
    (qpWord t qp 4).toNat / 2 ^ 24 = (qpWord s qp 4).toNat / 2 ^ 24

/-- The host is told. -/
def told (s t : State) (a : Answered) : Prop := t.answered = a :: s.answered

end Sys2Proof

/-! ### Decoding, the step, reset, and what every step keeps (R11, R25, R60 to R86, R379) -/

namespace Sys2Proof

/-- The position and unit that decode a syllable (R76): of a bundle of a core, a thread or a Spine. -/
def decodedAs (s : State) (it : Item) : Pos × UnitKind :=
  match it.unit with
  | .core _ _ => (if it.isE then .e else if it.isV then .v else .m, .core)
  | .bc g => (if it.isV then .v else .s, .bc (256 / (s.task g).bcMode))
  | _ => (.x, .spine)

/-- Words of the spec's examples, and the syllables they stand for: the X, M and S positions. -/
noncomputable def specScalarWords : List (Nat × Instr) :=
  [(0x0000000004000000, .exit { g := { gp := 0, gs := false }, d := 0, sa := 0, sb := 0, mod := 0 }),
   (0x0400A300FFFFFFFC, .addImm { g := { gp := 0, gs := false }, d := 5, sa := 6, imm := 0xFFFFFFFC }),
   (0x0400806800000000, .movImm { g := { gp := 0, gs := false }, d := 4, sa := 0, imm := 0 }),
   (0x1002820000000003, .loop { g := { gp := 0, gs := false }, sa := 1, aux := 0, off := 3 }),
   (0x1200A00006000000, .ld64 { g := { gp := 0, gs := false }, d := 5, base := 0, index := 0, scale := 0, ix := false, flags := 0, disp := 0 }),
   (0x1800A00000000000, .ldfe { g := { gp := 0, gs := false }, d := 5, base := 0, index := 0, scale := 0, ix := false, flags := 0, disp := 0 }),
   (0x1E11018A06000000, .binapp { g := { gp := 1, gs := false }, d := 8, sa := 3, sb := 5, mod := 0 }),
   (0x1E01010C08000200, .binclr { g := { gp := 0, gs := false }, d := 8, sa := 2, sb := 6, mod := 1 }),
   (0x1E01219404000800, .spawn { g := { gp := 0, gs := false }, d := 9, sa := 3, sb := 10, mod := 4 }),
   (0x1E00800000000200, .routeCancel { g := { gp := 0, gs := false }, d := 4, sa := 0, sb := 0, mod := 1 }),
   (0x2000828C00000000, .xresv { g := { gp := 0, gs := false }, d := 4, sa := 5, sb := 6, mod := 0 }),
   (0x2000828C02000000, .xdisp { g := { gp := 0, gs := false }, d := 4, sa := 5, sb := 6, mod := 0 }),
   (0x6400451006000000, .mcmpGe { g := { gp := 0, gs := false }, d := 2, sa := 10, sb := 8, mod := 0 }),
   (0x6E28E084E0000040, .lds { g := { gp := 2, gs := true }, d := 7, base := 1, index := 2, scale := 3, ix := true, flags := 0, disp := 64 })]

/-- The same for the V and E positions. -/
noncomputable def specVectorWords : List (Nat × Instr) :=
  [(0x8000828C000002E0, .vadd { g := { gp := 0, gs := false }, vd := 4, va := 5, vb := 6, vc := 0, mask := 0, xt := 0, fmt := 2, rmode := 7, cfile := 0, aux := 0 }),
   (0x86004280A00009E9, .vcmp { g := { gp := 0, gs := false }, vd := 2, va := 5, vb := 0, vc := 20, mask := 0, xt := 0, fmt := 9, rmode := 7, cfile := 1, aux := 1 }),
   (0x92010180200004E8, .nzscan { g := { gp := 0, gs := false }, vd := 8, va := 3, vb := 0, vc := 4, mask := 0, xt := 0, fmt := 4, rmode := 7, cfile := 1, aux := 0 }),
   (0x92014180000014E2, .vtopk { g := { gp := 0, gs := false }, vd := 10, va := 3, vb := 0, vc := 0, mask := 0, xt := 0, fmt := 4, rmode := 7, cfile := 0, aux := 2 }),
   (0xC001810500030040, .mma { g := { gp := 0, gs := false }, push := 1, pop := 8, opa := 4, opb := 5, opc := 0, fsel := 0, isAt := false, ats := false, atreg := 0, mod := 64 }),
   (0xC204018000050000, .qsolve { g := { gp := 0, gs := false }, push := 4, pop := 0, opa := 6, opb := 0, opc := 0, fsel := 0, isAt := false, ats := false, atreg := 0, mod := 0 }),
   (0xC400420600000040, .cp { g := { gp := 0, gs := false }, push := 0, pop := 4, opa := 8, opb := 6, opc := 0, fsel := 0, isAt := false, ats := false, atreg := 0, mod := 64 }),
   (0xC400008000070005, .arrv { g := { gp := 0, gs := false }, push := 0, pop := 0, opa := 2, opb := 0, opc := 0, fsel := 0, isAt := false, ats := false, atreg := 0, mod := 5 }),
   (0xC60080C414000000, .xput { g := { gp := 0, gs := false }, push := 0, pop := 8, opa := 3, opb := 4, opc := 5, fsel := 0, isAt := false, ats := false, atreg := 0, mod := 0 }),
   (0xC600004200090002, .xwait { g := { gp := 0, gs := false }, push := 0, pop := 0, opa := 1, opb := 2, opc := 0, fsel := 0, isAt := false, ats := false, atreg := 0, mod := 2 }),
   (0xC610028C34040001, .xtrig { g := { gp := 1, gs := false }, push := 0, pop := 0, opa := 10, opb := 12, opc := 13, fsel := 0, isAt := false, ats := false, atreg := 0, mod := 1 }),
   (0xC802800000000000, .vtok { g := { gp := 0, gs := false }, push := 2, pop := 8, opa := 0, opb := 0, opc := 0, fsel := 0, isAt := false, ats := false, atreg := 0, mod := 0 })]

end Sys2Proof

/-- R110, R112, R113: every integer instruction of two registers, on the Spine, a binning core or a matrix core, writes its result
to its destination and changes nothing else. R110, R114, R115: the same with the immediate, sign-extended, as operand B; MOVH keeps
the lower half of its destination; MOVL writes its literal. -/
def Obligations.IntegerInstructionResults : Prop :=
  (∀ e ∈ registerForms, ∀ f : FmtA,
     writesInt (e.1 f) f.g f.d fun s => e.2 f s.rdPred (s.rdInt f.sa) (s.operandB f)) ∧
  ((∀ e ∈ immediateForms, ∀ f : FmtI,
     writesInt (e.1 f) f.g f.d fun s => e.2 (s.rdInt f.sa) (BitVec.ofInt 64 f.imm.toInt) (s.rdInt f.d)) ∧
   ∀ f : FmtL, writesInt (.movl f) f.g f.d (fun _ => f.lit) ∧ writesInt (.mMovl f) f.g f.d (fun _ => f.lit))

/-- R110, R117: a compare writes its condition to its destination predicate, p0 keeps reading 1 (R27), and nothing else changes.
R110, R118: the predicate instructions: p0 reads 1 whatever is written to it (R27), and nothing else changes. -/
def Obligations.CompareAndPredicateResults : Prop :=
  ((∀ e ∈ compareForms, ∀ f : FmtA, f.d.toNat < 32 → ∀ s : State, s.guardTrue f.g = true →
     ∃ t, exec (e.1 f) s = .next t ∧
       (livePred t f.d.toNat = true ↔ f.d = 0 ∨ condRelation e.2 (s.rdInt f.sa) (s.operandB f)) ∧ onlyPred s t f.d) ∧
   ∀ e ∈ compareImmForms, ∀ f : FmtI, f.d.toNat < 32 → ∀ s : State, s.guardTrue f.g = true →
     ∃ t, exec (e.1 f) s = .next t ∧
       (livePred t f.d.toNat = true ↔ f.d = 0 ∨ condRelation e.2 (s.rdInt f.sa) (BitVec.ofInt 64 f.imm.toInt)) ∧ onlyPred s t f.d) ∧
  (∀ e ∈ predicateForms, ∀ f : FmtA, f.d.toNat < 32 → ∀ s : State, s.guardTrue f.g = true →
     ∃ t, exec (e.1 f) s = .next t ∧
       livePred t f.d.toNat = (f.d = 0 || e.2 (s.rdPred f.sa.toNat) (s.rdPred f.sb.toNat)) ∧ onlyPred s t f.d)

/-- R61: the guard is p(GP) XOR GS, of the share's predicates on a core (R26) and else of the context's; GP = 0 with GS = 0 always
executes, with GS = 1 never; a syllable whose guard is false has no effect, whatever it is. -/
def Obligations.FalseGuardHasNoEffect : Prop :=
  (∀ i g s, i.guard? = some g → s.guardTrue g = false → exec i s = .next s) ∧
  ∀ (g : Guard) (s : State), (s.guardTrue g = true ↔ s.rdPred g.gp.toNat ≠ g.gs) ∧ (g.gp = 0 → s.guardTrue g = !g.gs) ∧
    s.rdPred g.gp.toNat = (g.gp = 0 || (if s.onCore then s.rdShare.p else s.rdTask.p).getLsbD g.gp.toNat)

/-- R120, R122, R173, R174: a float instruction writes its result, zero-extended, ORs its flags into fmode, and changes nothing
else. R121: FCMP writes its condition to a predicate and ORs its flags into fmode; integer registers keep their values. What the
spec leaves open here is as the model chose, log entries 28 and 33. -/
def Obligations.FloatResults : Prop :=
  ((∀ e ∈ floatForms, ∀ (f : FmtA) (s : State), s.guardTrue f.g = true →
     ∃ t, exec (e.1 f) s = .next t ∧
       liveInt t f.d = (if keptByV s f.d.toNat then liveInt s f.d else BitVec.ofNat 64 (e.2 f s).bits) ∧
       flagsGained s t (e.2 f s).flags ∧ onlyIntFlags s t f.d) ∧
   ∀ (f : FmtA) (s : State), s.guardTrue f.g = true →
     let b := intTypeBounds (f.mod.extractLsb' 3 2).toNat
     let r := fToInt (s.fltMode f) b.1 b.2 (floatIn s f f.sa)
     ∃ t, exec (.fcvti f) s = .next t ∧
       liveInt t f.d = (if keptByV s f.d.toNat then liveInt s f.d else BitVec.ofInt 64 r.1) ∧
       flagsGained s t r.2 ∧ onlyIntFlags s t f.d) ∧
  (∀ (f : FmtA) (s : State), f.d.toNat < 32 → s.guardTrue f.g = true →
     let c : FCond := if f.mod.toNat % 8 = 0 then .eq else if f.mod.toNat % 8 = 1 then .lt else if f.mod.toNat % 8 = 2 then .le else .un
     let r := fCmp (fltFmt f) c (s.rdInt f.sa).toNat (s.rdInt f.sb).toNat
     ∃ t, exec (.fcmp f) s = .next t ∧ livePred t f.d.toNat = (f.d = 0 || r.1) ∧
       (∀ n, n < 32 → n ≠ f.d.toNat → livePred t n = livePred s n) ∧ flagsGained s t r.2 ∧
       unitFrame (fun s t => { t with tasks := s.tasks, shares := s.shares, flagAcc := s.flagAcc })
         (fun a b => if s.onCore then b else { b with p := a.p, fmode := a.fmode })
         (fun a b => if s.onCore then { b with p := a.p, fmode := a.fmode } else b) s t)

/-- R118, R131, R153, R282, R295: instructions that only read state into an integer register: the predicate file, the effective
address, the core's index, 8 × die + row, the DCC, and the copy engine's identifiers. R283, R347: RPUT records its word, with the
index of its bundle, in the slot it names, newest first, and nothing else changes; RGET reads the newest word of its neighbour's
slot that its own bundle may see, or zero. -/
def Obligations.StateReadsAndRingWords : Prop :=
  ((∀ f : FmtA, writesInt (.pget f) f.g f.d (fun s => BitVec.ofNat 64 s.predFile.toNat) ∧
     writesInt (.mPget f) f.g f.d (fun s => BitVec.ofNat 64 s.predFile.toNat) ∧
     writesInt (.time f) f.g f.d (fun s => s.dcc) ∧
     writesInt (.colid f) f.g f.d (fun s => BitVec.ofNat 64 s.curCore) ∧
     writesInt (.rowid f) f.g f.d (fun s => BitVec.ofNat 64 (8 * s.rdTask.die + s.rdTask.rowNo))) ∧
   (∀ f : FmtM, writesInt (.lea f) f.g f.d (fun s => specEa s f) ∧ writesInt (.mLea f) f.g f.d (fun s => specEa s f)) ∧
   ∀ f : FmtE, (f.mod.extractLsb' 3 2).toNat < 3 → writesInt (.cpq f) f.g f.opa fun s =>
     let h := s.rdShare
     let ch := f.mod.toNat % 8
     if (f.mod.extractLsb' 3 2).toNat = 0 then (h.watermark ch).setWidth 64
     else if (f.mod.extractLsb' 3 2).toNat = 1 then (Tbl.get 0 h.cpNext ch).setWidth 64
     else BitVec.ofNat 64 h.copies.length) ∧
  ((∀ (f : FmtA) (s : State), s.guardTrue f.g = true → ∃ t, exec (.rput f) s = .next t ∧
     (let k := f.mod.toNat % 8
      let w := f.mod.getLsbD 3
      let sent (h : Share) (w : Bool) (k : Nat) : List (Nat × Word) := Tbl.get [] (if w then h.sentW else h.sentE) k
      (sent (curShare t) w k).head? = some ((curShare s).nextIdx, s.rdInt f.sa) ∧
      (sent (curShare t) w k).tail = (sent (curShare s) w k).take 63 ∧
      ∀ w' k', (w', k') ≠ (w, k) → sent (curShare t) w' k' = sent (curShare s) w' k') ∧
     unitFrame (fun s t => { t with shares := s.shares }) (fun _ b => b)
       (fun a b => { b with sentE := a.sentE, sentW := a.sentW }) s t) ∧
   ∀ f : FmtA, writesInt (.rget f) f.g f.d fun s =>
     let k := f.mod.toNat % 8
     let west := f.mod.getLsbD 3
     let h := s.share s.curGtid (if west then (s.curCore + 1) % 8 else (s.curCore + 7) % 8)
     let lag := if west then 4 else if s.curCore = 0 then 16 else 0
     ((((Tbl.get [] (if west then h.sentW else h.sentE) k).filter fun e => e.1 + lag ≤ s.rdShare.nextIdx).head?).map (·.2)).getD 0)

/-- R124: NOP changes nothing; EXIT begins the task's retirement; YIELD puts a thread behind every other in the rotation (R318) and
has no effect on the Spine. R125: BR, BRP, RET and JMPR choose the next bundle; BRP not taken changes nothing; CALL also writes the
address of the next bundle in order to its register. R126: LOOP sets its level to the bundles after it up to its target, with its
count; a count of zero skips the body; an offset that is zero or negative raises ILLOP and has no other effect. R128: NEXTTILE takes
AUX words of the schedule table from its cursor on into consecutive registers and moves the cursor; with fewer words left it
branches. -/
def Obligations.ControlInstructionResults : Prop :=
  ((∀ s, exec .nop s = .next s) ∧
   (∀ (f : FmtA) (s : State), s.guardTrue f.g = true →
     ∃ t, exec (.exit f) s = .next t ∧ (curTask t).exited = true ∧ onlyTask (fun a b => { b with exited := a.exited }) s t) ∧
   ∀ (f : FmtA) (s : State), s.guardTrue f.g = true →
     (s.onBc = false → exec (.yield f) s = .next s) ∧
     (s.onBc = true → ∃ t, exec (.yield f) s = .next t ∧ s.cycle < (curTask t).lastIssue ∧
       onlyTask (fun a b => { b with lastIssue := a.lastIssue }) s t)) ∧
  (∀ (f : FmtB) (s : State), s.guardTrue f.g = true →
     jumpsTo (.br f) s (specTarget s f) ∧
     (s.rdPred f.sa.toNat ≠ f.aux.getLsbD 0 → jumpsTo (.brp f) s (specTarget s f)) ∧
     (s.rdPred f.sa.toNat = f.aux.getLsbD 0 → exec (.brp f) s = .next s) ∧
     jumpsTo (.ret f) s (specRegTarget s f) ∧
     jumpsTo (.jmpr f) s (BitVec.ofInt 64 ((specRegTarget s f).toNat + f.off.toInt * specBundle s)) ∧
     (s.onCore = false → keptByV s f.sa.toNat = false → ∃ t, exec (.call f) s = .next t ∧
       liveInt t f.sa = BitVec.ofNat 64 (s.curAddr.toNat + specBundle s) ∧ (curTask t).nextPc = some (specTarget s f) ∧
       (∀ n, n ≠ f.sa → liveInt t n = liveInt s n) ∧
       unitFrame (fun s t => { t with tasks := s.tasks, vDests := s.vDests })
         (fun a b => { b with r := a.r, nextPc := a.nextPc }) (fun _ b => b) s t)) ∧
  (∀ (f : FmtB) (s : State), s.guardTrue f.g = true → s.onBc = false →
     (f.off.toInt ≤ 0 → exec (.loop f) s = .next { s with raised := s.raised ++ [{ unit := s.syllUnit 0, code := 0x01 }] }) ∧
     (0 < f.off.toInt → s.rdInt f.sa = 0 → jumpsTo (.loop f) s (BitVec.ofInt 64 (s.curAddr.toNat + (f.off.toInt + 1) * 32))) ∧
     (0 < f.off.toInt → s.rdInt f.sa ≠ 0 → ∃ t, exec (.loop f) s = .next t ∧
       Tbl.get {} (curTask t).loops (f.aux.toNat % 4) =
         { ls := BitVec.ofNat 64 (s.curAddr.toNat + 32), le := specTarget s f, lc := s.rdInt f.sa, act := true } ∧
       (∀ l, l ≠ f.aux.toNat % 4 → Tbl.get {} (curTask t).loops l = Tbl.get {} (curTask s).loops l) ∧
       onlyTask (fun a b => { b with loops := a.loops }) s t)) ∧
  (∀ (f : FmtB) (s : State), s.guardTrue f.g = true → s.onCore = false → s.onBc = false → f.sa.toNat + f.aux.toNat ≤ 64 →
     (s.rdTask.sched.length < s.rdTask.schcur + f.aux.toNat → jumpsTo (.nexttile f) s (specTarget s f)) ∧
     (s.rdTask.schcur + f.aux.toNat ≤ s.rdTask.sched.length → ∃ t, exec (.nexttile f) s = .next t ∧
       (∀ k, k < f.aux.toNat → liveInt t (BitVec.ofNat 6 (f.sa.toNat + k)) = s.rdTask.sched.getD (s.rdTask.schcur + k) 0) ∧
       (∀ n : BitVec 6, n.toNat < f.sa.toNat ∨ f.sa.toNat + f.aux.toNat ≤ n.toNat → liveInt t n = liveInt s n) ∧
       (curTask t).schcur = s.rdTask.schcur + f.aux.toNat ∧
       onlyTask (fun a b => { b with r := a.r, schcur := a.schcur }) s t))

/-- R149, R150, R151: CSRR reads a CSR of the own context, or of a core's share as it stood at the read point of the bundle, and
changes nothing else; a filler task's access to fillcfg raises ILLOP. R149 to R151, R11: CSRW, CSRS and CSRC on a CSR of the own
context set its RW bits at once, by R36 and R356 where the spec says so, and leave every other CSR, but give way to a VSHAPE in the
V position of a thread's bundle (R77); on a share CSR they travel with the bundle, and nothing changes now. -/
def Obligations.CsrAccessResults : Prop :=
  (∀ (f : FmtA) (s : State), s.guardTrue f.g = true →
     (specCsr f = 4 → s.rdTask.isFiller = true →
       exec (.csrr f) s = .next { s with raised := s.raised ++ [{ unit := s.syllUnit 0, code := 0x01 }] }) ∧
     (¬(specCsr f = 4 ∧ s.rdTask.isFiller = true) → ∃ t, exec (.csrr f) s = .next t ∧
       liveInt t f.d = (if keptByV s f.d.toNat then liveInt s f.d
         else if specCsr f < 0x100 then s.rdTask.csr s.curGtid s.dcc (specCsr f)
         else (specPast (s.share s.curGtid (f.mod.toNat / 4096 % 8)) (s.rdTask.bundleIdx - 1) (f.mod.toNat / 4096 % 8)).csr (specCsr f)) ∧
       onlyInt s t f.d)) ∧
  (∀ e ∈ csrWrites, ∀ (f : FmtA) (s : State), s.guardTrue f.g = true →
     (specCsr f = 4 → s.rdTask.isFiller = true →
       exec (e.1 f) s = .next { s with raised := s.raised ++ [{ unit := s.syllUnit 0, code := 0x01 }] }) ∧
     (shapeByV s f → exec (e.1 f) s = .next s) ∧
     (¬(specCsr f = 4 ∧ s.rdTask.isFiller = true) → ¬shapeByV s f → specCsr f < 0x100 →
       ∃ t, exec (e.1 f) s = .next t ∧
         (∀ g, let old := (curTask s).csr g s.dcc (specCsr f)
           let new := specCsrValue e.2 old (s.rdInt f.sa)
           if specCsr f = 4 then (curTask t).thresh = new.toNat / 2 ^ 8 % 2 ^ 20
           else if specCsr f = 0x31 then (curTask t).schcur = new.toNat % 2 ^ 32
           else (curTask t).csr g s.dcc (specCsr f) = specOwnCsr (specCsr f) old new) ∧
         (∀ g c, c ≠ specCsr f → (curTask t).csr g s.dcc c = (curTask s).csr g s.dcc c) ∧
         onlyTask sameButCsrs s t) ∧
     (0x100 ≤ specCsr f → ∃ t, exec (e.1 f) s = .next t ∧
       (curTask t).wave = (curTask s).wave.map (fun x => if x.idx + 1 = (curTask s).bundleIdx then
         { x with csr := x.csr ++ [⟨f.mod.toNat / 4096 % 8, f.mod.getLsbD 15, specCsr f, e.2, s.rdInt f.sa⟩] } else x) ∧
       onlyTask (fun a b => { b with wave := a.wave }) s t))

/-- R152: TRAP raises fault TRAP with its immediate as the detail; SYSC sends its request, without a destination where the V
syllable of its bundle writes that register (R77), and the task waits for the reply. -/
def Obligations.TrapAndServiceCall : Prop :=
  ∀ (f : FmtI) (s : State), s.guardTrue f.g = true →
    exec (.trap f) s = .next { s with raised := s.raised ++
      [{ unit := s.syllUnit 0, code := 0x06, detail := BitVec.ofNat 64 f.imm.toNat }] } ∧
    ∃ t, exec (.sysc f) s = .next t ∧
      t.syscs = s.syscs ++ [{ gtid := s.curGtid, d := if s.onBc && s.vDests.contains f.d.toNat then none else some f.d, svc := f.imm.toNat, arg := s.rdInt f.sa }] ∧
      (curTask t).causes.contains .sysc = true ∧ (∀ c, (curTask s).causes.contains c = true → (curTask t).causes.contains c = true) ∧
      unitFrame (fun s t => { t with tasks := s.tasks, syscs := s.syscs })
        (fun a b => { b with causes := a.causes, st := a.st }) (fun _ b => b) s t

/-- R130, R391: a load of the Spine writes the bytes it sees, extended, to its destination; memory, tags and every other register
stay as they were. The L1D has room for the line (R3; which line goes where it has none is free, log entry 19). R130, R391: after a
store of the Spine, loads of its context see the stored bytes and every other byte as before; memory at the homes changes at the
stored bytes alone, and at once only where the L1D owns the word and the context has nothing pending in it; no register changes.
What the spec leaves open here is as the model chose, log entry 84. -/
def Obligations.SpineLoadsAndStores : Prop :=
  (∀ e ∈ loadForms, ∀ (f : FmtM) (s : State) (g : Gtid) (p : TlbEntry), onSpine s g → s.guardTrue f.g = true →
     tlbHit s .load (specEa s f) (e.2.1 f) p → localHbm p (specEa s f) → noErrors s → l1Room s (spineRow s) (p.pa (specEa s f)) →
     ∃ t, exec (e.1 f) s = .next t ∧
       liveInt t f.d = specExtend (e.2.1 f) e.2.2 (bytesFrom (seenByte s (spineRow s) g) (p.pa (specEa s f)) (e.2.1 f)) ∧
       (∀ n, n ≠ f.d → liveInt t n = liveInt s n) ∧ (∀ a, t.memByte a = s.memByte a) ∧ (∀ a, t.tag a = s.tag a) ∧
       unitFrame (fun s t => { sameButHome s t with tasks := s.tasks, vDests := s.vDests }) (fun a b => { b with r := a.r }) (fun _ b => b) s t) ∧
  (∀ e ∈ storeForms, ∀ (f : FmtM) (s : State) (g : Gtid) (p : TlbEntry), onSpine s g → s.guardTrue f.g = true →
     tlbHit s .store (specEa s f) e.2 p → localHbm p (specEa s f) → noErrors s → l1Room s (spineRow s) (p.pa (specEa s f)) →
     let pa := p.pa (specEa s f)
     ∃ t, exec (e.1 f) s = .next t ∧
       (∀ k, k < e.2 → seenByte t (spineRow s) g (pa + k) = byteOf (s.rdInt f.d) k) ∧
       (∀ a, a < pa ∨ pa + e.2 ≤ a → t.memByte a = s.memByte a ∧
         (a < 2 ^ 48 → ∀ h, seenByte t (spineRow s) h a = seenByte s (spineRow s) h a)) ∧
       (∀ k, k < e.2 → t.memByte (pa + k) =
         if (s.l1 (spineRow s) pa).owned = true ∧ ((s.l1 (spineRow s) pa).pend.find? fun p => p.g = g) = none then byteOf (s.rdInt f.d) k
         else s.memByte (pa + k)) ∧
       (∀ a, t.tag a = s.tag a) ∧
       unitFrame (fun s t => { sameButHome s t with mem := s.mem }) (fun _ b => b) (fun _ b => b) s t)

/-- R138 to R140, R369, R372, R395: an AMO of the Spine sends its request to the home, which performs it (`HomePerformsOneRequest`),
and the task waits for the old value; what the context has pending in the word's line performs first, and with the release flag
every earlier store of the context. R140, R146, R413: an atomic or tagged access whose address is no multiple of its size raises
ATOMAL before anything else, and has no other effect. R145 to R147, R369, R372: a tagged access of the Spine sends its request to
the home, which tests and changes the tag (`HomePerformsOneRequest`), and the task waits for the answer; STEF and STFF, as releases,
after every earlier store of the context. -/
def Obligations.SpineAtomicsAndTags : Prop :=
  (∀ e ∈ amoForms, ∀ (f : FmtM) (s : State) (g : Gtid) (p : TlbEntry), onSpine s g → s.guardTrue f.g = true →
     tlbHit s .rmw (amoAddr s f) (amoBytes f) p → localHbm p (amoAddr s f) → noErrors s →
     (f.flags.getLsbD 1 = true → nothingOutstanding s g) →
     let pa := p.pa (amoAddr s f)
     ∃ t, exec (e.1 f) s = .next t ∧
       spineAsks s t g pa (amoBytes f) (.amo e.2.1 (s.rdInt f.index) (s.rdInt f.d)) .release (.int f.d (amoBytes f) false)
         (f.flags.getLsbD 0) ∧
       (∀ a, a < 2 ^ 48 → a / 128 = pa / 128 ∨ f.flags.getLsbD 1 = true → t.memByte a = homeByte s (spineRow s) g a) ∧
       (∀ a, a / 128 ≠ pa / 128 → f.flags.getLsbD 1 = false → t.memByte a = s.memByte a) ∧
       unitFrame (fun s t => { sameButHome s t with tasks := s.tasks, mem := s.mem, nets := s.nets })
         (fun a b => { b with memOp := a.memOp, causes := a.causes, st := a.st }) (fun _ b => b) s t) ∧
  (∀ (f : FmtM) (s : State), s.guardTrue f.g = true →
     let fault (va : Word) (w : Bool) : Host.Outcome State Fault Refusal :=
       .next { s with raised := s.raised ++ [{ unit := if s.onBc then 6 else 0, code := 0x14, write := w, va := va }] }
     (∀ e ∈ amoForms, (amoAddr s f).toNat % amoBytes f ≠ 0 → exec (e.1 f) s = fault (amoAddr s f) true) ∧
     (∀ e ∈ tagForms, (specEa s f).toNat % 8 ≠ 0 → exec (e.form f) s = fault (specEa s f) true) ∧
     ((specEa s f).toNat % amoBytes f ≠ 0 →
       exec (.lda f) s = fault (specEa s f) false ∧ exec (.stl f) s = fault (specEa s f) true)) ∧
  (∀ e ∈ tagForms, ∀ (f : FmtM) (s : State) (g : Gtid) (p : TlbEntry), onSpine s g → s.guardTrue f.g = true →
     tlbHit s (tagAccess e) (specEa s f) 8 p → localHbm p (specEa s f) → noErrors s → (e.stores = true → nothingOutstanding s g) →
     let pa := p.pa (specEa s f)
     (pageTag p.w1 = true → ∃ t, exec (e.form f) s = .next t ∧
       spineAsks s t g pa 8 (.tagged e.op (if e.stores then s.rdInt f.d else 0)) .tag (if e.loads then .int f.d 8 false else .none) e.loads ∧
       (∀ a, a < 2 ^ 48 → a / 128 = pa / 128 ∨ e.stores = true → t.memByte a = homeByte s (spineRow s) g a) ∧
       (∀ a, a / 128 ≠ pa / 128 → e.stores = false → t.memByte a = s.memByte a)) ∧
     (pageTag p.w1 = false → exec (e.form f) s = .next { s with raised := s.raised ++
       [{ unit := 0, code := 0x11, write := true, va := specEa s f }] }))

/-- R130, R136, R138, R145, R323, R324: on a binning core an access sends its request to the home. A load, LDA, an AMO, and the
tagged accesses that wait park the thread until the reply; a plain store, SETE and SETF let it go on, with one request more to be
acknowledged. The releases do so once nothing of the context is outstanding. Nothing performs yet. R340, R341: BINAPP and BINCLR
send their request to the tile memory that holds the bin's header, and the thread parks; a header that is not on a multiple of 16
raises ATOMAL, one that is not in tile memory PERM. What the spec leaves open here is as the model chose, log entries 82 and 83. -/
def Obligations.ThreadRequests : Prop :=
  (∀ (f : FmtM) (s : State) (g : Gtid) (p : TlbEntry), onThread s g → s.guardTrue f.g = true →
     let ea := specEa s f
     (∀ e ∈ loadForms, tlbHit s .load ea (e.2.1 f) p → near s g p ea →
       ∃ t, exec (e.1 f) s = .next t ∧ requested s t g (p.pa ea) (e.2.1 f) .read true ∧
         awaits t (s.keptDest (.int f.d (e.2.1 f) e.2.2)) (e.2.1 f)) ∧
     (∀ e ∈ storeForms, tlbHit s .store ea e.2 p → near s g p ea →
       ∃ t, exec (e.1 f) s = .next t ∧
         requestedOnly s t g (p.pa ea) e.2 (.write (BitVec.ofNat 64 ((s.rdInt f.d).toNat % 2 ^ (8 * e.2))))) ∧
     (tlbHit s .store ea (amoBytes f) p → near s g p ea → nothingOutstanding s g → ∃ t, exec (.stl f) s = .next t ∧
       requested s t g (p.pa ea) (amoBytes f) (.write (BitVec.ofNat 64 ((s.rdInt f.d).toNat % 2 ^ (8 * amoBytes f)))) true ∧
       awaits t .none (amoBytes f)) ∧
     (∀ e ∈ amoForms, tlbHit s .rmw (amoAddr s f) (amoBytes f) p → near s g p (amoAddr s f) →
       (f.flags.getLsbD 1 = true → nothingOutstanding s g) →
       ∃ t, exec (e.1 f) s = .next t ∧
         requested s t g (p.pa (amoAddr s f)) (amoBytes f) (.amo e.2.1 (s.rdInt f.index) (s.rdInt f.d)) true ∧
         awaits t (s.keptDest (.int f.d (amoBytes f) false)) (amoBytes f)) ∧
     ∀ e ∈ tagForms, tlbHit s (tagAccess e) ea 8 p → near s g p ea → pageTag p.w1 = true → (e.stores = true → nothingOutstanding s g) →
       ∃ t, exec (e.form f) s = .next t ∧
         (if e.loads || e.stores then
           requested s t g (p.pa ea) 8 (.tagged e.op (if e.stores then s.rdInt f.d else 0)) true ∧
             awaits t (if e.loads then s.keptDest (.int f.d 8 false) else .none) 8
         else requestedOnly s t g (p.pa ea) 8 (.tagged e.op 0))) ∧
  (∀ (f : FmtA) (s : State) (g : Gtid) (p : TlbEntry), onThread s g → s.guardTrue f.g = true →
     let h := s.rdInt f.sa
     let both (code : Nat) : Prop :=
       let out : Host.Outcome State Fault Refusal :=
         .next { s with raised := s.raised ++ [{ unit := 6, code := code, write := true, va := h }] }
       exec (.binapp f) s = out ∧ exec (.binclr f) s = out
     (tlbHit s .rmw h 8 p → ownTile s g p h → h.toNat % 16 = 0 →
       (∃ t, exec (.binapp f) s = .next t ∧
         requested s t g (p.pa h) 8 (.binapp (s.rdInt f.sb) (s.rdInt (f.sb + 1))) true ∧ awaits t (s.keptDest (.int f.d 8 false)) 8) ∧
       ∃ t, exec (.binclr f) s = .next t ∧
         requested s t g (p.pa h) 8 (.binclr (f.mod.getLsbD 0) (s.rdInt f.sb)) true ∧ awaits t (s.keptDest (.int f.d 8 false)) 8) ∧
     (tlbHit s .rmw h 8 p → localHbm p h → h.toNat % 16 = 0 → both 0x11) ∧
     (h.toNat % 16 ≠ 0 → both 0x14))

/-- R138, R145, R372: a home performs the first request of its queue, whole: a read gives the bytes there, a write stores its own
and no other byte, an AMO gives the old bytes and leaves the new ones, a tagged access performs where its tag condition holds and
waits where it does not; the answer goes to the task that asked. R340, R341: what BINAPP and BINCLR do at the tile memory, in one
step: an append stores the record, fills its tags and counts it, or is refused by a full bin, which counts refusals; a clear empties
the tags of the bin's slots and resets its header. The header is at `h`; no task waits for a tag. R377, R378: two FADDs of one
address and width that reach the two inputs of a switch in one cycle combine, while its table of 16 entries has one free: one
request goes on from input 0 with the sum of the increments, the switch keeps both, and a reply with the old value gives it to the
first, and the old value and the first's increment to the second. Nothing else changes. What the spec leaves open here is as the
model chose, log entries 23 and 24. -/
def Obligations.HomesPerformRequests : Prop :=
  (∀ (key : Nat) (s : State) (r : Req) (rest : List Req) (g : Gtid) (k : Nat), s.queue key = r :: rest → r.org = .task g k →
     noErrors s → r.bytes ≤ 8 → r.tail = [] →
     (r.op = .read → ∃ t, exec (.homeAccess key) s = .next t ∧ t.queue key = rest ∧
       answered s t r g k (BitVec.ofNat 64 (bytesFrom s.memByte r.pa r.bytes)) ∧ t.mem = s.mem ∧
       t.tags = s.tags ∧ sameButService s t = s) ∧
     (∀ v, r.op = .write v → ∃ t, exec (.homeAccess key) s = .next t ∧ t.queue key = rest ∧
       answered s t r g k 0 ∧ (∀ i, i < r.bytes → t.memByte (r.pa + i) = byteOf v i) ∧
       otherBytes s t r.pa r.bytes ∧ t.tags = s.tags ∧ sameButService s t = s) ∧
     (∀ e ∈ amoForms, ∀ v c, r.op = .amo e.2.1 v c →
       let old := bytesFrom s.memByte r.pa r.bytes
       ∃ t, exec (.homeAccess key) s = .next t ∧ t.queue key = rest ∧ answered s t r g k (BitVec.ofNat 64 old) ∧
         bytesFrom t.memByte r.pa r.bytes =
           e.2.2 (8 * r.bytes) old (v.toNat % 2 ^ (8 * r.bytes)) (c.toNat % 2 ^ (8 * r.bytes)) ∧
         otherBytes s t r.pa r.bytes ∧ t.tags = s.tags ∧ sameButService s t = s) ∧
     ∀ e ∈ tagForms, ∀ v, r.op = .tagged e.op v → r.pa % 8 = 0 → (∀ w ∈ s.waits, wordAddr w.pa ≠ r.pa) →
       let old := BitVec.ofNat 64 (bytesFrom s.memByte r.pa 8)
       ∃ t, exec (.homeAccess key) s = .next t ∧ t.queue key = rest ∧
         (if e.needs = some (!s.tag r.pa) then
           t.waits = s.waits ++ [r] ∧ t.replies = s.replies ∧ t.nets = s.nets ∧ t.mem = s.mem ∧ t.tags = s.tags
         else
           t.waits = s.waits ∧ answered s t r g k (if e.loads then old else 0) ∧ t.tag r.pa = e.after ∧
             (∀ a, wordAddr a ≠ r.pa → t.tag a = s.tag a) ∧
             (∀ i, i < 8 → t.memByte (r.pa + i) = if e.stores then byteOf v i else s.memByte (r.pa + i)) ∧ otherBytes s t r.pa 8) ∧
         sameButService s t = s) ∧
  (∀ (key : Nat) (s : State) (r : Req) (rest : List Req) (g : Gtid) (k : Nat), s.queue key = r :: rest → r.org = .task g k →
     noErrors s → r.bytes = 8 → r.tail = [] → r.pa % 16 = 0 → s.waits = [] →
     let h := r.pa
     let head := bytesFrom s.memByte h 8
     let f (lo w : Nat) : Nat := head / 2 ^ lo % 2 ^ w
     let slot (a i : Nat) : Prop := a = h + 16 + 16 * i ∨ a = h + 24 + 16 * i
     let room (i : Nat) : Prop := h % 2 ^ 19 + 32 + 16 * i ≤ 2 ^ 19
     (∀ a b, r.op = .binapp a b → ∃ t, exec (.homeAccess key) s = .next t ∧ t.queue key = rest ∧ sameButService s t = s ∧
       (f 0 16 < f 16 16 → room (f 0 16) →
         answered s t r g k (BitVec.ofNat 64 (f 0 16)) ∧ bytesFrom t.memByte h 8 = head + 1 ∧
         bytesFrom t.memByte (h + 16 + 16 * f 0 16) 8 = a.toNat ∧ bytesFrom t.memByte (h + 24 + 16 * f 0 16) 8 = b.toNat ∧
         ∀ x, x % 8 = 0 → t.tag x = true ∧ slot x (f 0 16) ∨ t.tag x = s.tag x ∧ ¬slot x (f 0 16)) ∧
       (f 16 16 ≤ f 0 16 →
         let n := min (f 32 16 + 1) 0xFFFF
         answered s t r g k (BitVec.ofNat 64 (2 ^ 63 + (if f 48 8 ≠ 0 ∧ n = f 48 8 then 2 ^ 62 else 0) + f 56 2 * 2 ^ 56 + n * 2 ^ 32)) ∧
         bytesFrom t.memByte h 8 = head - f 32 16 * 2 ^ 32 + n * 2 ^ 32 ∧ otherBytes s t h 8 ∧ t.tags = s.tags)) ∧
     ∀ set v, r.op = .binclr set v → (f 0 16 = 0 ∨ room (f 0 16 - 1)) →
       ∃ t, exec (.homeAccess key) s = .next t ∧ t.queue key = rest ∧ sameButService s t = s ∧
         answered s t r g k (BitVec.ofNat 64 head) ∧ otherBytes s t h 8 ∧
         BitVec.ofNat 64 (bytesFrom t.memByte h 8) =
           (if set then (v &&& 0x03FF0000FFFF0000) ||| (BitVec.ofNat 64 head &&& 0xFC00000000000000)
           else BitVec.ofNat 64 head &&& 0xFFFF0000FFFF0000) ∧
         ∀ x, x % 8 = 0 → (∃ i, i < f 0 16 ∧ slot x i) ∧ t.tag x = false ∨ (¬∃ i, i < f 0 16 ∧ slot x i) ∧ t.tag x = s.tag x) ∧
  (∀ (die k j : Nat) (s : State) (a b : Req) (ra rb : List Req) (va vb ca cb : Word),
     let n := s.netOf die
     let p := 64 * k + 2 * j
     Tbl.get [] n.fwd p = a :: ra → Tbl.get [] n.fwd (p + 1) = b :: rb → a.since = s.cycle → b.since = s.cycle →
     a.pa = b.pa → a.bytes = b.bytes → windowOf a.pa = .hbm → a.op = .amo .fadd va ca → b.op = .amo .fadd vb cb →
     (Tbl.get [] n.comb (32 * k + j)).length < 16 →
     let c : Comb := { id := s.nextReq, r0 := a, r1 := b }
     ∃ t, exec (.faddCombine die k j) s = .next t ∧
       Tbl.get [] (t.netOf die).fwd p = { a with id := s.nextReq, op := .amo .fadd (va + vb) 0 } :: ra ∧
       Tbl.get [] (t.netOf die).fwd (p + 1) = rb ∧ (∀ q, q ≠ p → q ≠ p + 1 → Tbl.get [] (t.netOf die).fwd q = Tbl.get [] n.fwd q) ∧
       Tbl.get [] (t.netOf die).comb (32 * k + j) = Tbl.get [] n.comb (32 * k + j) ++ [c] ∧
       (∀ q, q ≠ 32 * k + j → Tbl.get [] (t.netOf die).comb q = Tbl.get [] n.comb q) ∧ t.nextReq = s.nextReq + 1 ∧
       { t.netOf die with fwd := n.fwd, comb := n.comb } = n ∧ (∀ d, d ≠ die → t.netOf d = s.netOf d) ∧
       { t with nets := s.nets, nextReq := s.nextReq } = s ∧
       ∀ (x : Rep) (v : Word), x.res = .val v → ∃ y z, splitRep c x = [y, z] ∧ y.req = a ∧ y.res = .val v ∧ y.legs = x.legs ∧ z.req = b ∧
         z.res = .val (BitVec.ofNat 64 ((v + va).toNat % 2 ^ (8 * a.bytes))) ∧ z.legs = b.legs.take 1 ++ b.back)

/-- R132, R391, R392: a registration performs at their homes the pending bytes that the contexts of the word have in its line, and
the L1D owns the word; an eviction leaves nothing of the word in the L1D. No byte outside the line changes. R136, R393, R394:
FENCE.ACQ drops every unowned copy in the row's L1D and nothing else; FENCE.REL, and FENCE before it, registers every pending store
of the context, once none is outstanding, and waits until then; on a thread FENCE.ACQ changes nothing. R136, R394: STL of the Spine
performs after every earlier store of the context, and is visible at its home when it is done; the L1D has room for its line (R3).
What the spec leaves open here is as the model chose, log entry 84. -/
def Obligations.StoresRegisterAndFences : Prop :=
  (∀ (row pa : Nat) (s : State), row < 32 → wordAddr pa = pa → pa < 2 ^ 48 → noErrors s →
     let performed (t : State) : Prop :=
       (∀ a, a / 128 ≠ pa / 128 → t.memByte a = s.memByte a) ∧
         ((s.l1 row pa).pend = [] → t.mem = s.mem) ∧
         (∀ p, (s.l1 row pa).pend = [p] → ∀ a, a / 128 = pa / 128 → t.memByte a = homeByte s row p.g a ∧ nonePending t row p.g a) ∧
         t.tags = s.tags ∧ { sameButHome s t with mem := s.mem } = s
     (∃ t, exec (.registration row pa) s = .next t ∧ performed t ∧ (t.l1 row pa).pend = [] ∧
       ((s.l1 row pa).pend ≠ [] → (t.l1 row pa).owned = true ∧ ∀ r, r < 32 → r ≠ row → (t.l1 r pa).owned = false)) ∧
     ∃ t, exec (.l1dEvict row pa) s = .next t ∧ performed t ∧ t.l1 row pa = {}) ∧
  (∀ (f : FmtA) (s : State) (g : Gtid), s.guardTrue f.g = true →
     (onSpine s g → ∃ t, exec (.fenceAcq f) s = .next t ∧ (∀ a, a < 2 ^ 48 → (t.l1 (spineRow s) a).copy = none) ∧
       (∀ a, a < 2 ^ 48 → (s.l1 (spineRow s) a).pend ≠ [] ∨ (s.l1 (spineRow s) a).owned = true →
         t.l1 (spineRow s) a = { s.l1 (spineRow s) a with copy := none }) ∧
       (∀ r a, r ≠ spineRow s → a < 2 ^ 48 → t.l1 r a = s.l1 r a) ∧ { t with l1d := s.l1d } = s) ∧
     (onThread s g → exec (.fenceAcq f) s = .next s) ∧
     ∀ i ∈ [Instr.fenceRel f, Instr.fence f],
       (onSpine s g → nothingOutstanding s g → noErrors s → ∃ t, exec i s = .next t ∧
         (∀ a, a < 2 ^ 48 → nonePending t (spineRow s) g a ∧ t.memByte a = homeByte s (spineRow s) g a) ∧
         (i = .fence f → ∀ a, a < 2 ^ 48 → (t.l1 (spineRow s) a).copy = none) ∧
         t.tags = s.tags ∧ { sameButHome s t with mem := s.mem } = s) ∧
       (onThread s g → nothingOutstanding s g → exec i s = .next s) ∧
       (onThread s g → (s.task g).unacked ≠ 0 → (s.task g).remoteFail = none → ∃ t, exec i s = .next t ∧
         (∃ r, (curTask t).retry = some r ∧ r.addr = s.curAddr ∧ r.instr = i) ∧ (curTask t).causes.contains .release = true ∧
         onlyTask (fun a b => { b with retry := a.retry, causes := a.causes, st := a.st }) s t)) ∧
  (∀ (f : FmtM) (s : State) (g : Gtid) (p : TlbEntry), onSpine s g → s.guardTrue f.g = true → nothingOutstanding s g →
     tlbHit s .store (specEa s f) (amoBytes f) p → localHbm p (specEa s f) → noErrors s → l1Room s (spineRow s) (p.pa (specEa s f)) →
     let pa := p.pa (specEa s f)
     ∃ t, exec (.stl f) s = .next t ∧ (∀ k, k < amoBytes f → t.memByte (pa + k) = byteOf (s.rdInt f.d) k) ∧
       (∀ a, a < 2 ^ 48 → a < pa ∨ pa + amoBytes f ≤ a → t.memByte a = homeByte s (spineRow s) g a) ∧
       (∀ a, a < 2 ^ 48 → nonePending t (spineRow s) g a) ∧ (t.l1 (spineRow s) pa).owned = true ∧
       t.tags = s.tags ∧ unitFrame (fun s t => { sameButHome s t with mem := s.mem }) (fun _ b => b) (fun _ b => b) s t)

/-- R142, R143: PIN's status is the lowest that applies: 1 beyond the quota, 2 where a set has no way left, 3 where a line cannot be
pinned or the range passes the end of the address space; with 0 every line of its range is pinned by the task's launch, with any
other none more than before. With no memory error, no byte of memory changes. R144: UNPIN gives the bytes released, whole lines, and
takes only the task's launch off lines. R142 to R144, R324: on a thread PIN and UNPIN park the thread until their status is known,
which comes to it as a reply; their destination and every other register are as they were until then. -/
def Obligations.PinAndUnpin : Prop :=
  (∀ (f : FmtA) (s : State) (g : Gtid), onSpine s g → s.guardTrue f.g = true → noErrors s →
     let a := s.rdInt f.sa
     let l := s.rdInt f.sb
     let h := (s.task g).launch
     let (found, s') := s.pinLines s.memTlb g (a &&& ~~~127) (lineCount a l).1
     let bad := (found.filter (·.isNone)).length + if (lineCount a l).2 then 1 else 0
     let new := (found.filterMap id).eraseDups.filter fun pa => !s.isHeldBy pa h
     ∃ t, exec (.pin f) s = .next t ∧ (liveInt t f.d).toNat ≤ 3 ∧
       (liveInt t f.d = 1 ↔ s.quotaOf h < 128 * (s'.heldLines h + new.length + bad)) ∧
       (bad ≠ 0 → liveInt t f.d ≠ 0) ∧ (liveInt t f.d = 3 → bad ≠ 0) ∧
       (liveInt t f.d = 0 → ∀ x ∈ found, ∃ pa, x = some pa ∧ (t.line pa).holders.contains h = true) ∧
       (liveInt t f.d ≠ 0 → ∀ pa, (t.line pa).holders = (s.line pa).holders) ∧
       (∀ k, k ≠ f.d → liveInt t k = liveInt s k) ∧ t.mem = s.mem ∧ t.tags = s.tags ∧ t.shares = s.shares) ∧
  (∀ (f : FmtA) (s : State) (g : Gtid), onSpine s g → s.guardTrue f.g = true → noErrors s →
     ∃ t, exec (.unpin f) s = .next t ∧ (liveInt t f.d).toNat % 128 = 0 ∧
       (∀ pa, (t.line pa).holders = (s.line pa).holders ∨
         (t.line pa).holders = (s.line pa).holders.filter (· ≠ (s.task g).launch)) ∧
       (∀ k, k ≠ f.d → liveInt t k = liveInt s k) ∧ t.mem = s.mem ∧ t.tags = s.tags ∧ t.shares = s.shares) ∧
  (∀ (f : FmtA) (s : State) (g : Gtid), onThread s g → s.guardTrue f.g = true → noErrors s →
     ∀ i ∈ [Instr.pin f, Instr.unpin f], ∃ t, exec i s = .next t ∧ awaits t (s.keptDest (.int f.d 8 false)) 8 ∧
       (∃ v, t.replies = s.replies ++ [{ gtid := g, part := 0, parks := true, res := .val v }]) ∧
       (∀ k, liveInt t k = liveInt s k) ∧ t.mem = s.mem ∧ t.tags = s.tags ∧ t.shares = s.shares)

/-- R374, R385: the maintenance commands on a line: written back and made invalid, written back, or dropped; pinned and held lines
are left alone; DONE is set once no line is left. No byte outside a dropped line changes; a dropped line is again what HBM holds.
R388: slcclr clears the counters of every slice of the die, but for the two that tell what is so now: the lines pinned and the
requests queued; the greatest occupancy starts from the latter. -/
def Obligations.SliceMaintenanceAndCounters : Prop :=
  (∀ (pa : Nat) (s : State),
     (noErrors s → (s.line pa).resident = true → (s.line pa).holders = [] →
       (serves s pa 1 → ∃ t, exec (.sliceWritebackInvalidate pa) s = .next t ∧ (t.line pa).resident = false ∧ (t.line pa).old = [] ∧
         (∀ q, q / 128 ≠ pa / 128 → t.line q = s.line q) ∧ sameButLines s t = s) ∧
       (serves s pa 2 → ∃ t, exec (.sliceWriteback pa) s = .next t ∧ t.line pa = { s.line pa with old := [] } ∧
         (∀ q, q / 128 ≠ pa / 128 → t.line q = s.line q) ∧ sameButLines s t = s)) ∧
     (((s.line pa).holders ≠ [] ∨ (s.line pa).held = true) →
       exec (.sliceWritebackInvalidate pa) s = .next s ∧ exec (.sliceWriteback pa) s = .next s) ∧
     (serves s pa 3 → (s.line pa).held = true → (∀ e ∈ (s.line pa).old, e.1 < 4) →
       ∃ t, exec (.sliceDropHeld pa) s = .next t ∧ t.line pa = { s.line pa with old := [], held := false, resident := false } ∧
         (∀ a, a / 128 ≠ pa / 128 → t.memByte a = s.memByte a ∧ t.tag a = s.tag a) ∧
         (∀ i d g, (s.line pa).old = [(i, d, g)] → ∀ k, k < 32 → t.memByte (pa / 128 * 128 + 32 * i + k) = d.extractLsb' (8 * k) 8) ∧
         { t with lines := s.lines, mem := s.mem, tags := s.tags, flips := s.flips, regs := s.regs } = s) ∧
     ∀ die, let r := dieReg (die % 4) 0 0
       (s.reg r).getLsbD 63 = false → s.slLeft (die % 4) = [] →
       ∃ t, exec (.sliceMaintDone die) s = .next t ∧ t.reg r = s.reg r ||| 0x8000000000000000 ∧
         (∀ q, q ≠ r → t.reg q = s.reg q) ∧ { t with regs := s.regs } = s) ∧
  (∀ (die : Nat) (s : State), die < 4 → ∃ t, exec (.sliceCounterClear die) s = .next t ∧
     (∀ sl, sl < 16 → let c (w : Nat) : Nat := dieReg die 0 (0x10000 + 128 * sl + 8 * w)
       (∀ w, w < 11 → w ≠ 4 → w ≠ 7 → w ≠ 8 → t.reg (c w) = 0) ∧ t.reg (c 4) = s.reg (c 4) ∧ t.reg (c 7) = s.reg (c 7) ∧
         t.reg (c 8) = s.reg (c 7)) ∧
     { t with regs := s.regs, slcLast := s.slcLast, slcClr := s.slcClr } = s)

/-- R420, R421: the TLB invalidations drop exactly the translations of the die that they name, and DONE is set when no request still
stands at a home. R410, R417: a walk that a TLB makes ahead and that finds a leaf puts it at the head of the TLB; one that faults
installs nothing and raises nothing; a walk that no unit asks for has no effect. What the spec leaves open here is as the model
chose, log entries 18, 73 and 74. -/
def Obligations.TranslationsAndWalks : Prop :=
  (∀ (die : Nat) (s : State), die < 4 →
     let cmd := dieReg die 0 0x8000
     let asid := (s.reg (dieReg die 0 0x8008)).toNat % 2 ^ 16
     let drops (i : Instr) (p : TlbEntry → Bool) : Prop := ∃ t, exec i s = .next t ∧
       (∀ k e, tlbDie k = die → e ∈ Tbl.get [] t.tlbs k → p e = false) ∧
       (∀ k e, e ∈ Tbl.get [] s.tlbs k → tlbDie k ≠ die ∨ p e = false → e ∈ Tbl.get [] t.tlbs k) ∧ { t with tlbs := s.tlbs } = s
     (runsCommand s cmd 1 → drops (.tlbInvalidateAll die) fun _ => true) ∧
     (runsCommand s cmd 2 → drops (.tlbInvalidateAsid die) fun e => e.asid = asid) ∧
     (runsCommand s cmd 3 → drops (.tlbInvalidateRange die) fun e =>
       e.asid = asid && e.meets (s.reg (dieReg die 0 0x8010)) (s.reg (dieReg die 0 0x8018)).toNat) ∧
     ((s.reg cmd).getLsbD 63 = false → s.netIdle = true → (∀ e ∈ s.l1d, e.2.pend = []) → (∀ e ∈ s.tasks, e.2.remoteOut = []) →
       ∃ t, exec (.tlbInvalidateDone die) s = .next t ∧
         t.reg cmd = s.reg cmd ||| 0x8000000000000000 ∧ (∀ q, q ≠ cmd → t.reg q = s.reg q) ∧ { t with regs := s.regs, tlbs := s.tlbs } = s) ∧
     (s.netIdle = false → exec (.tlbInvalidateDone die) s = .next s)) ∧
  (∀ (tlb asid root : Nat) (va : Word) (s : State),
     (s.prefetchDue.contains ⟨tlb, asid, root, va⟩ = false → exec (.pageWalk tlb asid root va) s = .next s) ∧
     (s.prefetchDue.contains ⟨tlb, asid, root, va⟩ = true → ∃ t, exec (.pageWalk tlb asid root va) s = .next t ∧
       (∀ w0 w1 big, (s.walk 0 root va).1 = .leaf w0 w1 big →
         (Tbl.get [] t.tlbs tlb).head? =
           some { asid := asid, big := big, page := va.toNat / (if big then 2 ^ 28 else 2 ^ 16), w0 := w0, w1 := w1 }) ∧
       ((∀ w0 w1 big, (s.walk 0 root va).1 ≠ .leaf w0 w1 big) → t.tlbs = s.tlbs) ∧
       t.tasks = s.tasks ∧ t.shares = s.shares ∧ t.raised = s.raised ∧ t.faultPend = s.faultPend))

/-- R383, R385 to R387: a correctable error is corrected and recorded in its array's log and count; an uncorrectable one is recorded
and faults the task whose access found it; neither changes a register of any other task. The scrubber reads one atom and goes on to
the next. Arming injection sets the register's RW bits. What the spec leaves open here is as the model chose, log entries 45, 46, 47
and 48. -/
def Obligations.MemoryErrors : Prop :=
  (∀ (e : ErrSite) (s : State), e.die < 4 → e.array < 0x200 →
    let elog (i : Nat) : Nat := dieReg e.die 0 (0x2000 + 32 * e.array + 8 * i)
    let count (ue : Bool) : Nat := dieReg e.die 0 (0x6000 + 16 * e.array + (if ue then 8 else 0))
    (∃ t, exec (.correctableError e) s = .next t ∧ t.reg (elog 1) = e.syndrome ∧ t.reg (elog 2) = e.gtid ∧
      t.reg (elog 3) = s.dcc ∧ t.reg (count false) = s.reg (count false) + 1 ∧ t.tasks = s.tasks ∧ t.shares = s.shares ∧
      t.faultPend = s.faultPend) ∧
    ∃ t, exec (.uncorrectableError e) s = .next t ∧ t.reg (elog 1) = e.syndrome ∧ t.reg (elog 2) = e.gtid ∧
      t.reg (count true) = s.reg (count true) + 1 ∧ (∀ g, g ≠ e.gtid → t.task g = s.task g) ∧
      (e.gtid = 0 → t.tasks = s.tasks ∧ t.faultPend = s.faultPend) ∧
      (0x100 ≤ e.array → e.gtid ≠ 0 → (s.task e.gtid).bound = true → (∀ r ∈ s.faultPend, r.gtid ≠ e.gtid) →
        (t.task e.gtid).causes.contains .fault = true ∧ ∃ r, t.faultPend = s.faultPend ++ [r] ∧ r.code = 0x18 ∧ r.gtid = e.gtid)) ∧
  (∀ (die : Nat) (s : State), die < 4 →
    (s.reg (dieReg die 0 0x38) = 0 → exec (.scrubRead die) s = .next s) ∧
    (s.reg (dieReg die 0 0x38) ≠ 0 → ∃ t, exec (.scrubRead die) s = .next t ∧
      Tbl.get 0 t.scrubAt die = (Tbl.get 0 s.scrubAt die + 32) % 2 ^ 38 ∧ t.tasks = s.tasks ∧ t.faultPend = s.faultPend)) ∧
  ∀ (die : Nat) (v : Word) (s : State), die < 4 → ∃ t, exec (.errorInject die v) s = .next t ∧
    t.reg (dieReg die 0 0x80) = (s.reg (dieReg die 0 0x80) &&& 0x3000000000000000) ||| (v &&& 0xCFFFFFFFFFFFFFFF) ∧
    (∀ q, q ≠ dieReg die 0 0x80 → t.reg q = s.reg q) ∧ { t with regs := s.regs } = s

/-- R184, R34: a vector instruction whose guard is true raises SHAPE for an invalid shape, then ILLOP for a format its entry does
not accept, then SHAPE for a register too small or its own condition; and has no other effect. R185, R187, R192, R193, R195, R198,
R199, R201, R204 to R207, R209: each position the instruction writes receives its element, every other keeps its bits; the flags of
the written positions are ORed into fmode; nothing else changes. -/
def Obligations.VectorElementsAndChecks : Prop :=
  (∀ e ∈ vectorForms ++ otherVectorForms, ∀ (f : FmtV) (s : State), s.guardTrue f.g = true →
     (shapeValid s.vshapeNow s.regBytes = false → raisesV (e.form f) s 0x04) ∧
     (shapeValid s.vshapeNow s.regBytes = true → e.accept f (vF s f) = false → raisesV (e.form f) s 0x01) ∧
     (shapeValid s.vshapeNow s.regBytes = true → e.accept f (vF s f) = true →
       (e.fits s f = false ∨ ∃ x ∈ e.formats f (vF s f), 8 * s.regBytes < vN s * fmtBits x) → raisesV (e.form f) s 0x04)) ∧
  (∀ e ∈ vectorForms, ∀ (f : FmtV) (s : State), s.guardTrue f.g = true → vReady s (e.formats f (vF s f)) →
     e.accept f (vF s f) = true → e.fits s f = true →
     ∃ t, exec (e.form f) s = .next t ∧
       (∀ i, i < vN s → elemOf (liveVreg t (vD f)) (vW s f) i =
         if e.wrote s f i then (e.elem s f i).bits % 2 ^ vW s f else elemOf (s.rdVec (vD f)) (vW s f) i) ∧
       (∀ b, vN s * vW s f ≤ b → (liveVreg t (vD f)).getLsbD b = (s.rdVec (vD f)).getLsbD b) ∧
       flagsGained s t (((List.range (vN s)).filter (e.wrote s f)).foldl (fun a i => a ||| (e.elem s f i).flags) 0) ∧
       onlyVec s t (vD f))

/-- R27, R28, R196, R197: VCMP and the operations on masks write the bits of their positions of a mask; a write to m0 is discarded;
no vector register changes. R197, R208: VMCNT, VMFIRST and VEXT write an integer register, and nothing else. R208, R212: VINS writes
the one element its index names, where the mask selects it; VSHAPE writes vshape. -/
def Obligations.VectorMasksAndMoves : Prop :=
  ((∀ e ∈ maskForms, ∀ (f : FmtV) (s : State), s.guardTrue f.g = true → vReady s [] →
     ∃ t, exec (e.1 f) s = .next t ∧
       (∀ i, i < vN s → f.vd ≠ 0 →
         (liveMask t f.vd.toNat).getLsbD i = e.2 ((s.rdMask f.va.toNat).getLsbD i) ((s.rdMask f.vb.toNat).getLsbD i)) ∧
       onlyMask s t f.vd.toNat ∧ liveFmode t = liveFmode s ∧ t.flagAcc = s.flagAcc) ∧
   ∀ (f : FmtV) (s : State), s.guardTrue f.g = true → vReady s [vF s f] →
     (if vF s f = 8 ∨ vF s f = 9 then f.aux.toNat ≠ 3 ∧ f.aux.toNat ≠ 7 else f.aux.toNat ≤ 4) →
     ∃ t, exec (.vcmp f) s = .next t ∧
       (∀ i, i < vN s → f.vd ≠ 0 → (liveMask t f.vd.toNat).getLsbD i =
         if vSel s f i then (specVcmp s f i).1 else (s.rdMask f.vd.toNat).getLsbD i) ∧
       flagsGained s t (((List.range (vN s)).filter (vSel s f)).foldl (fun a i => a ||| (specVcmp s f i).2) 0) ∧
       onlyMask s t f.vd.toNat) ∧
  (∀ (f : FmtV) (s : State), s.guardTrue f.g = true →
     let gives (i : Instr) (v : Word) : Prop :=
       ∃ t, exec i s = .next t ∧ liveInt t f.vd = (if keptByV s f.vd.toNat then liveInt s f.vd else v) ∧ onlyInt s t f.vd
     (vReady s [] →
       gives (.vmcnt f) (BitVec.ofNat 64 ((List.range (vN s)).countP (s.rdMask f.va.toNat).getLsbD)) ∧
       gives (.vmfirst f) (BitVec.ofNat 64 (((List.range (vN s)).find? (s.rdMask f.va.toNat).getLsbD).getD (vN s)))) ∧
     (vReady s [vF s f] →
       let k := (s.scalarC f).toNat
       gives (.vext f) (if vN s ≤ k then 0
         else if vF s f = 8 ∨ vF s f = 9 then BitVec.ofInt 64 (signOf (vW s f) (vA s f k)) else BitVec.ofNat 64 (vA s f k)))) ∧
  (∀ (f : FmtV) (s : State), s.guardTrue f.g = true →
     (vReady s [vF s f] →
       let k := (s.rdInt f.va).toNat
       (¬(k < vN s ∧ vSel s f k = true) → exec (.vins f) s = .next s) ∧
       (k < vN s → vSel s f k = true → ∃ t, exec (.vins f) s = .next t ∧
         elemOf (liveVreg t (vD f)) (vW s f) k = (s.scalarC f).toNat % 2 ^ vW s f ∧
         (∀ i, i < vN s → i ≠ k → elemOf (liveVreg t (vD f)) (vW s f) i = elemOf (s.rdVec (vD f)) (vW s f) i) ∧
         (∀ b, vN s * vW s f ≤ b → (liveVreg t (vD f)).getLsbD b = (s.rdVec (vD f)).getLsbD b) ∧ onlyVec s t (vD f) ∧
         liveFmode t = liveFmode s)) ∧
     ∃ t, exec (.vshape f) s = .next t ∧
       (let w := if s.onCore then (curShare t).vshape else (curTask t).vshape
        if f.aux.getLsbD 0 then
          shapeRows w = shapeCols s.vshapeNow ∧ shapeCols w = shapeRows s.vshapeNow ∧ w.toNat / 2 ^ 24 = s.vshapeNow.toNat / 2 ^ 24
        else w = BitVec.ofNat 64 ((s.scalarC f).toNat % 2 ^ 28)) ∧
       unitFrame (fun s t => { t with tasks := s.tasks, shares := s.shares, vDests := s.vDests })
         (fun a b => if s.onCore then b else { b with vshape := a.vshape })
         (fun a b => if s.onCore then { b with vshape := a.vshape } else b) s t)

/-- R155, R202, R203, R180, R181: VRED writes the tree's result of each list at its position, VSCAN the sequence along each list at
the positions selected; every other position keeps its element. R211, R213: VSORT permutes each row into order and gives each key's
column; VTOPK takes the first k of the selected columns in descending order, and fills up with zero and 0xFFFF. R210: NZSCAN lists
the indices of the selected elements that are not zero, as many as the register holds, clears the rest of the register, and counts
them all. R200, R177: VQNT writes each element quantised under the scale of its block and the band's, and beside it the scales of
the blocks, the band scale in the last two bytes, and zeros. What the spec leaves open here is as the model chose, log entry 28. -/
def Obligations.VectorReductionAndSelection : Prop :=
  (∀ (f : FmtV) (s : State), s.guardTrue f.g = true → vReady s [vF s f] →
     (((vF s f = 8 ∨ vF s f = 9) ∨ f.aux.toNat ≤ 2 ∧ 1 ≤ vF s f ∧ vF s f ≤ 4) ∧
       (f.rmode = 7 ∨ f.aux = 0 ∧ 1 ≤ vF s f ∧ vF s f ≤ 4)) →
     let old (i : Nat) : Nat := elemOf (s.rdVec (vD f)) (vW s f) i
     (∃ t, exec (.vred f) s = .next t ∧
       (∀ l ∈ specLists s f, elemOf (liveVreg t (vD f)) (vW s f) l.1 =
         (reduceList (vF s f) (redOf s f) (selected s f l.2)).1 % 2 ^ vW s f) ∧
       (∀ i, i < vN s → (∀ l ∈ specLists s f, i ≠ l.1) → elemOf (liveVreg t (vD f)) (vW s f) i = old i) ∧
       flagsGained s t ((specLists s f).foldl (fun a l => a ||| (reduceList (vF s f) (redOf s f) (selected s f l.2)).2) 0) ∧
       onlyVec s t (vD f)) ∧
     ∃ t, exec (.vscan f) s = .next t ∧
       (∀ l ∈ specLists s f, ∀ j (h : j < (l.2.filter (vSel s f)).length),
         elemOf (liveVreg t (vD f)) (vW s f) ((l.2.filter (vSel s f))[j]) =
           (scanList (vF s f) (redOf s f) (selected s f l.2)).1.getD j 0 % 2 ^ vW s f) ∧
       (∀ i, i < vN s → vSel s f i = false → elemOf (liveVreg t (vD f)) (vW s f) i = old i) ∧
       flagsGained s t ((specLists s f).foldl (fun a l => a ||| (scanList (vF s f) (redOf s f) (selected s f l.2)).2) 0) ∧
       onlyVec s t (vD f)) ∧
  (∀ (f : FmtV) (s : State), s.guardTrue f.g = true → vReady s [vF s f] →
     let rows := shapeRows s.vshapeNow
     let cols := shapeCols s.vshapeNow
     let at' (r c : Nat) : Nat := vA s f (r * cols + c)
     (f.aux.getLsbD 1 = false ∨ vF s f = 8 ∨ vF s f = 9 → vN s * 2 ≤ s.regBytes →
       let less := keyLess (vF s f) (f.aux.getLsbD 1) true
       ∃ t, exec (.vsort f) s = .next t ∧
         (∀ r, r < rows → ∃ l : List Nat, l.Perm (List.range cols) ∧
           ordered (fun a b => if f.aux.getLsbD 0 then less (at' r b) (at' r a) else less (at' r a) (at' r b)) l ∧
           ∀ j, j < cols → elemOf (liveVreg t (vD f)) (vW s f) (r * cols + j) = at' r (l.getD j 0) ∧
             elemOf (liveVreg t (vD f + 1)) 16 (r * cols + j) = l.getD j 0) ∧
         onlyPair s t (vD f) ∧ liveFmode t = liveFmode s) ∧
     (f.aux.toNat + 1 ≤ cols → rows * (f.aux.toNat + 1) * 2 ≤ s.regBytes →
       let k := f.aux.toNat + 1
       ∃ t, exec (.vtopk f) s = .next t ∧
         (∀ r, r < rows → ∃ l : List Nat, l.Perm ((List.range cols).filter fun c => vSel s f (r * cols + c)) ∧
           ordered (fun a b => keyLess (vF s f) false false (at' r b) (at' r a)) l ∧
           ∀ j, j < k → elemOf (liveVreg t (vD f)) (vW s f) (r * cols + j) = (if j < l.length then at' r (l.getD j 0) else 0) ∧
             elemOf (liveVreg t (vD f + 1)) 16 (r * k + j) = if j < l.length then l.getD j 0 else 0xFFFF) ∧
         (∀ r c, r < rows → k ≤ c → c < cols →
           elemOf (liveVreg t (vD f)) (vW s f) (r * cols + c) = elemOf (s.rdVec (vD f)) (vW s f) (r * cols + c)) ∧
         onlyPair s t (vD f) ∧ liveFmode t = liveFmode s)) ∧
  (∀ (f : FmtV) (s : State), s.guardTrue f.g = true → vReady s [vF s f] →
     let hits := (List.range (vN s)).filter fun i => vSel s f i && specNonZero s f i
     ∃ t, exec (.nzscan f) s = .next t ∧
       (∀ j, j < s.regBytes / 2 → elemOf (liveVreg t (vD f)) 16 j = hits.getD j 0) ∧
       (∀ b, 8 * s.regBytes ≤ b → (liveVreg t (vD f)).getLsbD b = false) ∧
       liveInt t f.vc = (if keptByV s f.vc.toNat then liveInt s f.vc else BitVec.ofNat 64 hits.length) ∧
       (∀ n, n ≠ f.vc → liveInt t n = liveInt s n) ∧ (∀ n, n ≠ vD f → liveVreg t n = liveVreg s n) ∧
       unitFrame (fun s t => { t with tasks := s.tasks, shares := s.shares, vDests := s.vDests })
         (fun a b => if s.onCore then b else { b with vec := a.vec, r := a.r })
         (fun a b => if s.onCore then { b with vec := a.vec, a := a.a } else b) s t) ∧
  (∀ (f : FmtV) (s : State), s.guardTrue f.g = true →
     let G := f.vb.toNat % 16
     let F := vF s f
     vReady s [G, F] → 2 ≤ G → G ≤ 4 → 5 ≤ F → F ≤ 7 → shapeCols s.vshapeNow % 16 = 0 →
     (f.aux = 2 → shapeRows s.vshapeNow ≤ 64) →
     let x (i : Nat) : FVal := fDecode (floatFmt G) (elemOf (s.vecA f) (fmtBits G) i)
     let bd : Nat := if f.aux = 1 then 0x3F80 else if f.aux = 2 then bandScale F ((List.range (vN s)).map x)
       else (s.scalarC f).toNat % 2 ^ 16
     let sc (b : Nat) : Nat := blockScale F bd ((List.range 16).map fun j => x (16 * b + j))
     let q (i : Nat) : FRes := quantElem F (s.roundMode f.rmode.toNat) bd (sc (i / 16)) (x i)
     ∃ t, exec (.vqnt f) s = .next t ∧
       (∀ i, i < vN s → elemOf (liveVreg t (vD f)) (vW s f) i = (q i).bits % 2 ^ vW s f) ∧
       (∀ b, b < vN s / 16 → elemOf (liveVreg t (vD f + 1)) 8 b = sc b % 256) ∧
       elemOf (liveVreg t (vD f + 1)) 16 (s.regBytes / 2 - 1) = bd % 2 ^ 16 ∧
       (∀ k, vN s / 16 ≤ k → k + 2 < s.regBytes → elemOf (liveVreg t (vD f + 1)) 8 k = 0) ∧
       flagsGained s t ((List.range (vN s)).foldl (fun a i => a ||| (q i).flags) 0) ∧
       onlyPair s t (vD f))

/-- R280, R281: LDS reads and STS writes the bytes at EA of the share's scratchpad; an access its partition or its bound forbids
raises PERM and has no other effect. R214 to R216: LDV and LDVT write the elements of their rows to a vector register; STV stores
its rows, the highest row last. Every other byte and register stays. R215, R217, R323, R324: on a binning core, LDV and LDVT send a
read for every piece of every row to its home and the thread parks; STV sends its writes, with the bytes of its register, and the
thread goes on. With CONV the rows are counted in the page's own format. What the spec leaves open here is as the model chose, log
entries 10 and 25. -/
def Obligations.ScratchpadAccesses : Prop :=
  (∀ (f : FmtM) (s : State), s.guardTrue f.g = true →
     let o := (specEa s f).toNat
     let n := specSpWidth f
     (spGood s o n →
       (∃ t, exec (.lds f) s = .next t ∧
         liveInt t f.d = (if keptByV s f.d.toNat then liveInt s f.d
           else specExtend n (f.flags.getLsbD 2) (bytesFrom (spadByte (curShare s)) o n)) ∧ onlyInt s (portsOf s t) f.d) ∧
       ∃ t, exec (.sts f) s = .next t ∧ (∀ k, k < n → spadByte (curShare t) (o + k) = byteOf (s.rdInt f.d) k) ∧
         (∀ a, a < o ∨ o + n ≤ a → spadByte (curShare t) a = spadByte (curShare s) a) ∧ onlySpad s t) ∧
     (¬spReach (curTask s) (curShare s) o n →
       let fault (w : Bool) : Host.Outcome State Fault Refusal :=
         .next { s with raised := s.raised ++ [{ unit := 1, code := 0x11, write := w, spad := true, va := BitVec.ofNat 64 o }] }
       exec (.lds f) s = fault false ∧ exec (.sts f) s = fault true)) ∧
  (∀ (f : FmtM) (s : State), s.guardTrue f.g = true →
     let w := shapeW s
     let d := memVec f
     let off (tr : Bool) (r : Nat) : Nat := (rowStart s f (rowBytes s tr w) r).toNat
     let good (tr : Bool) : Prop := vecMemReady s tr ∧ ∀ r, r < rowCount s tr → spGood s (off tr r) (rowBytes s tr w)
     let rest (t : State) : Prop := (∀ b, vN s * w ≤ b → (liveVreg t d).getLsbD b = (s.rdVec d).getLsbD b) ∧ onlyVec s (portsOf s t) d ∧
       liveFmode t = liveFmode s
     (good false → ∃ t, exec (.ldv f) s = .next t ∧
       (∀ r k, r < rowCount s false → k < rowBytes s false w →
         elemOf (liveVreg t d) 8 (r * rowBytes s false w + k) = (spadByte (curShare s) (off false r + k)).toNat) ∧ rest t) ∧
     (good true → ∃ t, exec (.ldvt f) s = .next t ∧
       (∀ r c, r < shapeRows s.vshapeNow → c < shapeCols s.vshapeNow →
         elemOf (liveVreg t d) w (r * shapeCols s.vshapeNow + c) =
           bytesFrom (spadByte (curShare s)) (off true c) (rowBytes s true w) / 2 ^ (r * w) % 2 ^ w) ∧ rest t) ∧
     (good false → ∃ t, exec (.stv f) s = .next t ∧
       (∀ r k, r < rowCount s false → k < rowBytes s false w →
         (∀ r', r < r' → r' < rowCount s false → off false r + k < off false r' ∨ off false r' + rowBytes s false w ≤ off false r + k) →
         (spadByte (curShare t) (off false r + k)).toNat = elemOf (s.rdVec d) 8 (r * rowBytes s false w + k)) ∧
       (∀ a, (∀ r, r < rowCount s false → a < off false r ∨ off false r + rowBytes s false w ≤ a) →
         spadByte (curShare t) a = spadByte (curShare s) a) ∧ onlySpad s t)) ∧
  (∀ (f : FmtM) (s : State) (g : Gtid) (p : TlbEntry), onThread s g → s.guardTrue f.g = true →
     let pw := fmtBits (pageFmt p.w1)
     let conv := f.flags.getLsbD 1
     let w := if conv then pw else shapeW s
     let frame (t : State) : Prop := { t with bcQueues := s.bcQueues, tasks := s.tasks } = s ∧ (∀ k, liveInt t k = liveInt s k) ∧
       (liveVec t) = (liveVec s) ∧ ∀ g', g' ≠ g → t.task g' = s.task g'
     let loads (i : Instr) (tr : Bool) (plain : MemDest) : Prop :=
       vecMemReady s tr → (conv = true → pw ≠ 0 ∧ rowElems s tr * pw % 8 = 0) →
         rowsHit s .load f p (rowCount s tr) (rowBytes s tr w) →
         let l := rowPieces s f p (rowCount s tr) (rowBytes s tr w)
         ∃ t, exec i s = .next t ∧ queueGains s t g (l.map fun x => (x.1, x.2, .read)) ∧ frame t ∧
           (curTask t).causes.contains .reply = true ∧ ∃ m, (curTask t).memOp = some m ∧
             m.parts = l.map (fun x => (x.2, none)) ∧ (conv = false → m.dest = s.keptDest plain)
     loads (.ldvBc f) false (.vec (memVec f)) ∧
     loads (.ldvtBc f) true (.vecT (memVec f) (shapeRows s.vshapeNow) (shapeCols s.vshapeNow) (shapeW s)) ∧
     (vecMemReady s false → rowsHit s .store f p (rowCount s false) (rowBytes s false (shapeW s)) →
       let l := rowPieces s f p (rowCount s false) (rowBytes s false (shapeW s))
       ∃ t, exec (.stvBc f) s = .next t ∧ frame t ∧ (curTask t).causes = (curTask s).causes ∧
         queueGains s t g (cutInto (s.rdVec (memVec f)).toNat l) ∧ (curTask t).unacked = (curTask s).unacked + l.length))

/-- R241, R255, R264, R541, R306: an engine syllable enters the queue of its engine behind the commands before it, with its operands
as read, and owes its push; QCFG writes qcfg at once; the angle instructions raise ILLOP under a qcfg that does not permit them.
R287, R288, R292, R306: a copy that the core accepts receives its channel's next identifier; with the command stage free and a token
in every queue it pops, it takes them and stands in the issue buffer; while a token is missing it waits in the command stage. A copy
the core refuses raises ILLOP. What the spec leaves open here is as the model chose, log entries 89 and 90. -/
def Obligations.EngineAndCopyIssue : Prop :=
  (∀ e ∈ engineForms, ∀ (f : FmtE) (s : State), s.guardTrue f.g = true →
     let badQ := e.2.2 = 2 ∧ e.2.1 ≠ .qcfg ∧ (qcfgValid s.rdShare.qcfg = false ∨
       (qGm s.rdShare.qcfg = true ∧ (e.2.1 = .qtri ∨ e.2.1 = .qang ∨ e.2.1 = .qsolve)))
     (badQ → exec (e.1 f) s = .next { s with raised := s.raised ++ [{ unit := s.syllUnit 4, code := 0x01 }] }) ∧
     (¬badQ → ∃ t k, exec (e.1 f) s = .next t ∧ captured s e.2.1 f k ∧
       (curShare t).cmds e.2.2 = (curShare s).cmds e.2.2 ++ [k] ∧
       (∀ e', e' ≠ e.2.2 → (curShare t).cmds e' = (curShare s).cmds e') ∧ owesPush (curShare s) (curShare t) e.2.2 f ∧
       (curShare t).qcfg = (if e.2.1 = .qcfg then specEngine s f.opa (f.fsel.getLsbD 2) &&& 0x03FFFF3F else (curShare s).qcfg) ∧
       unitFrame (fun s t => { t with shares := s.shares }) (fun _ b => b) queuesOf s t)) ∧
  (∀ e ∈ copyForms, ∀ (f : FmtE) (s : State), s.guardTrue f.g = true →
     (copyRefused s e.2 f → exec (e.1 f) s = .next { s with raised := s.raised ++ [{ unit := s.syllUnit 5, code := 0x01 }] }) ∧
     (¬copyRefused s e.2 f → ∃ t, exec (e.1 f) s = .next t ∧
       (let ch := f.mod.toNat % 8
        let n := Tbl.get 0 (curShare s).cpNext ch
        Tbl.get 0 (curShare t).cpNext ch = n + 1 ∧
        (∀ ch', ch' ≠ ch → Tbl.get 0 (curShare t).cpNext ch' = Tbl.get 0 (curShare s).cpNext ch') ∧
        (stageFree (curShare s) → popsReady (curShare s) 3 f → (curShare t).cpq = [] ∧ popsTaken (curShare s) (curShare t) 3 f ∧
          ∃ k, captured s e.2 f k ∧ k.id = n ∧ (∀ i, i < 6 → k.dim i = s.rdShare.shapeWord (f.mod.extractLsb' 3 2).toNat i) ∧
            (curShare t).copies = (curShare s).copies ++ [{ cmd := k }]) ∧
        (stageFree (curShare s) → ¬popsReady (curShare s) 3 f → (curShare t).copies = (curShare s).copies ∧
          (curShare t).tokens = (curShare s).tokens ∧ ∃ k, captured s e.2 f k ∧ k.id = n ∧ (curShare t).cpq = [k])) ∧
       unitFrame (fun s t => { t with shares := s.shares }) (fun _ b => b) stageOf s t))

/-- R294, R302, R304, R306, R393, R569: a completion wait, once its bundle executes, is an acquire, and takes its pops in its
engine's order; XWAIT and XWAIT.DRAIN without pops are an acquire and nothing more. R83, R301, R306: ARRV adds its operand to its
arrival counter. VTOK takes a token from every queue it pops, and its push is due. TOKEN_PUSH performs a push that is due where its
queue has room, and no other. What the spec leaves open here is as the model chose, log entries 75 and 89. -/
def Obligations.WaitsAndTokens : Prop :=
  (∀ (f : FmtE) (s : State), s.guardTrue f.g = true →
     (∀ i ∈ [Instr.cpw f, Instr.waitb f], ∃ t, exec i s = .next t ∧ acquired s t ∧
       (stageFree (curShare s) → popsReady (curShare s) 3 f →
         (curShare t).cpq = [] ∧ (curShare t).copies = (curShare s).copies ∧ popsTaken (curShare s) (curShare t) 3 f ∧
         (f.push ≠ 0 → ∃ d ∈ Tbl.get [] (curShare t).dues 3,
           d.seq = (curShare s).seq ∧ d.dest = f.push.toNat - 1 ∧ d.retired = true)) ∧
       unitFrame (fun s t => { t with shares := s.shares, l1d := s.l1d }) (fun _ b => b) stageOf s t) ∧
     ∀ i ∈ [Instr.xwait f, Instr.xwaitDrain f], ∃ t, exec i s = .next t ∧ acquired s t ∧
       (f.pop = 0 → curShare t = curShare s) ∧
       (f.pop ≠ 0 → ∃ k, captured s .xwait f k ∧ (curShare t).xeq = (curShare s).xeq ++ [k]) ∧
       unitFrame (fun s t => { t with shares := s.shares, l1d := s.l1d }) (fun _ b => b) queuesOf s t) ∧
  ((∀ (f : FmtE) (s : State), s.guardTrue f.g = true → ∃ t, exec (.arrv f) s = .next t ∧
     (let c := f.mod.toNat % 64
      Tbl.get 0 (curShare t).ac c = Tbl.get 0 (curShare s).ac c + specEngine s f.opa (f.fsel.getLsbD 2) ∧
      ∀ c', c' ≠ c → Tbl.get 0 (curShare t).ac c' = Tbl.get 0 (curShare s).ac c') ∧
     unitFrame (fun s t => { t with shares := s.shares }) (fun _ b => b) (fun a b => { b with ac := a.ac }) s t) ∧
   (∀ (f : FmtE) (s : State), s.guardTrue f.g = true → popsReady (curShare s) 0 f → ∃ t, exec (.vtok f) s = .next t ∧
     popsTaken (curShare s) (curShare t) 0 f ∧
     (f.push ≠ 0 → Tbl.get [] (curShare t).dues 0 = Tbl.get [] (curShare s).dues 0 ++
       [{ seq := (curShare s).seq, dest := f.push.toNat - 1, retired := true }]) ∧
     unitFrame (fun s t => { t with shares := s.shares }) (fun _ b => b)
       (fun a b => { b with tokens := a.tokens, dues := a.dues, seq := a.seq }) s t) ∧
   ∀ (g : Gtid) (c : Nat) (e : Engine) (s : State), (s.share g c).cpq = [] →
     let h := s.share g c
     let n := engineNo e
     ∃ t, exec (.tokenPush g c e) s = .next t ∧
       (∀ d, ((h.nextDues n).find? fun d => decide (tokensAt h n d.dest < 16)) = some d →
         tokensAt (t.share g c) n d.dest = tokensAt h n d.dest + 1 ∧
         Tbl.get [] (t.share g c).dues n = (Tbl.get [] h.dues n).erase d) ∧
       (((h.nextDues n).find? fun d => decide (tokensAt h n d.dest < 16)) = none → t.share g c = h) ∧
       (∀ g' c', shareKey g' c' ≠ shareKey g c → t.share g' c' = s.share g' c') ∧ { t with shares := s.shares } = s)

/-- R232, R235, R236: the oldest MX instruction starts when its kind's condition holds and every queue it pops holds a token: it
takes the tokens and enters its pipe. With no instruction, or a token missing, nothing happens. R264: the oldest QR instruction
starts when QR is idle and every queue it pops holds a token. What the spec leaves open here is as the model chose, log entries 25
and 26. -/
def Obligations.EnginesStartInstructions : Prop :=
  (∀ (g : Gtid) (c : Nat) (s : State),
     let h := s.share g c
     (∀ k rest, engineReady s g c 1 → s.pipeTaken g c pipeMxStart = false → h.mxq = k :: rest → popsReady h 1 k.f → h.mxReady k.op s.cycle = true →
       ∃ t, exec (.mxStart g c) s = .next t ∧ (t.share g c).mxq = rest ∧ popsTaken h (t.share g c) 1 k.f ∧
         (k.op ∈ [EngOp.mldb, .mring, .gmma] → ∃ r, (t.share g c).mxLoad = some r ∧ r.cmd = k ∧ r.beat = 0) ∧
         (k.op ∉ [EngOp.mldb, .mring] → ∃ r, (t.share g c).mxComp = some r ∧ r.cmd = k ∧ r.row = 0) ∧
         onlyShareAt s t g c fun a b => { b with mxq := a.mxq, tokens := a.tokens, mxLoad := a.mxLoad, mxComp := a.mxComp }) ∧
     ((∀ k rest, h.mxq = k :: rest → ¬popsReady h 1 k.f) → exec (.mxStart g c) s = .next s)) ∧
  (∀ (g : Gtid) (c : Nat) (s : State),
     let h := s.share g c
     (∀ k rest, engineReady s g c 2 → s.qrElsewhere g c = false → h.qrRun = none → h.qrq = k :: rest → popsReady h 2 k.f →
       ∃ t r, exec (.qrStart g c) s = .next t ∧ (t.share g c).qrq = rest ∧ popsTaken h (t.share g c) 2 k.f ∧
         (t.share g c).qrRun = some r ∧ r.cmd = k ∧ r.row = 0 ∧ r.group = 0 ∧
         onlyShareAt s t g c fun a b => { b with qrq := a.qrq, tokens := a.tokens, qrRun := a.qrRun }) ∧
     ((h.qrRun ≠ none ∨ ∀ k rest, h.qrq = k :: rest → ¬popsReady h 2 k.f) → exec (.qrStart g c) s = .next s))

/-- R224, R228, R231, R233, R243, R245, R248, R250: MX in one cycle. MSWAP exchanges the planes; MZERO clears the tiles of its mask;
MSTREAM sets the port's format, base and scale; a row of MMA or MMAS whose A has no scales enters the array with its results, for
INT8 the dot products, to be written 63 cycles later; a row that is due is written to its tile. R244: a core that executes MRING
sends the next beat of its plane to its eastern neighbour, and writes the beat that has come from the west into its shadow plane
once it has sent that beat of its own. What the spec leaves open here is as the model chose, log entries 26, 77, 78 and 79. -/
def Obligations.MatrixEngineWorks : Prop :=
  (∀ (g : Gtid) (c : Nat) (s : State) (r : Running), engineRuns s g c → s.pipeTaken g c pipeComp = false → portsFree s →
     let h := s.share g c
     let k := r.cmd
     (onlyComputes h r → k.op = .mswap → ∃ t, exec (.mxRetire g c) s = .next t ∧ (t.share g c).active = h.shadow ∧
       (t.share g c).shadow = h.active ∧ (t.share g c).mxComp = none ∧ pushDue h (t.share g c) 1 k ∧
       onlyShareAt s t g c fun a b =>
         { b with active := a.active, shadow := a.shadow, loadFrom := a.loadFrom, mxComp := a.mxComp, dues := a.dues }) ∧
     (onlyComputes h r → k.op = .mzero → ∃ t, exec (.mxRetire g c) s = .next t ∧
       (∀ z i, i < 1024 → Tbl.get 0 (t.share g c).z (1024 * z + i) = if k.f.mod.toNat.testBit z then 0 else Tbl.get 0 h.z (1024 * z + i)) ∧
       (t.share g c).mxComp = none ∧ pushDue h (t.share g c) 1 k ∧
       onlyShareAt s t g c fun a b => { b with z := a.z, mxComp := a.mxComp, dues := a.dues }) ∧
     (onlyComputes h r → k.op = .mstream → ∃ t, exec (.mxRetire g c) s = .next t ∧
       (let p := (t.share g c).port
        p.kind = (k.f.mod.extractLsb' 4 2).toNat ∧ p.ofmt = k.f.mod.toNat % 16 ∧ p.acc = k.f.mod.getLsbD 6 ∧ p.base = k.a ∧
        p.scale = k.c.setWidth 32 ∧ (p.kind = 2 → p.expert = Word.field k.b 0 16) ∧
        (p.kind ≠ 2 → p.stride = Word.field k.b 0 32 ∧ p.tile = Word.field k.b 32 12)) ∧
       (t.share g c).mxComp = none ∧ pushDue h (t.share g c) 1 k ∧
       onlyShareAt s t g c fun a b => { b with port := a.port, mxComp := a.mxComp, dues := a.dues }) ∧
     (onlyComputes h r → k.op = .mma ∨ k.op = .mmas → r.row < Word.field k.b 32 16 →
       ((k.f.mod.extractLsb' 1 2).toNat = 0 ∨ h.active.fmt < 5 ∨ 7 < h.active.fmt) →
       let n := if k.op = .mmas then 2048 else weightLen h.active.fmt
       let o := (k.a + BitVec.ofNat 64 (r.row * Word.field k.b 0 32)).toNat
       spGoodAt s g c o n → ∃ t x, exec (.mxRetire g c) s = .next t ∧ (t.share g c).mxFly = [x] ∧ x.cmd = k ∧ x.row = r.row ∧
         x.due = s.cycle + 63 ∧ x.prec = accFmt h.active.fmt ∧
         (h.active.fmt < 5 ∨ 7 < h.active.fmt → x.ys = h.active.results { bytes := spadNat h o n } (decide (k.op = .mmas))) ∧
         (h.active.fmt = 8 → k.op = .mma →
           x.ys = (List.range 32).map fun j => int8Dot (spadNat h o n) (Tbl.get 0 h.active.w j).toNat) ∧
         (r.row + 1 < Word.field k.b 32 16 → (t.share g c).mxComp = some { r with row := r.row + 1 }) ∧
         (Word.field k.b 32 16 ≤ r.row + 1 → (t.share g c).mxComp = none) ∧
         onlyShareAt s t g c fun a b => { b with mxFly := a.mxFly, mxComp := a.mxComp, mxFin := a.mxFin }) ∧
     ∀ x rest, h.mxComp = none → h.mxLoad = none → h.mxFly = x :: rest → x.due ≤ s.cycle → x.ys.length = 32 →
       (x.cmd.op = .mma ∨ x.cmd.op = .mmas) → (x.cmd.f.mod.extractLsb' 3 2).toNat = 1 →
       let z := (x.cmd.f.mod.extractLsb' 5 3).toNat
       ∃ t, exec (.mxRetire g c) s = .next t ∧ (t.share g c).mxFly = rest ∧
         (∀ j, j < 32 → Tbl.get 0 (t.share g c).z (1024 * z + 32 * (x.row % 32) + j) = BitVec.ofNat 64 (x.ys.getD j 0)) ∧
         (∀ i, i < 1024 * z + 32 * (x.row % 32) ∨ 1024 * z + 32 * (x.row % 32) + 32 ≤ i →
           Tbl.get 0 (t.share g c).z i = Tbl.get 0 h.z i) ∧
         onlyShareAt s t g c fun a b => { b with mxFly := a.mxFly, z := a.z, mxFin := a.mxFin, dues := a.dues }) ∧
  (∀ (g : Gtid) (c : Nat) (s : State) (r : Running), engineRuns s g c → (s.share g c).mxLoad = some r → r.cmd.op = .mring →
     s.pipeTaken g c pipeLoad = false →
     let h := s.share g c
     let east := (c + 1) % 8
     let beats (p : Plane) : Nat := tileBeats p.fmt p.sp p.geo
     (r.beat < beats r.own → h.ring = [] → ∃ t, exec (.mringBeat g c) s = .next t ∧
       (t.share g c).mxLoad = some { r with beat := r.beat + 1 } ∧
       (∃ b, (t.share g east).ring = (s.share g east).ring ++ [b] ∧ b.data = r.own.beat r.beat ∧ b.idx = r.beat ∧ b.fmt = r.own.fmt ∧
         b.sp = r.own.sp ∧ b.geo = r.own.geo ∧ b.band = r.own.band ∧ b.due = s.cycle + 2) ∧
       (t.share g c).shadow = h.shadow ∧ (∀ c', c' < 8 → c' ≠ c → c' ≠ east → t.share g c' = s.share g c') ∧
       { t with shares := s.shares } = s) ∧
     ∀ b rest, r.beat = beats r.own → h.ring = b :: rest → b.due ≤ s.cycle → (r.last = 0 ∨ r.row ≠ r.last) → 0 < b.idx →
       ∃ t, exec (.mringBeat g c) s = .next t ∧ (t.share g c).ring = rest ∧ (t.share g c).shadow = h.shadow.putBeat b.idx b.data ∧
         (t.share g c).mxLoad = some { r with row := r.row + 1, last := tileBeats b.fmt b.sp b.geo } ∧
         onlyShareAt s t g c fun a b => { b with ring := a.ring, shadow := a.shadow, mxLoad := a.mxLoad })

/-- R253, R264, R270, R274: QR in one step. QROT applies its word to its two rows, and leaves the register as it was for a null
rotation; a pair that is no pair of rows sets PLAN. A beat of QLDT's raw form loads its words of the register, and a beat of QSTT's
stores them. What the spec leaves open here is as the model chose, log entries 26, 76 and 80. -/
def Obligations.WhiskEngineWorks : Prop :=
  ∀ (g : Gtid) (c : Nat) (s : State) (r : Running), engineRuns s g c → (s.share g c).qrRun = some r → r.due ≤ s.cycle → r.phase = 1 →
    (s.share g c).qrFly = [] → s.qrElsewhere g c = false → portsFree s →
    let h := s.share g c
    let k := r.cmd
    let reg (x : Share) : TriReg := Tbl.get {} x.t (k.f.mod.toNat % 4)
    let p := Word.field k.b 0 4
    let q := Word.field k.b 4 4
    let others (t : State) : Prop := ∀ i, i ≠ k.f.mod.toNat % 4 → Tbl.get {} (t.share g c).t i = Tbl.get {} h.t i
    let raw := (k.f.mod.extractLsb' 2 2).toNat = 0
    let first := 64 * r.row
    let count := Nat.min 64 (545 - 64 * r.row)
    let off := (k.a + BitVec.ofNat 64 (512 * r.row)).toNat
    (k.op = .qrot → ∃ t, exec (.qrRetire g c) s = .next t ∧
      (p = q → (reg (t.share g c)).status = (reg h).status ||| 0x10 ∧ { reg (t.share g c) with status := (reg h).status } = reg h) ∧
      (p ≠ q → k.a.getLsbD 63 = true → reg (t.share g c) = reg h) ∧
      (p ≠ q → reg (t.share g c) = (reg h).applyWord k.a p q (qCols k.qcfg) (qDepth k.qcfg) (qGm k.qcfg)) ∧
      others t ∧ onlyShareAt s t g c fun a b => { b with t := a.t, qrRun := a.qrRun, dues := a.dues, fmode := a.fmode }) ∧
    (k.op = .qldt → raw → r.row < 9 → spGoodAt s g c off (8 * count) → ∃ t, exec (.qrRetire g c) s = .next t ∧
      (∀ i, i < count → (reg (t.share g c)).imageWord (first + i) =
        (if first + i = 544 then BitVec.ofNat 64 (spadNat h (off + 8 * i) 8) &&& 0x1F else BitVec.ofNat 64 (spadNat h (off + 8 * i) 8))) ∧
      (∀ i, i < 545 → i < first ∨ first + count ≤ i → (reg (t.share g c)).imageWord i = (reg h).imageWord i) ∧ others t ∧
      (r.row < 8 → (t.share g c).qrRun = some { r with row := r.row + 1, due := s.cycle + 1 }) ∧
      (r.row = 8 → (t.share g c).qrRun = none ∧ pushDue h (t.share g c) 2 k) ∧
      onlyShareAt s t g c fun a b => { b with t := a.t, qrRun := a.qrRun, dues := a.dues }) ∧
    (k.op = .qstt → raw → r.row < 9 → spReach (s.task g) h off (8 * count) → ∃ t, exec (.qrRetire g c) s = .next t ∧
      (∀ i, i < count → spadNat (t.share g c) (off + 8 * i) 8 = ((reg h).imageWord (first + i)).toNat) ∧
      (∀ a, a < off ∨ off + 8 * count ≤ a → spadByte (t.share g c) a = spadByte h a) ∧
      (r.row < 8 → (t.share g c).qrRun = some { r with row := r.row + 1, due := s.cycle + 1 }) ∧
      (r.row = 8 → (t.share g c).qrRun = none ∧ pushDue h (t.share g c) 2 k) ∧
      (∀ g' c', shareKey g' c' ≠ shareKey g c → t.share g' c' = s.share g' c') ∧
      { t.share g c with spm := h.spm, qrRun := h.qrRun, dues := h.dues } = h ∧
      { banksOf s t with shares := s.shares, flips := s.flips, regs := s.regs } = s)

/-- R291 to R293, R296, R300, R306: a channel begins the copy of least issue time among its due ones; a beat of a CP from one
scratchpad to another moves its bytes, and credits the arrival counter of the destination's core; one that begins within a word ends
with one, and a copy whose beats are all done leaves the buffer, and its push is due. What the spec leaves open here is as the model
chose, log entries 25 and 90. -/
def Obligations.CopyEngineWorks : Prop :=
  ∀ (g : Gtid) (c : Nat) (s : State) (x : Copy),
    let h := s.share g c
    let k := x.cmd
    (engineReady s g c 3 → x ∈ h.copies → x.due = false → k.time.toNat ≤ s.dcc.toNat →
      (∀ y ∈ h.copies, y.cmd.chan = k.chan ∧ y.due = false ∧ (y ≠ x → comesFirst k y.cmd ∨ s.dcc.toNat < y.cmd.time.toNat)) →
      ∃ t, exec (.copyDue g c) s = .next t ∧
        (t.share g c).copies = h.copies.map (fun y => if y = x then { y with due := true } else y) ∧
        onlyShareAt s t g c fun a b => { b with copies := a.copies }) ∧
    (engineRuns s g c → h.nextBeat = some x → k.op = .cp → k.dsp = true → k.ssp = true → s.beatFree g c = true → portsFree s →
      (∀ c', c' < 8 → c' ≠ c → (s.share g c').nextBeat = none) →
      let b := x.pos % k.n0
      let r := x.pos / k.n0 % k.n1
      let p := x.pos / (k.n0 * k.n1)
      let (dc, db) := spOperand c k.a
      let (sc, sb) := spOperand c k.b
      let d := linearOff db (k.dim 4) (k.dim 3) p r b
      let o := linearOff sb (k.dim 2) (k.dim 1) p r b
      let n := Nat.min (Nat.min (128 - d.toNat % 8) (k.n0 - b)) (Nat.min (2048 - d.toNat % 2048) (2048 - o.toNat % 2048))
      p < k.clip2 → r < k.clip1 → k.n0 ≤ k.clip0 → 0 ≤ d → 0 ≤ o → spGoodAt s g sc o.toNat n → spReach (s.task g) (s.share g dc) d.toNat n →
      ∃ t, exec (.copyBeat g c) s = .next t ∧ 0 < n ∧
        (∀ i, i < n → spadByte (t.share g dc) (d.toNat + i) = spadByte (s.share g sc) (o.toNat + i)) ∧
        (∀ a, a < d.toNat ∨ d.toNat + n ≤ a → spadByte (t.share g dc) a = spadByte (s.share g dc) a) ∧
        (∀ c', c' < 8 → c' ≠ dc → (t.share g c').spm = (s.share g c').spm) ∧
        (t.share g c).copies = h.copies.map (fun y => if y = x then { y with beat := y.beat + 1, pos := y.pos + n } else y) ∧
        (∀ i, Tbl.get 0 (t.share g dc).ac i =
          Tbl.get 0 (s.share g dc).ac i - (if k.c.getLsbD 6 = true ∧ i = Word.field k.c 0 6 then BitVec.ofNat 64 n else 0)) ∧
        (∀ c', c' < 8 → let a := s.share g c'
          { t.share g c' with copies := a.copies, cpTurn := a.cpTurn, spm := a.spm, ac := a.ac, credits := a.credits, beatAt := a.beatAt,
                               beatNo := a.beatNo } = a) ∧
        (∀ g' c', g' ≠ g → t.share g' c' = s.share g' c') ∧
        { banksOf s t with shares := s.shares, flips := s.flips, regs := s.regs } = s) ∧
    (engineRuns s g c → h.copies.find? (fun y => decide (if y.cmd.nominal = 0 then y.cmd.time.toNat ≤ s.dcc.toNat
        else y.due = true ∧ y.cmd.nominal ≤ y.pos)) = some x →
      ∃ t, exec (.copyComplete g c) s = .next t ∧ (t.share g c).copies = h.copies.filter (fun y => decide (y ≠ x)) ∧
        pushDue h (t.share g c) 3 k ∧ onlyShareAt s t g c fun a b => { b with copies := a.copies, dues := a.dues })

/-- R541, R544, R545, R566: the oldest exchange syllable of a core takes its pops and starts; a read of a counter gives its value to
the register, a set or an addition changes that counter alone, a read of its error bit clears it. R544, R545, R548: a credit adds to
its counter, and to no other. The first finished operation of an engine ends: its local counter's error bit is set where a peer
failed, and its credit is to follow. What the spec leaves open here is as the model chose, log entries 68, 69 and 70. -/
def Obligations.ExchangeSyllablesAndCredits : Prop :=
  (∀ (g : Gtid) (c : Nat) (s : State) (k : Cmd) (rest : List Cmd), (∃ d r b, (s.task g).place = .row d r b) → c < 8 →
     s.pipeTaken g c pipeXe = false → s.withheld 2 (s.task g) = false →
     let h := s.share g c
     let ref := Word.field k.b 0 14
     h.xeq = k :: rest → popsReady h 4 k.f → s.fab.answers = [] → noTriggers s ref →
     let base (t : State) : Prop := (t.share g c).xeq = rest ∧ popsTaken h (t.share g c) 4 k.f ∧
       (∀ g' c', shareKey g' c' ≠ shareKey g c → t.share g' c' = s.share g' c') ∧
       { t.share g c with xeq := h.xeq, tokens := h.tokens, a := h.a, usedAt := h.usedAt } = h ∧ { t with shares := s.shares, xch := s.xch } = s
     let result (t : State) (w : Word) : Prop := ∀ n : BitVec 6, Tbl.get 0 (t.share g c).a n.toNat = if n = k.f.opa then w else Tbl.get 0 h.a n.toNat
     (k.op = .xcntRead → ∃ t, exec (.xeStart g c) s = .next t ∧ base t ∧ result t (xCounter s ref) ∧ t.xch = s.xch) ∧
     (k.op = .xcntErr → ∃ t, exec (.xeStart g c) s = .next t ∧ base t ∧ result t (if xError s ref then 1 else 0) ∧
       xError t ref = false ∧ xCounter t ref = xCounter s ref ∧ onlyCounter s t ref) ∧
     (k.op = .xcntSet → ∃ t, exec (.xeStart g c) s = .next t ∧ base t ∧ (t.share g c).a = h.a ∧ xCounter t ref = k.a ∧
       xError t ref = false ∧ onlyCounter s t ref) ∧
     (k.op = .xcntAdd → ∃ t, exec (.xeStart g c) s = .next t ∧ base t ∧ (t.share g c).a = h.a ∧ xCounter t ref = xCounter s ref + k.a ∧
       xError t ref = xError s ref ∧ onlyCounter s t ref)) ∧
  ((∀ (ref n : Nat) (s : State), noTriggers s ref → ∃ t, exec (.receiveCounterCredit ref n) s = .next t ∧
     xCounter t ref = xCounter s ref + BitVec.ofNat 64 n ∧ xError t ref = xError s ref ∧ onlyCounter s t ref ∧ { t with xch := s.xch } = s) ∧
   ∀ (die : Nat) (s : State), die < 4 →
     (∀ o, (Tbl.get {} s.xch die).ops.find? XOp.finished = some o → o.id % 4 = die → ∃ t, exec (.putComplete die) s = .next t ∧
       (Tbl.get {} t.xch die).ops = (Tbl.get {} s.xch die).ops.filter (fun y => decide (y.id ≠ o.id)) ∧
       (let n := o.send.lcn % 2 ^ 14
        (o.send.lce = true → t.agenda = s.agenda ++ [.receiveCounterCredit n 1]) ∧ (o.send.lce = false → t.agenda = s.agenda) ∧
        (∀ r, r < 2 ^ 14 → xCounter t r = xCounter s r) ∧
        ∀ r, r < 2 ^ 14 → xError t r = (xError s r || (o.send.lce && o.peers.any (·.failed) && decide (r = n)))) ∧
       { t with xch := s.xch, agenda := s.agenda } = s) ∧
     ((Tbl.get {} s.xch die).ops.find? XOp.finished = none → exec (.putComplete die) s = .next s))

/-- R78, R319, R342, R344: the fetch unit takes the whole bundle at the PC from the instruction cache of its unit, as the line
stands there; a miss reads the line at its home into the cache, while a thread is parked; a task that may not fetch fetches nothing.
R343 to R346, R316 to R318, R352: the Spine issues its next bundle: it enters the wavefront with the s registers as they are, and
its X syllable runs; each core then executes the M, V and E syllables of the bundle of its age, or, when it catches up, of the
bundle whose syllables a fault suppressed; a thread issues its V and S syllables, on the registers as they stand. Syllables held
back execute alone, the oldest first, a thread's on the registers from before its bundle. What the spec leaves open here is as the
model chose, log entries 1, 18, 87 and 88. -/
def Obligations.FetchAndIssue : Prop :=
  (∀ (g : Gtid) (s : State),
     (∀ p, mayFetch s g → codeHit s g p →
       let pa := p.pa (s.task g).pc
       let k := icKey (s.task g)
       let cache (x : State) : List (Nat × List Word) := Tbl.get [] x.icache k
       (∀ ws, (cache s).find? (fun e => e.1 = pa / 128) = some ws → ∃ t, exec (.bundleFetch g) s = .next t ∧
         hasFetched s t g (fun i => ws.2.getD (pa % 128 / 8 + i) 0) ∧ { t with tasks := s.tasks } = s) ∧
       ((cache s).find? (fun e => e.1 = pa / 128) = none →
         ((s.task g).isRow = false → (s.task g).causes.contains .fetch = false → ∃ t, exec (.bundleFetch g) s = .next t ∧
           (t.task g).causes = (s.task g).causes ++ [.fetch] ∧ (t.task g).st = .parked ∧
           onlyTaskAt s t g (fun a b => { b with causes := a.causes, st := a.st }) ∧ { t with tasks := s.tasks } = s) ∧
         ((s.task g).isRow = true ∨ (s.task g).causes.contains .fetch = true → noErrors s → ∃ t, exec (.bundleFetch g) s = .next t ∧
           hasFetched s t g (fun i => s.memWord (pa + 8 * i)) ∧
           (∃ ws, cache t = ((pa / 128, ws) :: cache s).take (if (s.task g).isRow then 1024 else 256) ∧ ws.length = 16 ∧
             ∀ i, i < 16 → ws.getD i 0 = s.memWord (pa / 128 * 128 + 8 * i)) ∧
           (∀ k', k' ≠ k → Tbl.get [] t.icache k' = Tbl.get [] s.icache k') ∧
           { sameButLines s t with icache := s.icache, tasks := s.tasks } = s))) ∧
     (¬mayFetch s g → exec (.bundleFetch g) s = .next s)) ∧
  ((∀ (g : Gtid) (s : State), s.pending = [] → spineMay s g →
     (∀ r l, (s.task g).redo = r :: l → ∃ t, exec (.spineIssue g) s = .next t ∧ (t.task g).redo = l ∧ begins t none [] (alone (.spine g) r) ∧
       onlyTaskAt s t g (fun a b => { b with redo := a.redo }) ∧ { bundleOf s t with tasks := s.tasks } = s) ∧
     ∀ f, (s.task g).redo = [] → (s.task g).fetched = some f → (s.task g).exited = false → (s.task g).issueAt ≤ (s.task g).rowCycle →
       (s.task g).wave.length < 17 → s.broken g = false → ∃ t e, exec (.spineIssue g) s = .next t ∧
         begins t none [] [syllable (.spine g) f.addr f.w0 f.w1 false false] ∧ (t.task g).wave = (s.task g).wave ++ [e] ∧
         e = { idx := (s.task g).bundleIdx, addr := f.addr, m := if f.w0.toNat / 2 ^ 57 = 0x03 then 0 else f.w1, v := f.w2, e := f.w3,
               issued := (s.task g).rowCycle, carried := (s.task g).r, csr := [], done := 0 } ∧
         (t.task g).bundleIdx = (s.task g).bundleIdx + 1 ∧ (t.task g).fetched = none ∧ (t.task g).nextPc = none ∧
         onlyTaskAt s t g (fun a b => { b with wave := a.wave, bundleIdx := a.bundleIdx, fetched := a.fetched, nextPc := a.nextPc, brkPast := a.brkPast }) ∧
         { bundleOf s t with tasks := s.tasks } = s) ∧
   (∀ (g : Gtid) (c : Nat) (s : State) (e : WaveEntry), s.pending = [] → c < 8 → e ∈ (s.task g).wave →
     e.idx = (s.share g c).nextIdx → e.done.getLsbD c = false → (∀ x ∈ (s.task g).wave, x.idx = e.idx → x = e) →
     (if (s.task g).catchUp.getLsbD c then (s.task g).frozenNow = false ∧ s.holdsRow (s.task g) = true
      else (s.task g).rowCycle = e.issued + 2 + 2 * c) →
     ∃ t, exec (.coreExecute g c) s = .next t ∧
       begins t (some (s.task g, s.share g c)) e.carried
         (if e.m.toNat / 2 ^ 57 = 0x35 then
           [syllable (.core g c) e.addr e.m e.v false false, syllable (.core g c) e.addr e.e 0 false true]
         else [syllable (.core g c) e.addr e.m 0 false false, syllable (.core g c) e.addr e.v 0 true false,
               syllable (.core g c) e.addr e.e 0 false true]) ∧ t.spClaims = some [] ∧
       { bundleOf s t with spClaims := s.spClaims } = s) ∧
   ∀ (g : Gtid) (s : State), s.pending = [] → threadMay s g →
     (∀ r l, (s.task g).redo = r :: l → s.bcRoom g r.instr.enc = true → ∃ t, exec (.bcIssue g) s = .next t ∧ (t.task g).redo = l ∧
       begins t (some (asThen (t.task g) r, {})) [] (alone (.bc g) r) r.vDests ∧
       (t.task g).lastIssue = s.cycle + 1 ∧ (t.task g).readyAt = s.cycle + 8 ∧
       onlyTaskAt s t g (fun a b => { b with redo := a.redo, lastIssue := a.lastIssue, readyAt := a.readyAt }) ∧
       { bundleOf s t with tasks := s.tasks } = s) ∧
     ∀ f, (s.task g).redo = [] → (s.task g).fetched = some f → (s.task g).exited = false → s.broken g = false →
       s.bcRoom g (parse f.w0 f.w1) = true →
       (isLiteral f.w0 = true ∨ f.w1 = 0 ∨ Tbl.get 0 s.bcVec (bcKey (s.task g).die (s.task g).bcNo) ≤ s.cycle) →
       (divCycles f.w0 = 0 ∨ Tbl.get 0 s.bcDiv (bcKey (s.task g).die (s.task g).bcNo) ≤ s.cycle) → ∃ t, exec (.bcIssue g) s = .next t ∧
         begins t (some (t.task g, {})) []
           ((if isLiteral f.w0 then [] else [syllable (.bc g) f.addr f.w1 0 true false]) ++ [syllable (.bc g) f.addr f.w0 f.w1 false false]) ∧
         (t.task g).lastIssue = s.cycle + 1 ∧ s.cycle + 8 ≤ (t.task g).readyAt ∧ (t.task g).nextPc = none ∧
         onlyTaskAt s t g (fun a b => { b with lastIssue := a.lastIssue, readyAt := a.readyAt, nextPc := a.nextPc, brkPast := a.brkPast }) ∧
         { bundleOf s t with tasks := s.tasks, bcVec := s.bcVec, bcDiv := s.bcDiv } = s)

/-- R42, R136, R152, R322, R324, R326, R335, R336, R459: the last reply of an access writes its register and the task goes on; an
acknowledgement counts down; a syllable that waited for earlier stores executes when they are done; a wake message frees a thread
that waits for a translation; a service's reply goes to its register. R58, R308, R335, R352, R463: a resume clears what held the
task: the fault, with the engines of its cores free again, or the watchdog, whose count starts anew. A record with RESTART 0 has no
return: its gang ends. What the spec leaves open here is as the model chose, log entries 43, 44 and 87. -/
def Obligations.WaitsEndAndHeldTasksGoOn : Prop :=
  ((∀ (g : Gtid) (s : State) (r : Reply) (l : List Reply) (v : Word), (s.task g).bound = true → firstReply s g r l → r.res = .val v →
     (∀ (m : MemOp) (n : Nat) (d : BitVec 6) (sx : Bool), r.parks = true → r.part = 0 → (s.task g).memOp = some m → m.parts = [(n, none)] →
       m.dest = .int d n sx → m.acquire = false → (n = 1 ∨ n = 2 ∨ n = 4 ∨ n = 8) → ∃ t, exec (replyStep s g) s = .next t ∧ t.replies = l ∧
         (t.task g).memOp = none ∧ regOf t g d = specExtend n sx (v.toNat % 2 ^ (8 * n)) ∧ (∀ k, k ≠ d → regOf t g k = regOf s g k) ∧
         (∀ c, (t.task g).causes.contains c =
           ((s.task g).causes.contains c && decide (c ≠ .reply ∧ c ≠ .tag ∧ c ≠ .status ∧ c ≠ .release))) ∧
         onlyTaskAt s t g (fun a b => { b with r := a.r, memOp := a.memOp, causes := a.causes, st := a.st }) ∧
         { t with tasks := s.tasks, replies := s.replies } = s) ∧
     (∀ (m : MemOp) (n len : Nat) (va : Word), r.parks = true → r.part = 0 → (s.task g).memOp = some m → m.parts = [(n, none)] →
       m.dest = .got va len → m.acquire = false → ∃ t, exec (replyStep s g) s = .next t ∧ t.replies = l ∧ (t.task g).memOp = none ∧
         (t.task g).got = (s.task g).got ++ [(va, len, v.toNat % 2 ^ (8 * n))] ∧ (t.task g).redo = (s.task g).redo ++ [m.redo] ∧
         onlyTaskAt s t g (fun a b => { b with got := a.got, redo := a.redo, memOp := a.memOp, causes := a.causes, st := a.st }) ∧
         { t with tasks := s.tasks, replies := s.replies } = s) ∧
     (r.parks = false → ∃ t, exec (replyStep s g) s = .next t ∧ t.replies = l ∧ (t.task g).unacked = (s.task g).unacked - 1 ∧
       onlyTaskAt s t g (fun a b => { b with unacked := a.unacked }) ∧ { t with tasks := s.tasks, replies := s.replies } = s)) ∧
   (∀ (g : Gtid) (s : State) (x : Redo), (s.task g).bound = true → (s.task g).retry = some x → nothingOutstanding s g →
     (∀ r ∈ s.replies, r.gtid ≠ g) → ∃ t, exec (.waitSatisfied g) s = .next t ∧ (t.task g).redo = (s.task g).redo ++ [x] ∧ (t.task g).retry = none ∧
       (∀ c, (t.task g).causes.contains c = ((s.task g).causes.contains c && decide (c ≠ .tag ∧ c ≠ .status ∧ c ≠ .release))) ∧
       onlyTaskAt s t g (fun a b => { b with redo := a.redo, retry := a.retry, causes := a.causes, st := a.st }) ∧
       { t with tasks := s.tasks } = s) ∧
   (∀ (g : Gtid) (s : State), (s.task g).isRow = false → (s.task g).bound = true →
     ((s.task g).causes.contains .translation = true → ∃ t, exec (.bwake g) s = .next t ∧
       (∀ c, (t.task g).causes.contains c = ((s.task g).causes.contains c && decide (c ≠ .translation))) ∧
       t.faultHeld = s.faultHeld.filter (fun f => decide (f.gtid ≠ g) || !f.wakes) ∧
       onlyTaskAt s t g (fun a b => { b with causes := a.causes, st := a.st }) ∧ { t with tasks := s.tasks, faultHeld := s.faultHeld } = s) ∧
     ((s.task g).causes.contains .translation = false → exec (.bwake g) s = .next s)) ∧
   ∀ (g : Gtid) (s : State) (q : SyscReq), (s.task g).bound = true → s.syscs.find? (fun q => q.gtid = g) = some q →
     ∃ t, exec (.syscReply g) s = .next t ∧ (∀ d, q.d = some d → regOf t g d = specService s g q.svc q.arg) ∧
       (∀ k, some k ≠ q.d → regOf t g k = regOf s g k) ∧ t.syscs = s.syscs.filter (fun x => decide (x.gtid ≠ g)) ∧ (t.task g).causes.contains .sysc = false ∧
       onlyTaskAt s t g (fun a b => { b with r := a.r, causes := a.causes, st := a.st }) ∧ { t with tasks := s.tasks, syscs := s.syscs } = s) ∧
  (∀ (g : Gtid) (n : Nat) (s : State),
     ((s.heldOf g)[n]? = none → exec (.resumeTask g n) s = .next s) ∧
     ∀ f, (s.heldOf g)[n]? = some f → f.xop = none → f.unit ≠ 9 →
       (∀ l x, f.restart = false → s.gang? (s.task g).launch (s.task g).gang = some (l, x) → x.tasks.Nodup → noErrors s →
         ∃ t, exec (.resumeTask g n) s = .next t ∧ endsGang s t x ∧ t.tags = s.tags ∧
           ((∀ h ∈ x.tasks, (s.task h).isRow = false) → t.mem = s.mem)) ∧
       (f.restart = true → f.code = 0x20 → ∃ t, exec (.resumeTask g n) s = .next t ∧ (t.task g).wdCount = 0 ∧
         (∀ c, (t.task g).causes.contains c = ((s.task g).causes.contains c && decide (c ≠ .watchdog))) ∧ t.faultHeld = s.faultHeld.erase f ∧
         onlyTaskAt s t g (fun a b => { b with causes := a.causes, st := a.st, wdCount := a.wdCount }) ∧
         { t with tasks := s.tasks, faultHeld := s.faultHeld } = s) ∧
       (f.restart = true → f.code ≠ 0x20 → (s.task g).causes.contains .translation = false → s.heldByOther f = false →
         (∀ c, c < 8 → (s.share g c).cpq = []) → ∃ t, exec (.resumeTask g n) s = .next t ∧
           (∀ c, (t.task g).causes.contains c = ((s.task g).causes.contains c && decide (c ≠ .fault))) ∧ t.faultHeld = s.faultHeld.erase f ∧
           ((s.task g).isRow = true → ∀ c, c < 8 → (t.share g c).stopped = false) ∧
           (∀ g' c', { t.share g' c' with stopped := (s.share g' c').stopped } = s.share g' c') ∧
           onlyTaskAt s t g (fun a b => { b with causes := a.causes, st := a.st, frame := a.frame }) ∧
           { t with tasks := s.tasks, shares := s.shares, faultHeld := s.faultHeld } = s))

/-- R331, R332, R376: four cycles after its bundle would have issued, and with every request acknowledged, a migrating thread's
packet goes to the inbox of the owner of the tile memory: its slot is free, and of its vector registers only those vcarry names
travel. When its 13 beats and four for each such register have passed the network's stages, the owner takes the first packet of its
inbox into its free slot of lowest number, where the thread goes on 16 cycles later. R47, R339: SPAWN answers 0 once its launch has
used every index, 1 while 256 spawned tasks of the die wait; else the new task takes the next index of its launch, queued behind
those that wait, with its entry, its arguments, and the spawner's mode and space; the thread waits for the reply. SPAWN is a release
first. The first spawned task whose gang runs, and for which there is a slot, is bound to it. What the spec leaves open here is as
the model chose, log entries 40 and 102. -/
def Obligations.ThreadsMigrateAndSpawn : Prop :=
  ((∀ (g : Gtid) (s : State) (d b0 k b : Nat), (s.task g).place = .bc d b0 k → (s.task g).migTo = some b →
     (s.task g).causes.contains .migration = true → (s.task g).migAt + 4 ≤ s.cycle → (s.task g).unacked = 0 →
     (s.inboxOf d b).length < 16 → s.earlierMigration g = false →
     ∃ t, exec (.migrationSend g) s = .next t ∧ (t.task g).place = .inbox d b ∧ (t.task g).migTo = none ∧ (t.task g).fetched = none ∧
       (t.task g).migAt = s.cycle + (13 + 4 * (s.task g).carriedVecs.length) + 6 ∧ (t.task g).readyAt = (t.task g).migAt + 16 ∧
       t.inboxOf d b = s.inboxOf d b ++ [g] ∧ (∀ d' b', bcKey d' b' ≠ bcKey d b → t.inboxOf d' b' = s.inboxOf d' b') ∧
       (∀ n, carries (s.task g) n → Tbl.get 0 (t.task g).vec.v n = Tbl.get 0 (s.task g).vec.v n) ∧
       (∀ n, ¬carries (s.task g) n → Tbl.get 0 (t.task g).vec.v n = 0) ∧ (t.task g).vec.m = (s.task g).vec.m ∧
       (∀ r, (inSlot (bslotAt d b0 k) r → t.reg r = 0) ∧ (¬inSlot (bslotAt d b0 k) r → t.reg r = s.reg r)) ∧
       onlyTaskAt s t g (fun a b => { b with place := a.place, migTo := a.migTo, fetched := a.fetched, migAt := a.migAt, readyAt := a.readyAt, vec := a.vec }) ∧
       { t with tasks := s.tasks, regs := s.regs, sched := { t.sched with inbox := s.sched.inbox } } = s) ∧
   ∀ (g : Gtid) (s : State) (d b k : Nat) (rest : List Gtid), (s.task g).place = .inbox d b → s.inboxOf d b = g :: rest →
     (s.task g).migAt ≤ s.cycle →
     k < Tbl.get 16 s.sched.modes d → s.slotTask d b k = none → (∀ k', k' < k → s.slotTask d b k' ≠ none) →
     (s.task g).slotRec.length = 8 → ∃ t, exec (.migrationArrive g) s = .next t ∧ (t.task g).place = .bc d b k ∧ t.inboxOf d b = rest ∧
       (∀ i, i < 8 → t.reg (bslotAt d b k + 8 * i) = (s.task g).slotRec.getD i 0) ∧
       (∀ r, ¬inSlot (bslotAt d b k) r → t.reg r = s.reg r) ∧
       (∀ c, (t.task g).causes.contains c = ((s.task g).causes.contains c && decide (c ≠ .migration))) ∧
       onlyTaskAt s t g (fun a b => { b with place := a.place, lastIssue := a.lastIssue, causes := a.causes, st := a.st }) ∧
       { t with tasks := s.tasks, regs := s.regs, sched := { t.sched with inbox := s.sched.inbox } } = s) ∧
  ((∀ (f : FmtA) (s : State) (g : Gtid) (l : Launch), onThread s g → s.guardTrue f.g = true → nothingOutstanding s g →
     s.launchOf g = some l → l.serial = (s.task g).launch →
     let d := (s.task g).die
     let q := Tbl.get [] s.sched.spawns d
     let n := f.mod.toNat % 32
     let answers (t : State) (v : Word) : Prop := t.replies = s.replies ++ [{ gtid := g, part := 0, parks := true, res := .val v }] ∧
       awaits t (s.keptDest (.int f.d 8 false)) 8
     (0xFFFFFF ≤ l.nextIndex → ∃ t, exec (.spawn f) s = .next t ∧ answers t 0 ∧ { t with tasks := s.tasks, replies := s.replies } = s) ∧
     (l.nextIndex < 0xFFFFFF → 256 ≤ q.length → ∃ t, exec (.spawn f) s = .next t ∧ answers t 1 ∧ { t with tasks := s.tasks, replies := s.replies } = s) ∧
     (l.nextIndex < 0xFFFFFF → q.length < 256 →
       let new : Gtid := BitVec.ofNat 64 (l.serial * 2 ^ 24 + l.nextIndex)
       new ≠ g → ∃ t, exec (.spawn f) s = .next t ∧ answers t new ∧ Tbl.get [] t.sched.spawns d = q ++ [new] ∧
         (∀ d', d' ≠ d → Tbl.get [] t.sched.spawns d' = Tbl.get [] s.sched.spawns d') ∧
         (∃ l', t.launchOf g = some l' ∧ l'.nextIndex = l.nextIndex + 1) ∧ (t.task new).st = .queued ∧ (t.task new).isRow = false ∧
         (t.task new).pc = BitVec.ofNat 64 ((s.rdInt f.sa).toNat / 16 * 16) ∧ (t.task new).bcMode = (s.task g).bcMode ∧
         (t.task new).asid = (s.task g).asid ∧ (t.task new).root = (s.task g).root ∧ (t.task new).launch = (s.task g).launch ∧
         (t.task new).gang = (s.task g).gang ∧
         (∀ i, i < 64 → Tbl.get 0 (t.task new).r i = if i < n then s.rdInt (BitVec.ofNat 6 (f.sb.toNat + i)) else 0) ∧
         (∀ g', g' ≠ g → g' ≠ new → t.task g' = s.task g') ∧ t.mem = s.mem ∧ t.tags = s.tags ∧ t.regs = s.regs)) ∧
   ∀ (die : Nat) (s : State) (g : Gtid) (a rest : List Gtid) (p : Place) (l : Launch) (x : Gang), die < 4 →
     Tbl.get [] s.sched.spawns die = a ++ g :: rest → (∀ h ∈ a, s.spawnSlot die h = none) →
     s.spawnSlot die g = some p → s.gang? (s.task g).launch (s.task g).gang = some (l, x) →
     ∃ t, exec (.spawnBind die) s = .next t ∧ (t.task g).place = p ∧ (t.task g).st = .bound ∧ (t.task g).startTick = x.ts ∧
       (t.task g).wdCount = 0 ∧ (t.task g).r = (s.task g).r ∧ (t.task g).pc = (s.task g).pc ∧
       Tbl.get [] t.sched.spawns die = (a ++ g :: rest).filter (fun x => decide (x ≠ g)) ∧ (∀ g', g' ≠ g → t.task g' = s.task g') ∧
       t.mem = s.mem ∧ t.tags = s.tags ∧ t.shares = s.shares)

/-- R42, R55, R308, R322, R335: a fault freezes its row task and stops the engines of the core it was raised on; a thread parks; its
record is kept until it is posted, one for the faults of one core in one cycle. Nothing else changes. R59, R85, R86, R351, R354: a
word that encodes no instruction raises the fault of its fate when it is to run: the Spine's task is frozen with its PC moved on; a
core's share is as it stood before the bundle, its engines stopped, and the core is to catch up. What the spec leaves open here is
as the model chose, log entries 9, 10 and 32. -/
def Obligations.FaultsAreTaken : Prop :=
  ((∀ (s : State) (g : Gtid) (core : Nat) (r : Raised) (bundle : Word) (more : Bool), (s.task g).isRow = true →
     let t := s.takeRowFault g core r bundle more
     (t.task g).causes.contains .fault = true ∧ keepsCauses (s.task g) (t.task g) ∧ frozenFrom (s.task g) (t.task g) ∧
     recordKept s t g core r bundle more ∧
     (∀ g' c', (core < 8 ∧ shareKey g' c' = shareKey g core → t.share g' c' =
         { s.share g' c' with stopped := true, stopAt := if (s.share g' c').stopped then (s.share g' c').stopAt else s.cycle }) ∧
       (8 ≤ core ∨ shareKey g' c' ≠ shareKey g core → t.share g' c' = s.share g' c')) ∧
     onlyTaskAt s t g (fun a b => { b with causes := a.causes, st := a.st, frame := a.frame, frameAt := a.frameAt, frozeAt := a.frozeAt }) ∧
     { t with tasks := s.tasks, shares := s.shares, faultPend := s.faultPend } = s) ∧
   ∀ (s : State) (g : Gtid) (r : Raised) (bundle : Word) (tr : Bool), (s.task g).isRow = false →
     let t := s.takeBcFault g r bundle tr
     (t.task g).causes.contains (if tr then .translation else .fault) = true ∧ keepsCauses (s.task g) (t.task g) ∧
     ((s.task g).st = .running → (t.task g).st = .parked) ∧ (∃ x, t.faultPend = s.faultPend ++ [x] ∧ recordSays s x g r bundle false ∧ x.wakes = tr) ∧
     onlyTaskAt s t g (fun a b => { b with causes := a.causes, st := a.st }) ∧ { t with tasks := s.tasks, faultPend := s.faultPend } = s) ∧
  ((∀ (s : State) (it : Item) (g : Gtid) (x : Fate), s.pending = [it] → it.unit = .spine g → it.instr = none → s.raised = [] →
     (s.task g).isRow = true → (s.task g).stepping = false → decode .x .spine it.word it.lit = .error x → ∃ t, step s = .next t ∧
       (t.task g).causes.contains .fault = true ∧ frozenFrom (s.task g) (t.task g) ∧
       (∃ y, t.faultPend = s.faultPend ++ [y] ∧ recordSays s y g { unit := 0, code := specFate x } it.addr false) ∧
       (∀ n, Tbl.get 0 (t.task g).r n = Tbl.get 0 (s.task g).r n) ∧ (t.task g).p = (s.task g).p ∧ t.shares = s.shares ∧ t.mem = s.mem ∧
       t.tags = s.tags ∧ t.pending = [] ∧ ∀ g', g' ≠ g → t.task g' = s.task g') ∧
   ∀ (s : State) (it : Item) (g : Gtid) (c : Nat) (x : Fate) (t0 : Task) (h : Share), s.pending = [it] → it.unit = .core g c → c < 8 →
     it.instr = none → s.raised = [] → s.snap = some (t0, h) → (s.task g).isRow = true →
     (∀ f ∈ s.faultPend, ¬joinsHere s g c f) → decode (if it.isE then .e else if it.isV then .v else .m) .core it.word it.lit = .error x → ∃ t, step s = .next t ∧
       t.share g c = { h with stopped := true, stopAt := if h.stopped then h.stopAt else s.cycle } ∧ (t.task g).catchUp.getLsbD c = true ∧ (t.task g).causes.contains .fault = true ∧
       frozenFrom (s.task g) (t.task g) ∧
       (∃ y, t.faultPend = s.faultPend ++ [y] ∧ recordSays s y g { unit := specUnit it, code := specFate x } it.addr false) ∧
       (∀ g' c', shareKey g' c' ≠ shareKey g c → t.share g' c' = s.share g' c') ∧ (∀ g', g' ≠ g → t.task g' = s.task g') ∧
       t.mem = s.mem ∧ t.tags = s.tags)

/-- R54 to R56, R59, R422, R447: the oldest record that a die holds, the Spine's and then the cores' in order among those of one
freeze, is posted to its fault queue where there is room, with the next sequence number; a forwarded record enters the host's event
ring. With no room, or a ring without entries, nothing happens. R44, R57, R418, R419, R463: firmware forwards a record that is not
ABSENT, and an ABSENT one when its pool has no frame; a page on demand gets a zeroed frame and a valid leaf. A watchdog that has
reached its limit holds its task and is recorded. What the spec leaves open here is as the model chose, log entries 6, 7, 22, 43 and
96. -/
def Obligations.FaultRecordsAreServed : Prop :=
  ((∀ (die : Nat) (s : State) (f : FaultRec), die < 4 → s.faultPend.find? (fun f => f.die = die) = some f →
     (∀ x ∈ s.faultPend, f.together x = true → f.order ≤ x.order) →
     (ringRoom s die 0 0x8048 0x8050 0x8058 → f.frame = 0 → ∃ t x, exec (.faultRecordPost die) s = .next t ∧
       wordsAt s t ((dieRg die 0 0x8040 s).toNat / 64 * 64 + 64 * ((dieRg die 0 0x8050 s).toNat % (dieRg die 0 0x8048 s).toNat))
         (specRecord f (Tbl.get 0 s.sched.faultSeq die)) ∧
       dieRg die 0 0x8050 t = dieRg die 0 0x8050 s + 1 ∧ Tbl.get 0 t.sched.faultSeq die = (Tbl.get 0 s.sched.faultSeq die + 1) % 2 ^ 32 ∧
       x = { f with seqNo := Tbl.get 0 s.sched.faultSeq die } ∧
       t.faultPend = (s.faultPend.erase f).map (fun y => if f.together y then { y with fresh := false } else y) ∧
       t.faultOut = s.faultOut ++ [x] ∧
       t.faultHeld = s.faultHeld ++ [x] ∧ t.tasks = s.tasks ∧ t.shares = s.shares ∧ t.tags = s.tags) ∧
     (¬ringRoom s die 0 0x8048 0x8050 0x8058 → exec (.faultRecordPost die) s = .next s)) ∧
   ∀ (die : Nat) (s : State) (f : FaultRec) (rest : List FaultRec), die < 4 → Tbl.get [] s.sched.events die = f :: rest →
     (ringRoom s die 2 0x20 0x28 0x30 → ∃ t, exec (.eventRecordPost die) s = .next t ∧
       wordsAt s t ((dieRg die 2 0x18 s).toNat / 64 * 64 + 64 * ((dieRg die 2 0x28 s).toNat % (dieRg die 2 0x20 s).toNat))
         (specRecord f f.seqNo) ∧
       dieRg die 2 0x28 t = dieRg die 2 0x28 s + 1 ∧ Tbl.get [] t.sched.events die = rest ∧ t.tasks = s.tasks ∧ t.shares = s.shares ∧
       t.tags = s.tags ∧ t.faultHeld = s.faultHeld) ∧
     (¬ringRoom s die 2 0x20 0x28 0x30 → exec (.eventRecordPost die) s = .next s)) ∧
  ((∀ (die : Nat) (s : State) (f : FaultRec), die < 4 → s.faultOut.find? (fun f => f.die = die) = some f →
     dieRg die 0 0x8048 s ≠ 0 →
     let taken (t : State) : Prop := t.faultOut = s.faultOut.erase f ∧ dieRg die 0 0x8058 t = dieRg die 0 0x8058 s + 1 ∧ t.shares = s.shares
     let t0 := s.task f.gtid
     (f.code ≠ 0x10 → ∃ t, exec (.faultService die) s = .next t ∧ taken t ∧ Tbl.get [] t.sched.events die = Tbl.get [] s.sched.events die ++ [f] ∧
       t.tasks = s.tasks ∧ t.mem = s.mem ∧ t.tags = s.tags ∧ t.faultHeld = s.faultHeld) ∧
     (f.code = 0x10 → (∀ w0 w1 big, (s.walk 0 t0.root f.va).1 ≠ .leaf w0 w1 big) → noErrors s →
       dieRg die 0 0x8070 s = dieRg die 0 0x8078 s → ∃ t x, exec (.faultService die) s = .next t ∧ taken t ∧
         Tbl.get [] t.sched.events die = Tbl.get [] s.sched.events die ++ [x] ∧ (x = f ∨ x = { f with noframe := true }) ∧
         t.tasks = s.tasks ∧ t.mem = s.mem ∧ t.tags = s.tags ∧ t.faultHeld = s.faultHeld) ∧
     (∀ e, f.code = 0x10 → f.xop = none → (∀ w0 w1 big, (s.walk 0 t0.root f.va).1 ≠ .leaf w0 w1 big) → noErrors s → s.demandLeaf t0.root f.va = some e →
       dieRg die 0 0x8070 s ≠ dieRg die 0 0x8078 s → dieRg die 0 0x8068 s ≠ 0 →
       let p := (s.memWord ((dieRg die 0 0x8060 s).toNat / 64 * 64 +
         8 * ((dieRg die 0 0x8070 s).toNat % (dieRg die 0 0x8068 s).toNat))).toNat / 2 ^ 16 * 2 ^ 16
       Tbl.find? s.sec.badPages (p / 2 ^ 16 % 2 ^ 32) = none → e / 2 ^ 16 ≠ p / 2 ^ 16 → ∃ t, exec (.faultService die) s = .next t ∧
         t.faultOut = s.faultOut.erase f ∧ dieRg die 0 0x8070 t = dieRg die 0 0x8070 s + 1 ∧
         (∀ a, a / 2 ^ 16 = p / 2 ^ 16 → t.memByte a = 0 ∧ t.tag a = false) ∧
         t.memWord e = (s.memWord e &&& 0xFFFF00000000FFFF) ||| BitVec.ofNat 64 (p % 2 ^ 48) ||| 1 ∧
         ∀ a, a / 2 ^ 16 ≠ p / 2 ^ 16 → a < e ∨ e + 8 ≤ a → t.memByte a = s.memByte a)) ∧
   ∀ (g : Gtid) (s : State),
     let t0 := s.task g
     let expired := t0.bound = true ∧ t0.wdLimit.toNat ≤ t0.wdCount.toNat ∧ t0.causes.contains .watchdog = false ∧ t0.st ≠ .retired
     (expired → ∃ t x, exec (.watchdogExpiry g) s = .next t ∧ (t.task g).causes.contains .watchdog = true ∧ keepsCauses t0 (t.task g) ∧
       t.faultPend = s.faultPend ++ [x] ∧ recordSays s x g { unit := if t0.isRow then 0 else 6, code := 0x20 } t0.pc false ∧
       onlyTaskAt s t g (fun a b => { b with causes := a.causes, st := a.st, frame := a.frame, frameAt := a.frameAt }) ∧
       { t with tasks := s.tasks, faultPend := s.faultPend } = s) ∧
     (¬expired → exec (.watchdogExpiry g) s = .next s))

/-- R21, R448, R449, R452: a doorbell sets rtail unless it lies beyond the ring's entries. The lead core takes the next record of
the ring whose turn it is: one it refuses is completed with status 3 and its lowest reason, one with a reserved bit set with reason
1; any other becomes the launch of the next serial, with its gangs and tasks queued. What the spec leaves open here is as the model
chose, log entries 22, 97 and 98. -/
def Obligations.LaunchesAreAccepted : Prop :=
  (∀ (q : Nat) (v : Word) (s : State),
    (q < 64 → (v - s.reg (ringAt q 3)).toNat ≤ (s.reg (ringAt q 1)).toNat → ∃ t, exec (.submitDoorbell q v) s = .next t ∧
      t.reg (ringAt q 2) = v ∧ (∀ r, r ≠ ringAt q 2 → t.reg r = s.reg r) ∧ { t with regs := s.regs } = s) ∧
    (64 ≤ q ∨ (s.reg (ringAt q 1)).toNat < (v - s.reg (ringAt q 3)).toNat → exec (.submitDoorbell q v) s = .next s)) ∧
  (∀ s : State, (∀ q, q < 64 → ¬ringHas s q) → exec .launchAccept s = .next s) ∧
  ∀ (s : State) (q : Nat), s.sched.turn < 64 → ringsTurn s q → noErrors s →
    let ws := recordNow s q
    let w (i : Nat) : Word := ws.getD i 0
    let c := s.checkRecord ws
    let n := if s.sched.serial = 0xFFFFFFFFFF then 1 else s.sched.serial + 1
    let took (t : State) : Prop := t.reg (ringAt q 3) = s.reg (ringAt q 3) + 1 ∧ t.sched.turn = (q + 1) % 64 ∧ t.mem = s.mem ∧ t.tags = s.tags ∧
      t.shares = s.shares
    let refused (t : State) (r : Nat) : Prop := took t ∧ t.sched.serial = s.sched.serial ∧ t.tasks = s.tasks ∧ t.sched.completions =
      s.sched.completions ++ [{ ring := q, slot := slotNow s q, serial := 0, status := 3, reason := r, dcc := s.dcc }]
    ((w 0).toNat / 2 ^ 48 ≠ 0 ∨ w 13 ≠ 0 ∨ w 14 ≠ 0 ∨ w 15 ≠ 0 → ∃ t, exec .launchAccept s = .next t ∧ refused t 1) ∧
    (∀ r, c.2.1 = some r → ∃ t, exec .launchAccept s = .next t ∧ refused t r) ∧
    (c.2.1 = none → ∃ t l, exec .launchAccept s = .next t ∧ took t ∧ t.sched.serial = n ∧ Tbl.get none t.sched.launches n = some l ∧
      l.serial = n ∧ l.cls = (w 0).toNat % 4 ∧ l.asid = (w 0).toNat / 2 ^ 32 % 2 ^ 16 ∧ l.root = (w 1).toNat ∧ l.ring = q ∧
      l.slot = slotNow s q ∧ l.args = (ws.drop 16).take ((w 0).toNat / 2 ^ 8 % 2 ^ 8) ∧ l.gangs.length = c.1.length ∧
      (∀ x ∈ l.gangs, x.st = .queued ∧ ∀ g ∈ x.tasks, g.toNat / 2 ^ 24 = n → freshTask (t.task g) n l.args) ∧
      t.sched.completions = s.sched.completions ∧ ∀ m, m ≠ n → Tbl.get none t.sched.launches m = Tbl.get none s.sched.launches m)

/-- R16, R42, R312, R313, R454 to R457, R462: the places reserved for a gang are free, and no two are the same. A gang whose turn it
is, and for which places are free, takes them all at once: its tasks are bound, to start at one tick, 1,024 after. At that tick the
gang starts, and not before; a task bound to it later starts then. A background launch queued for the ageing period counts as
normal. What the spec leaves open here is as the model chose, log entries 8, 34, 35, 36, 37, 39 and 40. -/
def Obligations.GangsBindAndStart : Prop :=
  (∀ (s : State) (w : Waiting) (p : Plan), s.reserve w = some p → (p.places.map (·.2)).Nodup ∧ (∀ e ∈ p.places, freePlace s e.2) ∧
    ∀ g ∈ s.toBind w.gang, ∃ e ∈ p.places, e.1 = g) ∧
  (∀ (s : State) (w : Waiting) (p : Plan) (i : Instr), s.nextGang = some w → s.reserve w = some p → s.fillersAside p = [] →
    needsNoImage w.launch w.gang → (p.places.map (·.1)).Nodup → s.gang? w.launch.serial w.gi = some (w.launch, w.gang) →
    (∀ k l, Tbl.get none s.sched.launches k = some l → l.serial = k) →
    (w.gang.st = .queued ∧ i = .gangBind w.launch.serial w.gi ∨ w.gang.st = .out ∧ i = .restore w.launch.serial w.gi) →
    ∃ t l x, exec i s = .next t ∧ t.gang? w.launch.serial w.gi = some (l, x) ∧ x.st = .bound ∧ x.ts = s.dcc + 1024 ∧
      (∀ e ∈ p.places, (t.task e.1).place = e.2 ∧ (t.task e.1).startTick = s.dcc + 1024 ∧ (t.task e.1).r = (s.task e.1).r ∧
        (t.task e.1).pc = (s.task e.1).pc ∧ ((s.task e.1).st ≠ .preempted → (t.task e.1).st = .bound)) ∧
      (∀ g, (∀ e ∈ p.places, e.1 ≠ g) → t.task g = s.task g) ∧ t.mem = s.mem ∧ t.tags = s.tags) ∧
  (∀ (s : State) (serial gi : Nat) (l : Launch) (x : Gang), s.gang? serial gi = some (l, x) → l.serial = serial →
    (x.st = .bound ∨ x.st = .started → x.ts.toNat ≤ s.dcc.toNat → ∃ t l' y, exec (.gangStart serial gi) s = .next t ∧ t.gang? serial gi = some (l', y) ∧
      y = { x with st := .started, ran := true } ∧
      (∀ g ∈ x.tasks, (s.task g).bound = true → (s.task g).st = .bound → (s.task g).causes = [] → (t.task g).st = .running) ∧
      (∀ g, { t.task g with st := (s.task g).st, slotRec := (s.task g).slotRec } = s.task g) ∧
      (∀ g, g ∉ x.tasks → t.task g = s.task g) ∧ t.mem = s.mem ∧ t.tags = s.tags ∧ t.shares = s.shares) ∧
    (x.st ≠ .bound ∧ x.st ≠ .started ∨ s.dcc.toNat < x.ts.toNat → exec (.gangStart serial gi) s = .next s)) ∧
  ∀ (s : State) (serial : Nat) (l : Launch), Tbl.get none s.sched.launches serial = some l → l.serial = serial →
    let due := l.cls = 2 ∧ (s.reg (dieReg 0 2 0x10)).toNat ≤ (s.dcc - l.queuedAt).toNat
    (due → ∃ t, exec (.launchAgeing serial) s = .next t ∧ Tbl.get none t.sched.launches serial = some { l with aged := true } ∧
      (∀ m, m ≠ serial → Tbl.get none t.sched.launches m = Tbl.get none s.sched.launches m) ∧
      { t with sched := { t.sched with launches := s.sched.launches } } = s) ∧
    (¬due → exec (.launchAgeing serial) s = .next s)

/-- R42, R45, R46, R48, R49, R453: a task that has issued EXIT, and of which nothing is left to be done, retires with status 0, its
slot is free, its stores have performed; one whose gang has been ended retires with its status once its stores have performed; any
other does not. A completion record is posted where its ring has room. What the spec leaves open here is as the model chose, log
entries 22 and 41. -/
def Obligations.TasksRetireAndComplete : Prop :=
  (∀ (g : Gtid) (s : State),
    let retires (t : State) (n : Nat) : Prop := (t.task g).st = .retired ∧ (t.task g).exitStatus = n ∧ (t.task g).place = .none ∧
      (∀ g', g' ≠ g → t.task g' = s.task g') ∧
      ((∀ l c, s.launchOf g = some l → l.done = some c → c < 1024) → slotIsFree t (s.task g).place)
    (mayRetire s g → noErrors s → ∃ t, exec (.taskRetire g) s = .next t ∧ retires t 0 ∧
      ((s.task g).isRow = false → t.mem = s.mem) ∧
      ((s.task g).isRow = true → let row := tlbSpine (s.task g)
        ∀ a, a < 2 ^ 48 → t.memByte a = homeByte s row g a) ∧ t.tags = s.tags) ∧
    ((s.task g).ending ≠ 0 → (s.task g).st ≠ .retired → settled s g → noErrors s → ∃ t, exec (.taskRetire g) s = .next t ∧
      retires t (s.task g).ending ∧ t.mem = s.mem ∧ t.tags = s.tags) ∧
    ((s.task g).ending = 0 ∨ ¬settled s g →
      (s.task g).st ≠ .running ∨ (s.task g).exited = false ∨ (s.task g).unacked ≠ 0 → exec (.taskRetire g) s = .next s)) ∧
  ∀ (q : Nat) (s : State) (c : Completion), q < 64 → s.sched.completions.find? (fun c => c.ring = q) = some c →
    (s.reg (ringAt q 6) - s.reg (ringAt q 7) ≠ s.reg (ringAt q 5) → s.reg (ringAt q 5) ≠ 0 → noErrors s →
      ∃ t, exec (.completionRecordPost q) s = .next t ∧
      wordsAt s t ((s.reg (ringAt q 4)).toNat / 32 * 32 + 32 * ((s.reg (ringAt q 6)).toNat % (s.reg (ringAt q 5)).toNat))
        [BitVec.ofNat 64 (c.serial + c.status * 2 ^ 40 + c.reason * 2 ^ 48), BitVec.ofNat 64 (c.slot % 2 ^ 32 + q * 2 ^ 32), c.dcc, 0] ∧
      t.reg (ringAt q 6) = s.reg (ringAt q 6) + 1 ∧ t.sched.completions = s.sched.completions.erase c ∧ t.tasks = s.tasks ∧
      t.shares = s.shares ∧ t.tags = s.tags) ∧
    (s.reg (ringAt q 6) - s.reg (ringAt q 7) = s.reg (ringAt q 5) ∨ s.reg (ringAt q 5) = 0 → exec (.completionRecordPost q) s = .next s)

/-- R358 to R362, R461: a gang that is to leave its slots is saved once each of its tasks may be: they are out of their slots with
their registers, and the gang is queued again. The filler gets the row after enough yielding frozen cycles, and gives it back when
the primary's hold ends. What the spec leaves open here is as the model chose, log entries 17, 36 and 38. -/
def Obligations.PreemptionAndFillerSwitch : Prop :=
  (∀ (s : State) (serial gi : Nat) (l : Launch) (x : Gang), s.gang? serial gi = some (l, x) → l.serial = serial →
    (x.st = .saving → x.tasks.all s.saveReady = true → ∃ t l' y, exec (.preempt serial gi) s = .next t ∧
      t.gang? serial gi = some (l', y) ∧ y.st = .out ∧ y.queuedAt = s.dcc ∧ y.tasks = x.tasks ∧
      (∀ g ∈ x.tasks, (s.task g).bound = true → (t.task g).st = .preempted ∧ (t.task g).place = .none ∧ (t.task g).lastPlace = (s.task g).place ∧
        (t.task g).r = (s.task g).r ∧ (t.task g).p = (s.task g).p ∧ (t.task g).pc = (s.task g).pc) ∧
      ∀ g, g ∉ x.tasks → { t.task g with fillActive := (s.task g).fillActive, yielding := (s.task g).yielding } = s.task g) ∧
    (x.st ≠ .saving ∨ x.tasks.all s.saveReady = false → exec (.preempt serial gi) s = .next s)) ∧
  ∀ (s : State) (die row : Nat) (p : Gtid), die < 4 → row < 8 → s.rowTask die row false = some p →
    let a := s.task p
    let admitted := (8 * die + row) ∈ s.pow.admitted ∧ s.pow.tripped = false
    let only (t : State) : Prop := onlyTaskAt s t p (fun a b => { b with fillActive := a.fillActive, yielding := a.yielding }) ∧
      { t with tasks := s.tasks } = s
    let held (f : Gtid) : Prop := ∃ c, (c = .fault ∨ c = .watchdog ∨ c = .halt) ∧ (s.task f).causes.contains c = true
    (∀ f, s.rowTask die row true = some f → a.fillOn = true → a.fillActive = false → ¬held f → (s.task f).st ≠ .bound →
      1 ≤ a.yielding → a.thresh ≤ a.yielding → admitted → ∃ t, exec (.fillerSwitch die row) s = .next t ∧ (t.task p).fillActive = true ∧ only t) ∧
    (a.yielding < a.thresh ∨ a.yielding = 0 ∨ s.rowTask die row true = none → exec (.fillerSwitch die row) s = .next s) ∧
    (a.fillActive = true →
      (a.causes.contains .hold = false ∨ ¬admitted ∨ s.rowTask die row true = none ∨
        (∃ f, s.rowTask die row true = some f ∧ (held f ∨ 4096 ≤ (s.task f).waitCycles))) →
      ∃ t, exec (.fillerReturn die row) s = .next t ∧ (t.task p).fillActive = false ∧ (t.task p).yielding = 0 ∧ only t) ∧
    (a.fillActive = false → exec (.fillerReturn die row) s = .next s)

/-- R427 to R429, R438, R440: ROUTE reads its descriptor by loads of its unit and starts a route on a free Collator, with status 0;
with one active or saved for its launch the status is 1, for a descriptor that is not valid 2. A thread asks for the words first,
and for the biases, and executes again with them. CANCEL ends the launch's route, or answers 3 without one. RSTAT reads what the
Collator tells of the launch. What the spec leaves open here is as the model chose, log entry 71. -/
def Obligations.RouteInstructionResults : Prop :=
  (∀ (f : FmtA) (s : State) (g : Gtid), unitRuns s g → s.guardTrue f.g = true → noErrors s →
    let va := s.rdInt f.sa
    va.toNat % 64 = 0 →
    (∀ p, onThread s g → (s.task g).got = [] → pageHit s s.memTlb g .load va 192 p →
      ∃ t, exec (.route f) s = .next t ∧ asksForWords s t g va 8 24 p) ∧
    ∀ v, wordsRead s g va 8 24 v →
    let w (i : Nat) : Word := BitVec.ofNat 64 (v / 2 ^ (64 * i))
    let d := (s.task g).die
    let e := bitsOf (w 0) 0 11
    let busy := (collAt s d).active ≠ none ∨ ∃ r ∈ (collAt s d).saved, liveRouteOf (s.task g).launch r
    (routeInvalid w → ∃ t, exec (.route f) s = .next t ∧ statusIs s t g f.d 2 ∧ t.coll = s.coll) ∧
    (¬routeInvalid w → busy → ∃ t, exec (.route f) s = .next t ∧ statusIs s t g f.d 1 ∧ t.coll = s.coll) ∧
    (¬routeInvalid w → ¬busy → w 2 ≠ 0 → (w 2).toNat % 4 = 0 → ∀ p, onThread s g →
      (s.task g).got.find? (fun x => x.1 = w 2 && x.2.1 = 4 * e) = none → pageHit s s.memTlb g .load (w 2) (4 * e) p →
      ∃ t, exec (.route f) s = .next t ∧ asksForWords s t g (w 2) 4 e p) ∧
    (¬routeInvalid w → ¬busy → bitsOf (w 1) 32 32 ≠ 0 → ∀ b, (w 2 = 0 ∨ wordsRead s g (w 2) 4 e b) →
      ∃ t r, exec (.route f) s = .next t ∧ statusIs s t g f.d 0 ∧ collAt t d = { collAt s d with active := some r } ∧ othersColl s t d ∧
        routeSays r (s.task g) g w ∧
        ∀ i, i < e → r.bias.getD i 0 = if w 2 = 0 then 0 else BitVec.ofNat 32 (b / 2 ^ (32 * i)))) ∧
  (∀ (f : FmtA) (s : State) (g : Gtid), unitRuns s g → s.guardTrue f.g = true →
    let d := (s.task g).die
    let launch := (s.task g).launch
    (∀ r, (collAt s d).active = some r → liveRouteOf launch r → r.donew = 0 → (∀ x ∈ (collAt s d).saved, x.cancelled = false) →
      (∀ x ∈ s.launchPorts d launch, ∀ y ∈ (s.share x.1 x.2).mxFin ++ (s.share x.1 x.2).mxComp.toList, y.pend = []) →
      ∃ t, exec (.routeCancel f) s = .next t ∧ statusIs s t g f.d 0 ∧ othersColl s t d ∧
        collAt t d = { collAt s d with active := none, ended := some { launch := launch, emit := r.emit, disc := Nat.min 0xFFFF r.disc, ovr := r.ovr } }) ∧
    ((∀ r, (collAt s d).active = some r → ¬liveRouteOf launch r) → (∀ r ∈ (collAt s d).saved, ¬liveRouteOf launch r) →
      ∃ t, exec (.routeCancel f) s = .next t ∧ statusIs s t g f.d 3 ∧ t.coll = s.coll)) ∧
  ∀ f : FmtA, writesInt (.rstat f) f.g f.d fun s => specRstat (collAt s (curTask s).die) (curTask s).launch

/-- R430, R431, R437, R438: one row a cycle of the die: a row at a port is discarded and counted where its token is not of the
route, starts a token, completes one, whose records follow from a pass over the experts and 16 cycles later on, one a cycle, or
waits while 64 tokens are incomplete. A record is written whole when its time has come, with both tags full; the last of a token
counts it; a full tag is noted as an overrun. What the spec leaves open here is as the model chose, log entry 72. -/
def Obligations.CollatorRowsAndRecords : Prop :=
  (∀ (g : Gtid) (c : Nat) (s : State) (r : Route) (i : Nat) (scores : List (BitVec 32)), rowWaits s g c r i scores →
    let n := (s.share g c).port.base.toNat + i
    let e0 := (s.share g c).port.expert
    let known := ∃ x ∈ r.tokens, x.t = n
    let ours := r.t0 ≤ n ∧ n < r.t0 + r.n ∧ n ∉ r.finished
    (¬ours → ∃ t, exec (.collatorRowAccept g c) s = .next t ∧ rowTaken s t g c { r with disc := Nat.min 0xFFFF (r.disc + 1) }) ∧
    (ours → ¬known → e0 < r.e → 64 ≤ r.tokens.length → exec (.collatorRowAccept g c) s = .next s) ∧
    (ours → ¬known → e0 < r.e → r.tokens.length < 64 → Nat.min 32 (r.e - e0) < r.e → scores.length = 32 →
      ∃ t k, exec (.collatorRowAccept g c) s = .next t ∧ rowTaken s t g c { r with tokens := r.tokens ++ [k] } ∧ k.t = n ∧ k.seen = [e0] ∧
        ∀ j, j < 32 → e0 + j < r.e → Tbl.get 0 k.scores (e0 + j) = scores.getD j 0) ∧
    (ours → ¬known → e0 = 0 → 0 < r.e → r.e ≤ 32 → r.tokens.length < 64 → scores.length = 32 → r.k + r.a ≤ r.e → r.t0 + r.n ≤ 2 ^ 32 →
      ∃ t l, exec (.collatorRowAccept g c) s = .next t ∧ 
        rowTaken s t g c { r with out := r.out ++ l, finished := r.finished ++ [n], nextTok := Nat.max (s.cycle + 17) r.nextTok + Nat.max 1 (r.k + r.a) } ∧
        l.length = r.k + r.a ∧ (l.map fun x => bitsOf x.w0 32 16).Nodup ∧
        ∀ j x, l[j]? = some x → x.due = Nat.max (s.cycle + 17) r.nextTok + j ∧ bitsOf x.w0 0 32 = n ∧ bitsOf x.w0 32 16 < r.e ∧ bitsOf x.w0 48 8 = j ∧
          x.w0.getLsbD 56 = decide (r.k ≤ j) ∧ x.w0.getLsbD 59 = decide (j + 1 = r.k + r.a) ∧ bitsOf x.w1 32 32 = 0)) ∧
  ∀ (d : Nat) (s : State) (r : Route) (x : Record) (rest : List Record) (p : TlbEntry), d < 4 → (collAt s d).active = some r →
    r.fault = false → r.cancelled = false → r.out = x :: rest → x.va.toNat % 16 = 0 → collHit s d r x.va 16 p → windowOf (p.pa x.va) = .tile →
    paDie (p.pa x.va) = d → s.waits = [] →
    let a := p.pa x.va
    (s.cycle < x.due → exec (.collatorRecordWrite d) s = .next s) ∧
    (x.due ≤ s.cycle → ∃ t, exec (.collatorRecordWrite d) s = .next t ∧ t.memWord a = x.w0 ∧ t.memWord (a + 8) = x.w1 ∧ t.tag a = true ∧ t.tag (a + 8) = true ∧
      (∀ b, b < a ∨ a + 16 ≤ b → t.memByte b = s.memByte b) ∧ (∀ b, wordAddr b ≠ a → wordAddr b ≠ a + 8 → t.tag b = s.tag b) ∧
      collAt t d = { collAt s d with active := some { r with out := rest, ovr := r.ovr || s.tag a || s.tag (a + 8),
                                                             emit := if x.last then r.emit + 1 else r.emit } } ∧ othersColl s t d ∧
      t.tasks = s.tasks ∧ t.shares = s.shares)

/-- R438, R439, R442, R443, R446: a route whose tokens are all written stores its done word, full, and leaves the Collator; a saved
one resumes on a free Collator once its gang is back. A residency commit makes every staged entry active, or none. A hint enters the
ring, or is counted as dropped. What the spec leaves open here is as the model chose, log entries 22, 91 and 99. -/
def Obligations.RoutesEndAndResidencyCommits : Prop :=
  (∀ (d : Nat) (s : State) (r : Route), d < 4 → (collAt s d).active = some r → (∀ x ∈ (collAt s d).saved, x.cancelled = false) →
    let isOver := r.cancelled = true ∨ (r.out = [] ∧ r.emit = r.n)
    let done : Collator := { collAt s d with active := none, ended := some { launch := r.launch, emit := r.emit, disc := r.disc, ovr := r.ovr } }
    (¬isOver → exec (.routeEnd d) s = .next s) ∧
    (isOver → r.fault = false → r.donew = 0 → ∃ t, exec (.routeEnd d) s = .next t ∧ collAt t d = done ∧ othersColl s t d ∧
      { t with coll := s.coll } = s) ∧
    ∀ p, isOver → r.fault = false → r.donew ≠ 0 → r.donew.toNat % 8 = 0 → collHit s d r r.donew 8 p → windowOf (p.pa r.donew) = .hbm → noErrors s →
      s.waits = [] → ∃ t, exec (.routeEnd d) s = .next t ∧ collAt t d = done ∧ othersColl s t d ∧
        t.memWord (p.pa r.donew) = BitVec.ofNat 64 (r.emit + r.cancelled.toNat * 2 ^ 63) ∧ t.tag (p.pa r.donew) = true ∧
        (∀ b, b < p.pa r.donew ∨ p.pa r.donew + 8 ≤ b → t.memByte b = s.memByte b) ∧ t.tasks = s.tasks ∧ t.shares = s.shares) ∧
  (∀ (d : Nat) (s : State) (r : Route), d < 4 →
    ((collAt s d).active = none → (collAt s d).saved.find? (fun r => !r.cancelled && s.routeBack d r) = some r → ∃ t, exec (.routeResume d) s = .next t ∧
      collAt t d = { collAt s d with active := some { r with bit := (if (s.task r.gtid).bound then groupBit (s.task r.gtid) else r.bit) }, saved := (collAt s d).saved.filter (fun x => decide (x ≠ r)) } ∧ othersColl s t d ∧
      { t with coll := s.coll } = s) ∧
    ((collAt s d).active = some r → exec (.routeResume d) s = .next s)) ∧
  (∀ (d : Nat) (s : State), d < 4 →
    let go := dieReg d 1 0x10080
    ((s.reg go).getLsbD 63 = true → exec (.residencyCommit d) s = .next s) ∧
    ((s.reg go).getLsbD 63 = false → noErrors s → ∃ t st, exec (.residencyCommit d) s = .next t ∧
      t.reg go = BitVec.ofNat 64 (2 ^ 63 + st * 2 ^ 60) ∧ st ≤ 3 ∧
      (st = 0 → ∀ e, e < 1024 → (xstageAt d e 1 t).getLsbD 47 = false ∧
        (isStaged d e s → xresAt d e 0 t = xstageAt d e 0 s ∧ xresAt d e 1 t = (xstageAt d e 1 s &&& 0xFFFF7FFFFFFFFFFF)) ∧
        (¬isStaged d e s → xresAt d e 0 t = xresAt d e 0 s ∧ xresAt d e 1 t = xresAt d e 1 s)) ∧
      (st ≠ 0 → ∀ e, e < 1024 → ∀ i, i < 2 → xresAt d e i t = xresAt d e i s ∧ xstageAt d e i t = xstageAt d e i s) ∧
      t.mem = s.mem ∧ t.tags = s.tags ∧ t.tasks = s.tasks ∧ t.shares = s.shares)) ∧
  ∀ (d : Nat) (g : Gtid) (w : Word) (s : State), d < 4 →
    let full := dieRg d 1 0x10010 s - dieRg d 1 0x10018 s = dieRg d 1 0x10008 s ∨ dieRg d 1 0x10008 s = 0
    (full → ∃ t, exec (.hintPost d g w) s = .next t ∧ dieRg d 1 0x10020 t = dieRg d 1 0x10020 s + 1 ∧
      (∀ q, q ≠ dieReg d 1 0x10020 → t.reg q = s.reg q) ∧ { t with regs := s.regs } = s) ∧
    (¬full → noErrors s → ∃ t, exec (.hintPost d g w) s = .next t ∧
      wordsAt s t ((dieRg d 1 0x10000 s).toNat / 32 * 32 + 32 * ((dieRg d 1 0x10010 s).toNat % (dieRg d 1 0x10008 s).toNat))
        [w &&& 0x0000FFFF0FFFFFFF, g, s.dcc, BitVec.ofNat 64 ((collAt s d).hintSeq % 2 ^ 32)] ∧
      dieRg d 1 0x10010 t = dieRg d 1 0x10010 s + 1 ∧ collAt t d = { collAt s d with hintSeq := (collAt s d).hintSeq + 1 } ∧ othersColl s t d ∧
      t.tasks = s.tasks ∧ t.shares = s.shares ∧ t.tags = s.tags)

/-- R557 to R559, R570, R571: XRESV to this device is answered by the entry: it is granted min(COUNT, room left) from the sum of the
grants before, waits for its step, or is refused by status; to another device its request is sent and the task waits. The configure
form replaces an entry, the end form answers what the step granted and used, and starts the next step. R558: the window of an entry
passes WIN ticks after its first request: the gathering ends, grants are made in ascending source device within what CAP leaves;
before that nothing happens. What the spec leaves open here is as the model chose, log entries 20 and 67. -/
def Obligations.PermitWindowsAndGrants : Prop :=
  ((∀ (f : FmtA) (s : State) (g : Gtid) (own : Nat), unitRuns s g → s.guardTrue f.g = true → s.fab.answers = [] → deviceIs s own →
     let a := s.rdInt f.sa
     let b := s.rdInt f.sb
     let d := bitsOf a 22 2
     let e := bitsOf a 0 10
     let count := bitsOf a 24 16
     let step : BitVec 32 := b.setWidth 32
     let bad := bitsOf a 40 24 ≠ 0 ∨ bitsOf b 32 32 ≠ 0
     let answered (c : Word) : Prop := ∃ t, exec (.xresv f) s = .next t ∧ hasStatus t s f.d c ∧ sameStores s t ∧ t.xch = s.xch
     (bad → ∃ t, exec (.xresv f) s = .next t ∧ statusIs s t g f.d (specStatus 6) ∧ t.xch = s.xch) ∧
     (¬bad → bitsOf a 10 12 = own →
       (permitAt s d e = none → answered (specStatus 1)) ∧
       ∀ p, permitAt s d e = some p →
         (step ≠ p.step → 0 < (p.step - step).toInt → answered (specStatus 2)) ∧
         (step ≠ p.step → ¬0 < (p.step - step).toInt → 64 ≤ p.waiting.length → answered (specStatus 5)) ∧
         (step ≠ p.step → ¬0 < (p.step - step).toInt → p.waiting.length < 64 → ∃ t r, exec (.xresv f) s = .next t ∧ awaitsStatus s t f.d ∧
           sameStores s t ∧ permitAt t d e = some { p with waiting := p.waiting ++ [r] } ∧ r.dev = own ∧ r.count = count ∧ r.step = step ∧
           onlyPermit s t d e) ∧
         (step = p.step → ((∃ x ∈ p.gathered, x.dev = own) ∨ ∃ x ∈ p.grants, x.1 = own) → answered (specStatus 3)) ∧
         (step = p.step → (∀ x ∈ p.gathered, x.dev ≠ own) → (∀ x ∈ p.grants, x.1 ≠ own) →
           (p.closed = true → ∃ t, exec (.xresv f) s = .next t ∧ hasStatus t s f.d (specGrantWord p count true) ∧ sameStores s t ∧
             permitAt t d e = some { p with grants := p.grants ++ [(own, grantedSum p, specGrant p count)] } ∧ onlyPermit s t d e) ∧
           (p.closed = false → p.gathered.length + 1 < p.nsend → ∃ t r, exec (.xresv f) s = .next t ∧ awaitsStatus s t f.d ∧ sameStores s t ∧
             permitAt t d e = some { p with gathered := p.gathered ++ [r], since := some (p.since.getD s.dcc) } ∧ r.dev = own ∧ r.count = count ∧
             r.step = step ∧ onlyPermit s t d e) ∧
           (p.closed = false → p.gathered = [] → p.nsend ≤ 1 → ∃ t, exec (.xresv f) s = .next t ∧
             hasStatus t s f.d (specGrantWord p count false) ∧ sameStores s t ∧
             permitAt t d e = some { p with grants := p.grants ++ [(own, grantedSum p, specGrant p count)], closed := true,
                                            since := some (p.since.getD s.dcc) } ∧ onlyPermit s t d e))) ∧
     (¬bad → bitsOf a 10 12 ≠ own → (txAt s (bitsOf a 10 12)).failed = false → ∃ t, exec (.xresv f) s = .next t ∧ awaitsStatus s t f.d ∧
       sameStores s t ∧ t.xch = s.xch ∧ messageSent s t (bitsOf a 10 12) fun m => m.typ = 0x16 ∧ m.w3 = b)) ∧
   (∀ (f : FmtA) (s : State) (g : Gtid), unitRuns s g → s.guardTrue f.g = true →
     let a := s.rdInt f.sa
     let b := s.rdInt f.sb
     let d := (s.task g).die
     let e := bitsOf a 0 10
     (bitsOf a 38 26 ≠ 0 ∨ bitsOf a 26 12 = 0 → ∃ t, exec (.xresvCfg f) s = .next t ∧ statusIs s t g f.d (specStatus 6) ∧ t.xch = s.xch) ∧
     (bitsOf a 38 26 = 0 → bitsOf a 26 12 ≠ 0 → (∀ p, permitAt s d e = some p → p.gathered = [] ∧ p.waiting = []) →
       ∃ t, exec (.xresvCfg f) s = .next t ∧ statusIs s t g f.d 0 ∧
         permitAt t d e = some { cap := bitsOf a 10 16, nsend := bitsOf a 26 12, win := BitVec.ofNat 64 (bitsOf b 32 32), step := b.setWidth 32 } ∧
         onlyPermit s t d e)) ∧
   ∀ (f : FmtA) (s : State) (g : Gtid), unitRuns s g → s.guardTrue f.g = true →
     let a := s.rdInt f.sa
     let d := (s.task g).die
     let e := bitsOf a 0 10
     (bitsOf a 10 54 ≠ 0 → ∃ t, exec (.xresvEnd f) s = .next t ∧ statusIs s t g f.d (specStatus 6) ∧ t.xch = s.xch) ∧
     (bitsOf a 10 54 = 0 → permitAt s d e = none → ∃ t, exec (.xresvEnd f) s = .next t ∧ statusIs s t g f.d (specStatus 1) ∧ t.xch = s.xch) ∧
     (bitsOf a 10 54 = 0 → ∀ p, permitAt s d e = some p → p.gathered = [] → p.waiting = [] → ∃ t, exec (.xresvEnd f) s = .next t ∧
       statusIs s t g f.d (BitVec.ofNat 64 (grantedSum p % 2 ^ 16 + p.used % 2 ^ 16 * 2 ^ 16)) ∧
       permitAt t d e = some { cap := p.cap, nsend := p.nsend, win := p.win, step := p.step + 1 } ∧ onlyPermit s t d e)) ∧
  (∀ (d e : Nat) (s : State), d < 4 →
     (∀ p since, permitAt s d e = some p → p.since = some since → p.win ≠ 0 → p.closed = false → p.win ≤ s.dcc - since →
       ∃ t q, exec (.permitWindowExpiry d e) s = .next t ∧ permitAt t d e = some q ∧ q.closed = true ∧ q.gathered = [] ∧ q.step = p.step ∧
         (∃ l, q.grants = p.grants ++ l ∧ (l.map (·.1)).Perm (p.gathered.map (·.dev)) ∧ (l.map (·.1)).Pairwise (· ≤ ·)) ∧
         (grantedSum p ≤ p.cap → grantedSum q ≤ p.cap) ∧ (∀ d' e', (d' ≠ d ∨ e' ≠ e) → permitAt t d' e' = permitAt s d' e') ∧
         t.mem = s.mem ∧ t.tags = s.tags) ∧
     ((∀ p, permitAt s d e = some p → p.since = none ∨ p.win = 0 ∨ p.closed = true ∨ ∀ since, p.since = some since → s.dcc - since < p.win) →
       exec (.permitWindowExpiry d e) s = .next s))

/-- R559, R572: XDISP of a bin of this die to a buffer of this device copies the rows its records name, and the records with this
device as their source, behind BASE, counts them in the permit entry and credits RCN; what the entry does not admit is refused
whole, by status. A thread asks for the words of the descriptor first, and executes again with them. R573: XCOMB answers 6 for a bad
descriptor and 0 for an empty list; a list of entries of one token gives one output row: each column is the sum of weight times
element over the valid entries, in list order, rounded at each step, then converted. A thread asks for the words of the descriptor
first, and executes again with them. What the spec leaves open here is as the model chose, log entries 66 and 71. -/
def Obligations.DispatchAndCombine : Prop :=
  (∀ (f : FmtA) (s : State) (g : Gtid) (own : Nat), unitRuns s g → s.guardTrue f.g = true → noErrors s →
     s.fab.answers = [] → deviceIs s own → s.waits = [] →
     let hdr := s.rdInt f.sa
     let va := s.rdInt f.sb
     va.toNat % 64 = 0 → hdr.toNat % 16 = 0 →
     (∀ p, onThread s g → (s.task g).got = [] → pageHit s s.memTlb g .load va 64 p →
       ∃ t, exec (.xdisp f) s = .next t ∧ asksForWords s t g va 8 8 p) ∧
     ∀ v, wordsRead s g va 8 8 v →
     let w (i : Nat) : Word := BitVec.ofNat 64 (v / 2 ^ (64 * i))
     let d := bitsOf (w 4) 32 2
     let e := bitsOf (w 3) 32 10
     let b := bitsOf (w 3) 0 16
     let base := bitsOf (w 3) 16 16
     (dispatchInvalid w → ∃ t, exec (.xdisp f) s = .next t ∧ statusIs s t g f.d (specStatus 6)) ∧
     ∀ x : DispatchPages, ¬dispatchInvalid w →
       let n := binCount s x hdr
       (xchHit s g .load hdr 16 x.hp → windowOf (x.hp.pa hdr) = .tile → paDie (x.hp.pa hdr) = (s.task g).die → 65536 < n * b →
         ∃ t, exec (.xdisp f) s = .next t ∧ hasStatus t s f.d (specStatus 8) ∧ sameStores s t) ∧
       (n ≠ 0 → n * b ≤ 65536 → dispatchMaps s g x w hdr →
         (permitAt s d e = none → ∃ t, exec (.xdisp f) s = .next t ∧ hasStatus t s f.d (specStatus 1) ∧ sameStores s t) ∧
         (∀ p, permitAt s d e = some p → (w 4).setWidth 32 ≠ p.step → ∃ t, exec (.xdisp f) s = .next t ∧ hasStatus t s f.d (specStatus 2) ∧
           sameStores s t) ∧
         (∀ p, permitAt s d e = some p → (w 4).setWidth 32 = p.step → ¬granted p own base n → ∃ t, exec (.xdisp f) s = .next t ∧
           hasStatus t s f.d (specStatus 7) ∧ sameStores s t) ∧
         ∀ p, permitAt s d e = some p → (w 4).setWidth 32 = p.step → granted p own base n → ∃ t, exec (.xdisp f) s = .next t ∧
           hasStatus t s f.d 0 ∧ t.shares = s.shares ∧ permitAt t d e = some { p with used := p.used + n } ∧
           (∀ i k, i < n → k < b → t.memByte (x.dp.pa (rowsTo w) + i * b + k) = s.memByte ((x.rp i).pa (rowFrom s x w hdr i) + k)) ∧
           (∀ i, i < n → bytesFrom t.memByte (x.mp.pa (recordsTo w) + 16 * i) 8 = bytesFrom s.memByte (x.hp.pa hdr + 16 + 16 * i) 8 ∧
             let r := BitVec.ofNat 64 (bytesFrom s.memByte (x.hp.pa hdr + 16 + 16 * i + 8) 8)
             bytesFrom t.memByte (x.mp.pa (recordsTo w) + 16 * i + 8) 8 = ((r &&& 0xFFFFF000FFFFFFFF) ||| BitVec.ofNat 64 (own * 2 ^ 32)).toNat) ∧
           (∀ a, (a < x.dp.pa (rowsTo w) ∨ x.dp.pa (rowsTo w) + n * b ≤ a) → (a < x.mp.pa (recordsTo w) ∨ x.mp.pa (recordsTo w) + 16 * n ≤ a) →
             t.memByte a = s.memByte a) ∧
           ((w 3).getLsbD 42 = true → .receiveCounterCredit (bitsOf (w 3) 43 14) 1 ∈ t.agenda))) ∧
  (∀ (f : FmtA) (s : State) (g : Gtid), unitRuns s g → s.guardTrue f.g = true → noErrors s → s.fab.answers = [] →
     s.waits = [] →
     let va := s.rdInt f.sa
     va.toNat % 64 = 0 →
     (∀ p, onThread s g → (s.task g).got = [] → pageHit s s.memTlb g .load va 64 p →
       ∃ t, exec (.xcomb f) s = .next t ∧ asksForWords s t g va 8 8 p) ∧
     ∀ v, wordsRead s g va 8 8 v →
     let w (i : Nat) : Word := BitVec.ofNat 64 (v / 2 ^ (64 * i))
     (combineInvalid w → ∃ t, exec (.xcomb f) s = .next t ∧ statusIs s t g f.d (specStatus 6)) ∧
     (¬combineInvalid w → bitsOf (w 1) 0 32 = 0 → ∃ t, exec (.xcomb f) s = .next t ∧ hasStatus t s f.d 0 ∧ sameStores s t) ∧
     ∀ x : CombinePages, ¬combineInvalid w → bitsOf (w 1) 0 32 ≠ 0 → combineMaps s g x w →
       let ofmt := bitsOf (w 4) 20 4
       let b := fmtBits ofmt / 8
       let o := x.op.pa (outOf s x w)
       ∃ t, exec (.xcomb f) s = .next t ∧ hasStatus t s f.d 0 ∧ t.shares = s.shares ∧
         (∀ c, c < bitsOf (w 4) 0 16 → bytesFrom t.memByte (o + c * b) b =
           (fConvert (floatFmt ofmt) 0 false (fDecode (floatFmt 2) (specColumn (bitsOf (w 4) 16 4) c (combined s x w)))).bits) ∧
         ∀ a, a < o ∨ o + bitsOf (w 4) 0 16 * b ≤ a → t.memByte a = s.memByte a)

/-- R523, R525: a flit with a bad CRC is counted and refused; one out of order is refused; the next expected is accepted: the port
expects the one after it, and its data, once they end a message, ask for the step that receives it. FACK takes the flits it covers
from the replay buffer. R525: a replay is due on a NAK or after 2,000 ticks without an advance of FACK; when a further one falls due
after 16 of them without an advance the port goes down. A link that goes down loses its replay buffer and counts the event; one that
comes up starts anew. What the spec leaves open here is as the model chose, log entry 61. -/
def Obligations.FlitsAndLinks : Prop :=
  (∀ (p : Nat) (f : List Byte) (s : State),
     (flitComes s p f → ¬crcGood f → ∃ t, exec (.flitReceive p f) s = .next t ∧ t.reg (portWord p 24) = s.reg (portWord p 24) + 1 ∧
       (∀ r, r ≠ portWord p 24 → t.reg r = s.reg r) ∧ (linkAt t p).expect = (linkAt s p).expect ∧ t.agenda = s.agenda ∧ onlyLinks s t) ∧
     (flitComes s p f → crcGood f → flitNumber f ≠ (linkAt s p).expect → ∃ t, exec (.flitReceive p f) s = .next t ∧
       (linkAt t p).expect = (linkAt s p).expect ∧ t.agenda = s.agenda ∧ t.regs = s.regs ∧ onlyLinks s t) ∧
     (flitComes s p f → crcGood f → flitNumber f = (linkAt s p).expect → flitKind f ≠ 0 → ∃ t, exec (.flitReceive p f) s = .next t ∧
       (linkAt t p).expect = ((linkAt s p).expect + 1) % 4096 ∧ t.agenda = s.agenda ∧ t.regs = s.regs ∧ onlyLinks s t) ∧
     (∀ m : Msg, flitComes s p f → crcGood f → flitNumber f = (linkAt s p).expect → flitKind f = 0 → flitChannel f < 6 → flitBit f 28 = true →
       flitBit f 29 = true → msgParse ((f.drop 8).take 240) = some m → m.typ ≠ 0x08 → ∃ t, exec (.flitReceive p f) s = .next t ∧
       (linkAt t p).expect = ((linkAt s p).expect + 1) % 4096 ∧ t.agenda = s.agenda ++ [receiveStep p m] ∧ t.regs = s.regs ∧ onlyLinks s t) ∧
     (∀ a x b, flitComes s p f → crcGood f → (linkAt s p).replay = a ++ x :: b → flitNumber x = flitFack f → (∀ y ∈ a, flitNumber y ≠ flitFack f) →
       ∃ t l, exec (.flitReceive p f) s = .next t ∧ (linkAt t p).replay = b ++ l) ∧
     (32 ≤ p ∨ ¬linkUp s p ∨ f.length ≠ 256 → exec (.flitReceive p f) s = .next s)) ∧
  ((∀ (p : Nat) (s : State),
     let x := linkAt s p
     let due := p < 32 ∧ linkUp s p ∧ x.replay ≠ [] ∧ (x.nak = true ∨ 2000 ≤ (s.dcc - x.lastFack).toNat)
     (¬due → exec (.linkReplay p) s = .next s) ∧
     (due → x.replays < 16 → ∃ t, exec (.linkReplay p) s = .next t ∧
       linkAt t p = { x with nak := false, replays := x.replays + 1, lastFack := s.dcc } ∧
       t.reg (portWord p 16) = s.reg (portWord p 16) + 1 ∧ (∀ r, r ≠ portWord p 16 → t.reg r = s.reg r) ∧
       (∀ q, q ≠ p → linkAt t q = linkAt s q) ∧ onlyLinks s t) ∧
     (due → 16 ≤ x.replays → ∃ t, exec (.linkReplay p) s = .next t ∧ linkAt t p = {} ∧ ¬linkUp t p ∧
       (t.reg (portWord p 8)).getLsbD 1 = true ∧ onlyLinks s t)) ∧
   (∀ (p : Nat) (s : State),
     (p < 35 → linkUp s p → ∃ t, exec (.linkDown p) s = .next t ∧ linkAt t p = {} ∧
       t.reg (portWord p 8) = BitVec.ofNat 64 (2 + (bitsOf (s.reg (portWord p 8)) 16 32 + 1) % 2 ^ 32 * 2 ^ 16) ∧
       (∀ r, r ≠ portWord p 8 → t.reg r = s.reg r) ∧ (∀ q, q ≠ p → linkAt t q = linkAt s q) ∧ onlyLinks s t) ∧
     (35 ≤ p ∨ ¬linkUp s p → exec (.linkDown p) s = .next s)) ∧
   ∀ (p : Nat) (s : State),
     (p < 35 → ¬linkUp s p → (s.reg (portWord p 0)).getLsbD 0 = true → (∀ e ∈ s.fab.tx, ∀ x ∈ (txAt s e.1).unacked, x.out = true) →
       ∃ t, exec (.linkUp p) s = .next t ∧ linkUp t p ∧ linkAt t p = { lastFack := s.dcc } ∧
         bitsOf (t.reg (portWord p 8)) 16 32 = bitsOf (s.reg (portWord p 8)) 16 32 ∧ (∀ r, r ≠ portWord p 8 → t.reg r = s.reg r) ∧
         (∀ q, q ≠ p → linkAt t q = linkAt s q) ∧ onlyLinks s t) ∧
     (35 ≤ p ∨ linkUp s p ∨ (s.reg (portWord p 0)).getLsbD 0 = false → exec (.linkUp p) s = .next s))

/-- R522, R528, R531, R534: a message that is not this device's, or not on its channel, is counted and discarded, as is one that
must be sealed and is not; one beyond the window is discarded; a duplicate is counted, and its kept reply goes out again; nothing of
it is performed. This holds alike for requests of permits, dispatches and all other sequenced messages. R403, R494, R526, R528,
R531, R563: the next message of a pair performs, and is marked: a store writes its payload at its address; a get is answered with
the bytes there; the reply of a load fills the register that waits for it, and its receipt is to be confirmed. A chunk is handed to
the loader, and takes no number. What the spec leaves open here is as the model chose, log entries 20 and 62. -/
def Obligations.MessagesPerformOnce : Prop :=
  (∀ (p : Nat) (m : Msg) (s : State), p < 35 → m.typ ≠ 0x08 → m.typ ≠ 0x30 →
     ((s.reg (fabWord 0x5000)).getLsbD 12 = false → exec (receiveStep p m) s = .next s) ∧
     (∀ own, deviceIs s own → m.dst.toNat ≠ own ∨ specChannel m.typ.toNat ≠ some m.vc.toNat → ∃ t, exec (receiveStep p m) s = .next t ∧
       countsOne s t (fabWord 0x5038)) ∧
     (deviceIs s m.dst.toNat → specChannel m.typ.toNat = some m.vc.toNat → m.enc = false →
       (s.reg (fabWord (0x100000 + 128 * m.src.toNat + 64))).getLsbD 1 = true → ∃ t, exec (receiveStep p m) s = .next t ∧
       countsOne s t (fabWord 0x5028)) ∧
     (forUs s m → numbered s m 4096 → exec (receiveStep p m) s = .next s) ∧
     (∀ n, forUs s m → (rxAt s m.src.toNat).base = n + 1 → m.seq.toNat = n % 2 ^ 32 →
       let kept (e : CachedReply) : Prop := e.src = m.src.toNat ∧ e.seq = m.seq
       ((∀ d e, d < 4 → e ∈ Tbl.get [] s.fab.cache d → ¬kept e) → ∃ t, exec (receiveStep p m) s = .next t ∧ countsOne s t (fabWord 0x5020)) ∧
       ∀ e rest r q, Tbl.get [] s.fab.cache 0 = e :: rest → kept e → e.reply = some r → onePath s 0 m.src.toNat q →
         ∃ t, exec (receiveStep p m) s = .next t ∧ t.fab.wire = (q, { r with path := 0 }) :: s.fab.wire ∧
           rxAt t m.src.toNat = rxAt s m.src.toNat ∧ t.mem = s.mem ∧ t.tags = s.tags ∧ t.tasks = s.tasks)) ∧
  (∀ (p : Nat) (m : Msg) (s : State), p < 35 →
     let pa := m.w2.toNat
     (forUs s m → numbered s m 0 → m.typ = 0x01 → m.payload ≠ [] → peerRange pa m.payload.length = true → noErrors s →
       ∃ t, exec (.messageReceive p m) s = .next t ∧ markedNow s t m ∧ (∀ k, k < m.payload.length → t.memByte (pa + k) = m.payload.getD k 0) ∧
         (∀ a, a < pa ∨ pa + m.payload.length ≤ a → t.memByte a = s.memByte a) ∧ t.tags = s.tags ∧ t.tasks = s.tasks ∧ t.shares = s.shares) ∧
     (forUs s m → numbered s m 0 → m.typ = 0x13 → 0 < m.w3.toNat → peerRange pa m.w3.toNat = true → noErrors s →
       (txAt s m.src.toNat).failed = false → inClear s m.src.toNat →
       ∃ t, exec (.messageReceive p m) s = .next t ∧ markedNow s t m ∧ (messageSent s t m.src.toNat fun r => r.typ = 0x14 ∧ r.w2 = m.seq.setWidth 64 ∧
         r.w3 = 0 ∧ r.payload.length = m.w3.toNat ∧ ∀ k, k < m.w3.toNat → r.payload.getD k 0 = s.memByte (pa + k)) ∧
         t.mem = s.mem ∧ t.tags = s.tags ∧ t.tasks = s.tasks ∧ t.shares = s.shares) ∧
     (∀ (g : Gtid) (o : MemOp) (d : BitVec 6) (n : Nat) (sx : Bool), forUs s m → numbered s m 0 → m.typ = 0x03 → s.fab.answers = [] →
       (txAt s m.src.toNat).expects = [(m.w2.setWidth 32, .part g 0)] → (s.task g).memOp = some o → o.dest = .int d n sx → o.parts = [(n, none)] →
       o.acquire = false → (n = 1 ∨ n = 2 ∨ n = 4 ∨ n = 8) → m.payload.length = 8 → m.w3 = 0 →
       ∃ t, exec (.messageReceive p m) s = .next t ∧ markedNow s t m ∧ (t.task g).memOp = none ∧
         regOf t g d = specExtend n sx (bytesFrom (fun k => m.payload.getD k 0) 0 n) ∧ (∀ k, k ≠ d → regOf t g k = regOf s g k) ∧
         (txAt t m.src.toNat).expects = [] ∧ t.mem = s.mem ∧ t.tags = s.tags ∧ ∀ g', g' ≠ g → t.task g' = s.task g') ∧
     (deviceIs s m.dst.toNat → m.vc = 5 → m.typ = 0x30 → m.enc = false →
       (s.reg (fabWord (0x100000 + 128 * m.src.toNat + 64))).getLsbD 1 = false → ∃ t, exec (.messageReceive p m) s = .next t ∧
         t.agenda = s.agenda ++ [.chunk m.payload] ∧ { t with agenda := s.agenda, regs := s.regs } = s))

/-- R557 to R560, R572: the next permit request of a pair reaches its entry, which gathers it, grants it, or answers a status; the
next dispatch is written where a grant of the entry covers it, and refused whole where not; the sender has its status in a reply.
What the spec leaves open here is as the model chose, log entries 20 and 66. -/
def Obligations.PermitMessagesReachTheEntry : Prop :=
  ∀ (p : Nat) (m : Msg) (s : State), p < 35 → forUs s m → numbered s m 0 → (txAt s m.src.toNat).failed = false → inClear s m.src.toNat →
    let src := m.src.toNat
    let told (t : State) (c : Word) : Prop := messageSent s t src fun r => r.typ = 0x17 ∧ r.w2 = m.seq.setWidth 64 ∧ r.payload = leBytes c.toNat 8
    (m.typ = 0x16 →
      let d := bitsOf m.w2 10 2
      let e := bitsOf m.w2 0 10
      let count := bitsOf m.w2 16 16
      (permitAt s d e = none → ∃ t, exec (.permitRequestReceive p m) s = .next t ∧ markedNow s t m ∧ told t (specStatus 1) ∧ t.xch = s.xch) ∧
      ∀ x, permitAt s d e = some x → m.w3.setWidth 32 = x.step → (∀ r ∈ x.gathered, r.dev ≠ src) → (∀ r ∈ x.grants, r.1 ≠ src) →
        (x.closed = true → ∃ t, exec (.permitRequestReceive p m) s = .next t ∧ markedNow s t m ∧ told t (specGrantWord x count true) ∧
          permitAt t d e = some { x with grants := x.grants ++ [(src, grantedSum x, specGrant x count)] } ∧ onlyPermit s t d e ∧ sameStores s t) ∧
        (x.closed = false → x.gathered.length + 1 < x.nsend → ∃ t r, exec (.permitRequestReceive p m) s = .next t ∧ markedNow s t m ∧
          permitAt t d e = some { x with gathered := x.gathered ++ [r], since := some (x.since.getD s.dcc) } ∧ r.dev = src ∧ r.count = count ∧
          onlyPermit s t d e ∧ sameStores s t)) ∧
    (m.typ = 0x18 → ∀ (q : Dispatch) (l : List (Nat × List Byte)), unpackDispatch m = (q, l) → q.die < 4 →
      (permitAt s q.die q.expert = none → ∃ t, exec (.dispatchReceive p m) s = .next t ∧ markedNow s t m ∧ told t (specStatus 1) ∧ sameStores s t) ∧
      ∀ x, permitAt s q.die q.expert = some x →
        (q.step ≠ x.step → ∃ t, exec (.dispatchReceive p m) s = .next t ∧ markedNow s t m ∧ told t (specStatus 2) ∧ sameStores s t ∧ t.xch = s.xch) ∧
        (q.step = x.step → ¬granted x q.dev q.base q.n → ∃ t, exec (.dispatchReceive p m) s = .next t ∧ markedNow s t m ∧ told t (specStatus 7) ∧
          sameStores s t ∧ t.xch = s.xch) ∧
        ∀ pa bs, q.step = x.step → granted x q.dev q.base q.n → l = [(pa, bs)] → bs ≠ [] → peerRange pa bs.length = true → noErrors s →
          ∃ t, exec (.dispatchReceive p m) s = .next t ∧ markedNow s t m ∧ told t 0 ∧ permitAt t q.die q.expert = some { x with used := x.used + q.n } ∧
            (∀ k, k < bs.length → t.memByte (pa + k) = bs.getD k 0) ∧ (∀ a, a < pa ∨ pa + bs.length ≤ a → t.memByte a = s.memByte a) ∧
            (q.rce = true → .receiveCounterCredit q.rcn 1 ∈ t.agenda) ∧ t.tags = s.tags)

/-- R528 to R531: an acknowledgement frees the messages it covers, and tells each sender; a receiver sends one for what it has
performed; a message unacknowledged for e2eto ticks goes again, with the same bytes, until e2eretry sendings mark its destination
failed; pairclr starts the chosen sides of a pair anew. R404, R533: a release write performs once every marker of its tag has come
and every number below its own has performed: its value is in memory, it is marked, and its flush is over; before that nothing
happens. What the spec leaves open here is as the model chose, log entries 20 and 64. -/
def Obligations.AcknowledgementsAndReleases : Prop :=
  ((∀ (p : Nat) (m : Msg) (s : State), p < 35 → deviceIs s m.dst.toNat → m.typ = 0x08 → m.vc = 2 → m.enc = false → m.payload = [] →
     (s.reg (fabWord (0x100000 + 128 * m.src.toNat + 64))).getLsbD 1 = false → s.fab.answers = [] → (txAt s m.src.toNat).waiting = [] →
     ∀ (x : Sent) (rest : List Sent) (g : Gtid) (va : Word), (txAt s m.src.toNat).unacked = x :: rest → m.w2 = BitVec.ofNat 64 ((x.seq64 + 1) % 2 ^ 32) → m.w3 = 0 →
       (∀ y ∈ rest, x.seq64 < y.seq64) → x.why = .store g va → x.asks = false →
       ∃ t, exec (.ackReceive p m) s = .next t ∧ (txAt t m.src.toNat).unacked = rest ∧ (txAt t m.src.toNat).waiting = [] ∧
         Tbl.get 0 (t.task g).remoteOut m.src.toNat = Tbl.get 0 (s.task g).remoteOut m.src.toNat - 1 ∧
         (t.task g).remoteFail = (s.task g).remoteFail ∧ (∀ g', g' ≠ g → t.task g' = s.task g') ∧ t.mem = s.mem ∧ t.tags = s.tags) ∧
   (∀ (dev : Nat) (s : State),
     ((rxAt s dev).unacked = 0 → exec (.ackSend dev) s = .next s) ∧
     ∀ own q, (rxAt s dev).unacked ≠ 0 → deviceIs s own → dev < 4096 → onePath s 0 dev q → ∃ t m, exec (.ackSend dev) s = .next t ∧
       t.fab.wire = (q, m) :: s.fab.wire ∧ m.typ = 0x08 ∧ m.vc = 2 ∧ m.dst.toNat = dev ∧ m.src.toNat = own ∧
       m.w2 = BitVec.ofNat 64 ((rxAt s dev).base % 2 ^ 32) ∧ (∀ i, i < 64 → m.w3.getLsbD i = (rxAt s dev).got.contains ((rxAt s dev).base + 1 + i)) ∧
       (rxAt t dev).unacked = 0 ∧ (rxAt t dev).base = (rxAt s dev).base ∧ t.mem = s.mem ∧ t.tags = s.tags ∧ t.tasks = s.tasks) ∧
   (∀ (dev : Nat) (seq : BitVec 32) (s : State) (a : List Sent) (x : Sent) (b : List Sent), (txAt s dev).unacked = a ++ x :: b → x.msg.seq = seq →
     (∀ y ∈ a ++ b, y.msg.seq ≠ seq) →
     let after := if s.reg (fabWord 0x5008) = 0 then 1 else s.reg (fabWord 0x5008)
     let most := Nat.max 1 (bitsOf (s.reg (fabWord 0x5010)) 0 8)
     (s.dcc - x.sentAt < after → exec (.e2eRetransmit dev seq) s = .next s) ∧
     (∀ q, after ≤ s.dcc - x.sentAt → x.count < most → onePath s x.die dev q → x.fallback = false → ∃ t, exec (.e2eRetransmit dev seq) s = .next t ∧
       t.fab.wire = (q, { x.msg with path := 0 }) :: s.fab.wire ∧
       (txAt t dev).unacked = a ++ { x with msg := { x.msg with path := 0 }, out := true, sentAt := s.dcc, count := x.count + 1 } :: b ∧
       t.mem = s.mem ∧ t.tags = s.tags ∧ t.tasks = s.tasks) ∧
     (after ≤ s.dcc - x.sentAt → most ≤ x.count → ∃ t, exec (.e2eRetransmit dev seq) s = .next t ∧ (txAt t dev).failed = true ∧
       (txAt t dev).unacked = [] ∧ (txAt t dev).waiting = [] ∧ t.reg (fabWord 0x5030) = s.reg (fabWord 0x5030) + 1)) ∧
   ∀ (v : Word) (s : State), ∃ t, exec (.pairClear v) s = .next t ∧
     (let dev := bitsOf v 0 12
      (txAt t dev = if v.getLsbD 12 then {} else txAt s dev) ∧ (rxAt t dev = if v.getLsbD 13 then {} else rxAt s dev) ∧
        (∀ d, d ≠ dev → txAt t d = txAt s d ∧ rxAt t d = rxAt s d) ∧
        { t with fab := { t.fab with tx := s.fab.tx, rx := s.fab.rx } } = s)) ∧
  (∀ (m : Msg) (s : State) (f : Flush), m.typ = 0x07 → s.fab.held = [m] → s.fab.flushes = [f] → f.src = m.src.toNat → f.tag = m.w2 →
     let word (i : Nat) : Nat := bytesFrom (fun k => m.payload.getD k 0) (8 * i) 8
     let base := (rxAt s m.src.toNat).base
     (f.got < m.w3.toNat ∨ (m.seq.toNat = (base + 1) % 2 ^ 32) → exec (.releaseWritePerform m) s = .next s) ∧
     let n := word 1 % 256
     (m.w3.toNat ≤ f.got → m.seq.toNat = base % 2 ^ 32 → 24 ≤ m.payload.length → word 1 / 256 = 32 → 0 < n → n ≤ 8 → peerRange (word 0) n = true →
       noErrors s → ∃ t, exec (.releaseWritePerform m) s = .next t ∧ bytesFrom t.memByte (word 0) n = word 2 % 2 ^ (8 * n) ∧
         (∀ a, a < word 0 ∨ word 0 + n ≤ a → t.memByte a = s.memByte a) ∧ markedNow s t m ∧ t.fab.held = [] ∧ t.fab.flushes = [] ∧
         t.tags = s.tags ∧ t.tasks = s.tasks))

/-- R11, R473, R503, R505: a master's write sets the bits of a register that can be written; the host's write to an M-only register,
and any to an address that no chapter defines, is ignored; a command register takes a command only while DONE is 1. A read gives the
register's value, and clears an RC register. REGREAD and REGWRITE do the same and are answered. R464, R485: in recovery every
command but RESET and FWUPDATE fails and changes nothing. KILL of a task ends its gang. R477 to R480: SPARE answers 2 where a spare
of that kind serves already, 3 for a unit that does not exist, 1 for one that is not idle; else the spare takes the unit's index,
with its state as at reset. UNSPARE withdraws a substitution under the same test. What the spec leaves open here is as the model
chose, log entries 30, 42, 94 and 95. -/
def Obligations.RegisterAccessesAndSpares : Prop :=
  ((∀ (host : Bool) (pa : Nat) (v : Word) (s : State),
     (regSpec pa = none → exec (.registerWrite host pa v) s = .next s) ∧
     ∀ r, regSpec pa = some r →
       (r.mOnly = true → exec (.registerWrite true pa v) s = .next s) ∧
       ((r.mOnly = true → host = false) → plainWrite pa → ∃ t, exec (.registerWrite host pa v) s = .next t ∧
         t.reg pa = (s.reg pa &&& ~~~r.rw) ||| (v &&& r.rw) ∧ (∀ q, q ≠ pa → t.reg q = s.reg q) ∧ { t with regs := s.regs } = s) ∧
       (∀ e ∈ commandRegs, e.1 = pa →
         ((s.reg pa).getLsbD 63 = false → exec (.registerWrite host pa v) s = .next s) ∧
         ((s.reg pa).getLsbD 63 = true → v.toNat % e.2.1 ≠ 0 → v.toNat % e.2.1 ≤ e.2.2 → ∃ t, exec (.registerWrite host pa v) s = .next t ∧
           t.reg pa = v &&& r.rw ∧ (t.reg pa).getLsbD 63 = false ∧ (∀ q, q ≠ pa → t.reg q = s.reg q) ∧ { t with regs := s.regs } = s))) ∧
   (∀ (pa : Nat) (s : State),
     (∀ r, regSpec pa = some r → inBlocks pa → r.rc = true → ∃ t, exec (.readClearRegister pa) s = .next t ∧ t.reg pa = 0 ∧
       (∀ q, q ≠ pa → t.reg q = s.reg q) ∧ { t with regs := s.regs } = s) ∧
     ((∀ r, regSpec pa = some r → r.rc = false) → exec (.readClearRegister pa) s = .next s)) ∧
   (∀ (w : Caller) (pa : Nat) (s : State), s.sec.recovery = false →
     (¬inBlocks pa → ∃ t, exec (.regread w pa) s = .next t ∧ refusedBy s t w) ∧
     (inBlocks pa → ∃ t u, exec (.regread w pa) s = .next t ∧ exec (.readClearRegister (pa / 8 * 8)) s = .next u ∧
       answers s t w 0 ((List.range 8).map fun i => byteOf (s.view (pa / 8 * 8)) i) ∧ { t with answered := s.answered } = { u with answered := s.answered })) ∧
   ∀ (w : Caller) (pa : Nat) (v : Word) (s : State), s.sec.recovery = false →
     (¬inBlocks pa → ∃ t, exec (.regwrite w pa v) s = .next t ∧ refusedBy s t w) ∧
     (inBlocks pa → ∃ t u, exec (.regwrite w pa v) s = .next t ∧
       exec (.registerWrite (match w with | .lcp _ _ => true | .sideband _ => false) (pa / 8 * 8) v) s = .next u ∧
       t.answered = .reply w 0 [] :: u.answered ∧ { t with answered := s.answered } = { u with answered := s.answered })) ∧
  ((∀ (w : Caller) (i : Instr) (s : State), isCommand w i → s.sec.recovery = true → ∃ t, exec i s = .next t ∧ refusedBy s t w) ∧
   ∀ (w : Caller) (g : Gtid) (s : State) (l : Launch) (x : Gang), s.sec.recovery = false → (s.task g).st ≠ .absent →
     s.gang? (s.task g).launch (s.task g).gang = some (l, x) → x.tasks.Nodup → noErrors s →
     ∃ t, exec (.kill w g) s = .next t ∧ endsGang s t x ∧ answers s t w 0 [] ∧ t.tags = s.tags ∧
       ((∀ h ∈ x.tasks, (s.task h).isRow = false) → t.mem = s.mem)) ∧
  (∀ (w : Caller) (d kind unit row : Nat) (s : State), s.sec.recovery = false →
     (3 ≤ kind → d < 4 → ∃ t, exec (.spare w d kind unit row) s = .next t ∧ answers s t w 3 [] ∧ { t with regs := s.regs, answered := s.answered } = s) ∧
     (spareArgs d kind row →
       let at0 := servedBy s d kind row
       let spare (st : Nat) (now : Option Nat) : Prop := ∃ t, exec (.spare w d kind unit row) s = .next t ∧ spareEnds s t w d kind row st unit now
       let unspare (st : Nat) (now : Option Nat) : Prop := ∃ t, exec (.unspare w d kind unit row) s = .next t ∧
         spareEnds s t w d kind row st unit now
       (at0 ≠ none → spare 2 at0) ∧
       (at0 = none → ¬unitExists kind unit → spare 3 none) ∧
       (at0 = none → unitExists kind unit → ¬unitFree s d kind row → spare 1 none) ∧
       (at0 = none → unitExists kind unit → unitFree s d kind row → spare 0 (some unit)) ∧
       (unitExists kind unit → at0 = some unit → unitFree s d kind row → unspare 0 none) ∧
       (unitExists kind unit → at0 = some unit → ¬unitFree s d kind row → unspare 1 at0) ∧
       (¬unitExists kind unit ∨ at0 ≠ some unit → unspare 3 at0)))

/-- R424, R475, R481: a repair ends with status 1 where the die is not quiet, 2 where no repair is left, else 0: its atoms keep data
and tags. The list of bad pages takes a frame once, up to 4,096 of them, and gives it up. What the spec leaves open here is as the
model chose, log entry 13. -/
def Obligations.RepairsAndBadPages : Prop :=
  (∀ (d : Nat) (s : State), d < 4 →
    let stat := dieReg d 3 0x18
    ((s.reg stat).getLsbD 63 = true → exec (.pprRepair d) s = .next s) ∧
    ((s.reg stat).getLsbD 63 = false →
      let idle := (s.setReg stat (BitVec.ofNat 64 (2 ^ 63))).quietDie d = true
      let row := hbmRow (bitsOf (s.reg (dieReg d 3 0x10)) 0 38)
      (¬idle → ∃ t, exec (.pprRepair d) s = .next t ∧ t.reg stat = BitVec.ofNat 64 (2 ^ 63 + 1) ∧ (∀ q, q ≠ stat → t.reg q = s.reg q) ∧
        { t with regs := s.regs } = s) ∧
      (idle → Config.repairLeft s.sec.repairs d row = false → ∃ t, exec (.pprRepair d) s = .next t ∧ t.reg stat = BitVec.ofNat 64 (2 ^ 63 + 2) ∧
        (∀ q, q ≠ stat → t.reg q = s.reg q) ∧ { t with regs := s.regs } = s) ∧
      (idle → Config.repairLeft s.sec.repairs d row = true → noErrors s → ∃ t, exec (.pprRepair d) s = .next t ∧
        t.reg stat = BitVec.ofNat 64 (2 ^ 63) ∧ t.sec = { s.sec with repairs := s.sec.repairs ++ [(d, row)] } ∧ t.mem = s.mem ∧ t.tags = s.tags ∧
        t.tasks = s.tasks ∧ t.shares = s.shares))) ∧
  ∀ (w : Caller) (e : Word) (s : State), s.sec.recovery = false →
    let f := bitsOf e 16 32
    let listed := Tbl.find? s.sec.badPages f
    (4096 ≤ s.sec.badPages.length ∨ listed ≠ none → ∃ t, exec (.badadd w e) s = .next t ∧ refusedBy s t w) ∧
    (s.sec.badPages.length < 4096 → listed = none → ∃ t, exec (.badadd w e) s = .next t ∧ answers s t w 0 [] ∧
      Tbl.find? t.sec.badPages f = some (bitsOf e 8 8) ∧ (∀ k, k ≠ f → Tbl.find? t.sec.badPages k = Tbl.find? s.sec.badPages k) ∧
      { t with answered := s.answered, sec := { t.sec with badPages := s.sec.badPages } } = s) ∧
    (listed = none → ∃ t, exec (.badclr w e) s = .next t ∧ refusedBy s t w) ∧
    (listed ≠ none → ∃ t, exec (.badclr w e) s = .next t ∧ answers s t w 0 [] ∧ Tbl.find? t.sec.badPages f = none ∧
      (∀ k, k ≠ f → Tbl.find? t.sec.badPages k = Tbl.find? s.sec.badPages k) ∧
      { t with answered := s.answered, sec := { t.sec with badPages := s.sec.badPages } } = s)

/-- R483 to R486, R489, R505: module reset keeps flash and fuses, leaves every other state as after reset, and boots: it ends in
recovery exactly where some KIND has no accepted copy, else M0 to M3 hold the images' measurements. FWUPDATE writes the copy not
booted from; SVN raises a minimum no further than an accepted copy. R488 to R490: OWNER sets the hash of the owner's key once, then
answers 4. ENROL and REVOKE answer the first check that fails; with none they write the slot, count, and extend M4. ATTEST gives a
report of 640 bytes with the nonce and every measurement. What the spec leaves open here is as the model chose, log entries 14, 15,
42 and 93. -/
def Obligations.FirmwareAndKeys : Prop :=
  ((∀ s : State, ∃ t, exec .moduleReset s = .next t ∧ t.mem = [] ∧ t.tags = [] ∧ t.tasks = State.reset.tasks ∧ t.shares = State.reset.shares ∧
     t.sched = State.reset.sched ∧ t.agenda = State.reset.agenda ∧ t.sec.copyA = s.sec.copyA ∧ t.sec.copyB = s.sec.copyB ∧ t.sec.minSvn = s.sec.minSvn ∧
     t.sec.ownerHash = s.sec.ownerHash ∧ t.sec.badPages = s.sec.badPages ∧ t.sec.spares = s.sec.spares ∧ t.sec.actgen = [] ∧
     (∀ i w, i < 16 → w < 14 → slotWord t i w = slotWord s i w) ∧ (∀ d, d < 4 → spareWord t d = spareWord s d) ∧
     (∀ r, (∀ o, o < 0x2000 → r ≠ ioReg 0 0 o) → (∀ d, d < 4 → r ≠ dieReg d 3 0) → t.reg r = State.reset.reg r) ∧
     (t.sec.recovery = true ↔ ∃ k, 1 ≤ k ∧ k ≤ 4 ∧ ∀ img, ¬boots s k img) ∧
     ((∀ k, 1 ≤ k → k ≤ 4 → ∃ img, boots s k img) → ∀ k img, 1 ≤ k → k ≤ 4 → boots s k img →
       measure t (k - 1) = digestOf (List.replicate 48 0 ++ cutOf img 64 48))) ∧
   (∀ (w : Caller) (img : List Byte) (s : State),
     let k := octets img 0 8
     (¬imageGood s k img → ∃ t, exec (.fwupdate w img) s = .next t ∧ answers s t w 1 [] ∧ { t with answered := s.answered } = s) ∧
     (imageGood s k img → ∃ t, exec (.fwupdate w img) s = .next t ∧ answers s t w 0 [] ∧
       copyOf t (!Tbl.get false s.sec.fromB k) k = img ∧ (∀ b q, q ≠ k ∨ b = Tbl.get false s.sec.fromB k → copyOf t b q = copyOf s b q) ∧
       { t with answered := s.answered, sec := { t.sec with copyA := s.sec.copyA, copyB := s.sec.copyB } } = s)) ∧
   ∀ (w : Caller) (k svn : Nat) (s : State), s.sec.recovery = false →
     let fits := 1 ≤ k ∧ k ≤ 4 ∧ Tbl.get 0 s.sec.minSvn k ≤ svn ∧ ∃ b, imageGood s k (copyOf s b k) ∧ svn ≤ octets (copyOf s b k) 8 8
     (fits → ∃ t, exec (.svn w k svn) s = .next t ∧ answers s t w 0 [] ∧ Tbl.get 0 t.sec.minSvn k = svn ∧
       (∀ q, q ≠ k → Tbl.get 0 t.sec.minSvn q = Tbl.get 0 s.sec.minSvn q) ∧
       { t with answered := s.answered, sec := { t.sec with minSvn := s.sec.minSvn } } = s) ∧
     (¬fits → ∃ t, exec (.svn w k svn) s = .next t ∧ refusedBy s t w)) ∧
  ((∀ (w : Caller) (h : BitVec 384) (s : State), s.sec.recovery = false →
     (s.sec.ownerHash ≠ 0 → ∃ t, exec (.owner w h) s = .next t ∧ answers s t w 4 [] ∧ { t with answered := s.answered } = s) ∧
     (s.sec.ownerHash = 0 → ∃ t, exec (.owner w h) s = .next t ∧ answers s t w 0 [] ∧ t.sec = { s.sec with ownerHash := h } ∧
       { t with answered := s.answered, sec := s.sec } = s)) ∧
   (∀ (w : Caller) (b : List Byte) (s : State), s.sec.recovery = false →
     let i : Instr := if octets b 0 1 = 2 then .revoke w b else .enrol w b
     let slot := octets b 1 1 % 16
     let m4 := measure s 4
     (specEnrol s b ≠ 0 → ∃ t, exec i s = .next t ∧ answers s t w (specEnrol s b) [] ∧ { t with answered := s.answered } = s) ∧
     (specEnrol s b = 0 → ∃ t, exec i s = .next t ∧ answers s t w 0 [] ∧ onlyKeys s t ∧ t.reg (ioReg 0 0 0x1700) = s.reg (ioReg 0 0 0x1700) + 1 ∧
       measure t 4 = digestOf (m4 ++ digestOf (cutOf b 0 112)) ∧
       slotStateOf t slot = octets b 0 1 ∧ slotGenOf t slot = (if octets b 0 1 = 1 then 0 else slotGenOf s slot) ∧
       (∀ k, k < 12 → slotWord t slot k = if octets b 0 1 = 1 then BitVec.ofNat 64 (octets b (16 + 8 * k) 8) else slotWord s slot k) ∧
       ∀ j k, j < 16 → j ≠ slot → k < 14 → slotWord t j k = slotWord s j k)) ∧
   ∀ (w : Caller) (nonce : List Byte) (s : State), s.sec.recovery = false →
     (nonce.length ≠ 48 → ∃ t, exec (.attest w nonce) s = .next t ∧ refusedBy s t w) ∧
     (nonce.length = 48 → ∃ t b, exec (.attest w nonce) s = .next t ∧ answers s t w 0 b ∧ b.length = 640 ∧ { t with answered := s.answered } = s ∧
       octets b 0 8 = 1 + 640 * 2 ^ 16 ∧ octets b 8 8 = Config.serial.toNat ∧ cutOf b 16 48 = nonce ∧
       (∀ i, i < 8 → cutOf b (64 + 48 * i) 48 = measure s i) ∧ octets b 448 8 = s.dcc.toNat ∧
       (∀ i, i < 4 → octets b (456 + 2 * i) 2 = Tbl.get 0 s.sec.minSvn (i + 1) % 2 ^ 16) ∧
       (∀ i, i < 16 → octets b (464 + 2 * i) 2 = Tbl.get 0 s.sec.actgen i % 2 ^ 16) ∧ cutOf b 496 48 = digestOf (slotBytes s) ∧
       cutOf b 544 96 = (List.range 96).map fun i => (Config.identitySign (Config.sha384 (b.take 544))).extractLsb' (8 * (95 - i)) 8))

/-- R491 to R493, R500: LOAD ends with the lowest status that applies; with 0 the next session is open: its shards are pending and
their status words zero. R494 to R496: a chunk that fits is written to its place and received; any other is counted and discarded. A
shard with all its bytes is verified where their hash is its digest, else corrupt; one that lacks bytes at the deadline is missing.
RETRY makes a corrupt or missing shard pending again; of any other shard it answers 7. R497: COMMIT answers 8 unless every shard of
a session is verified; without residency it records the generation, extends M5, and closes the session. ABORT closes the session and
changes no residency. What the spec leaves open here is as the model chose, log entry 92. -/
def Obligations.LoaderSessions : Prop :=
  (∀ (s : State) (m : List Byte),
     (¬ldRuns s 1 → exec .load s = .next s) ∧
     (∀ st, ldRuns s 1 → manifestAt s m → st ≠ 0 → specLoad s m st → ∃ t, exec .load s = .next t ∧ onlyEnds s t st) ∧
     (ldRuns s 1 → manifestAt s m → specLoad s m 0 → ∃ t x, exec .load s = .next t ∧ ldEnds s t 0 ∧
       t.ldr = { s.ldr with session := some x, last := s.ldr.last + 1 } ∧ x.num = s.ldr.last + 1 ∧ x.gen = octets m 10 2 ∧
       x.slot = octets m 12 1 % 16 ∧ x.man = m ∧ x.asid = bitsOf (s.reg (ldAt 0x18)) 0 16 ∧ x.tab = (s.reg (ldAt 0x20)).toNat / 8 * 8 ∧
       x.dead = s.reg (ldAt 0x28) ∧ x.start = s.dcc ∧ x.shards.length = octets m 16 8 ∧ (∀ y ∈ x.shards, y.st = 0 ∧ y.pieces = [] ∧ y.tries = 0) ∧
       (∀ i, i < octets m 16 8 → t.memWord (x.tab + 8 * i) = 0) ∧
       (∀ a, a < x.tab ∨ x.tab + 8 * octets m 16 8 ≤ a → t.memByte a = s.memByte a) ∧ countsOf t x ∧ t.tags = s.tags ∧ t.tasks = s.tasks)) ∧
  ((∀ (b : List Byte) (s : State),
     ((∀ x y, ¬chunkFits s b x y) → ∃ t, exec (.chunk b) s = .next t ∧ countsOne s t (ldAt 0x40)) ∧
     ∀ x y, chunkFits s b x y → noErrors s → (y.chunks + 1) % 4096 ≠ 0 → ∃ t, exec (.chunk b) s = .next t ∧
       t.ldr = { s.ldr with session := some (withShard x (chunkShard b)
         { y with pieces := y.pieces ++ [(chunkOff b, b.drop 32)], chunks := y.chunks + 1 }) } ∧
       (∀ k, k < chunkLen b → t.memByte (shardStart x y + chunkOff b + k) = b.getD (32 + k) 0) ∧
       (∀ a, a < shardStart x y + chunkOff b ∨ shardStart x y + chunkOff b + chunkLen b ≤ a → t.memByte a = s.memByte a) ∧
       t.tags = s.tags ∧ t.tasks = s.tasks ∧ t.shares = s.shares) ∧
   (∀ (i : Nat) (s : State) (x : Session) (y : Shard), s.ldr.session = some x → x.shards[i]? = some y →
     (y.st ≠ 0 ∨ gotOf y ≠ y.len → exec (.shardHashed i) s = .next s) ∧
     (∀ l, y.st = 0 → gotOf y = y.len → l.length = y.len → (∀ p ∈ y.pieces, p.2 ≠ [] ∧ ∀ k, k < p.2.length → l.getD (p.1 + k) 0 = p.2.getD k 0) →
       (y.pieces.Pairwise fun p q => p.1 + p.2.length ≤ q.1 ∨ q.1 + q.2.length ≤ p.1) → (∀ p ∈ y.pieces, p.1 + p.2.length ≤ y.len) →
       ∃ t, exec (.shardHashed i) s = .next t ∧ shardNow s t x i { y with st := if Config.sha384 l = y.digest then 1 else 2 }) ∧
     (y.st = 0 → gotOf y ≠ y.len → x.dead.toNat ≤ s.dcc.toNat → ∃ t, exec (.shardDeadline i) s = .next t ∧ shardNow s t x i { y with st := 3 }) ∧
     (y.st ≠ 0 ∨ gotOf y = y.len ∨ s.dcc.toNat < x.dead.toNat → exec (.shardDeadline i) s = .next s)) ∧
   ∀ s : State,
     let i := bitsOf (s.reg (ldAt 0)) 16 32
     (¬ldRuns s 2 → exec .retry s = .next s) ∧
     (ldRuns s 2 → s.ldr.session = none → ∃ t, exec .retry s = .next t ∧ onlyEnds s t 7) ∧
     ∀ x, ldRuns s 2 → s.ldr.session = some x →
       ((∀ y, x.shards[i]? = some y → y.st ≠ 2 ∧ y.st ≠ 3) → ∃ t, exec .retry s = .next t ∧ onlyEnds s t 7) ∧
       ∀ y, x.shards[i]? = some y → (y.st = 2 ∨ y.st = 3) → ∃ t, exec .retry s = .next t ∧ ldEnds s t 0 ∧
         shardNow s t { x with dead := if x.dead.toNat ≤ s.dcc.toNat then s.dcc + (x.dead - x.start) else x.dead } i
           { y with st := 0, pieces := [], chunks := 0, tries := Nat.min 255 (y.tries + 1) }) ∧
  ((∀ s : State,
     let free := ∀ d, d < 4 → (s.reg (dieReg d 1 0x10080)).getLsbD 63 = true
     (¬ldRuns s 3 ∨ ¬free → exec .commit s = .next s) ∧
     (ldRuns s 3 → free → (∀ x, s.ldr.session = some x → ∃ y ∈ x.shards, y.st ≠ 1) → ∃ t, exec .commit s = .next t ∧ onlyEnds s t 8) ∧
     ∀ x, ldRuns s 3 → free → s.ldr.session = some x → x.slot < 16 → x.gen < 2 ^ 16 → (∀ y ∈ x.shards, y.st = 1 ∧ y.res = 0) →
       (∀ d e, d < 4 → e < 1024 → ¬isStaged d e s) → (∀ l ∈ s.lines, ∀ d, d < 4 → 2 ^ 40 + d ∉ l.2.holders) →
       ∃ t, exec .commit s = .next t ∧ ldEnds s t 0 ∧ t.ldr.session = none ∧
         Tbl.find? t.ldr.active x.slot = some (x.shards.map fun y => (shardStart x y, y.len)) ∧
         (∀ k, k ≠ x.slot → Tbl.find? t.ldr.active k = Tbl.find? s.ldr.active k) ∧ Tbl.get 0 t.sec.actgen x.slot = x.gen ∧
         slotGenOf t x.slot = x.gen ∧ slotStateOf t x.slot = slotStateOf s x.slot ∧ measure t 5 = digestOf (measure s 5 ++ digestOf x.man) ∧
         (∀ d e i, d < 4 → e < 1024 → i < 2 → xresAt d e i t = xresAt d e i s) ∧ t.mem = s.mem ∧ t.tags = s.tags ∧ t.tasks = s.tasks) ∧
   ∀ s : State,
     (¬ldRuns s 4 → exec .abort s = .next s) ∧
     (ldRuns s 4 → ∃ t, exec .abort s = .next t ∧ ldEnds s t 0 ∧ t.ldr = { s.ldr with session := none } ∧ t.reg (ldAt 0x30) = 0 ∧ t.reg (ldAt 0x38) = 0 ∧
       (∀ r, r ≠ ldAt 0 → r ≠ ldAt 0x30 → r ≠ ldAt 0x38 → t.reg r = s.reg r) ∧ { t with regs := s.regs, ldr := s.ldr } = s))

/-- R506 to R508, R510: a window of power P bounds the next between its ceiling and floor, withholds the kinds and classes of issue
in their order until the demand fits, and counts the energy. A window at the limit lowers the cap by 5 %; after 1,000 windows below
it the cap rises at RU. A trip withholds every issue, and is logged. R511: a telemetry record is taken at each multiple of the
interval, and only then: it goes to the ring where it has room, else it is counted as dropped; with tdest set it is sent on the
sideband as well. What the spec leaves open here is as the model chose, log entries 22, 49, 50 and 51. -/
def Obligations.PowerAndTelemetry : Prop :=
  ((∀ (m : PowerIn) (s : State), ∃ t n, exec (.powerWindow m) s = .next t ∧
     t.reg (powerAt 0x28) = BitVec.ofNat 64 m.p ∧ t.reg (powerAt 0x30) = BitVec.ofNat 64 (specCeiling s m.p + specFloor s m.p * 2 ^ 32) ∧
     (∀ r, r ≠ powerAt 0x28 → r ≠ powerAt 0x30 → t.reg r = s.reg r) ∧
     n ≤ 12 ∧ t.pow.held = holdOrder.take n ∧
     (let left := m.base + ((holdOrder.drop n).map (drawn m)).sum
      (n < 12 → left ≤ specCeiling s m.p) ∧ ∀ k, k < n → specCeiling s m.p < m.base + ((holdOrder.drop k).map (drawn m)).sum) ∧
     t.pow.energy = s.pow.energy + 1024 * m.p ∧ ((s.reg (powerAt 0x20)).getLsbD 1 = false → t.pow.ballast = 0) ∧
     ((s.reg (powerAt 0x20)).getLsbD 0 = false → t.pow.admitted = [] ∧ t.pow.filler = 0) ∧
     t.pow.throttle = s.pow.throttle ∧ t.pow.tripped = s.pow.tripped ∧ { t with pow := s.pow, regs := s.regs } = s) ∧
   (∀ (hot : Bool) (s : State), ∃ t, exec (.thermalThrottle hot) s = .next t ∧ { t with pow := s.pow } = s ∧
     { t.pow with throttle := s.pow.throttle, cool := s.pow.cool } = s.pow ∧
     (hot = true → t.pow.cool = 0 ∧ t.pow.throttle = some ((match s.pow.throttle with | none => specCap s | some c => c) * 95 / 100)) ∧
     (hot = false → t.pow.cool = s.pow.cool + 1 ∧ (s.pow.throttle = none → t.pow.throttle = none) ∧
       ∀ c, s.pow.throttle = some c →
         (s.pow.cool + 1 < 1000 → t.pow.throttle = some (c * 95 / 100)) ∧
         (1000 ≤ s.pow.cool + 1 →
           let up := (1000 * c + 1024 * specRamp (s.reg (powerAt 0x10))) / 1000
           (up < specSetCap s → t.pow.throttle = some up) ∧ (specSetCap s ≤ up → t.pow.throttle = none)))) ∧
   ∀ s : State, ∃ t, exec .thermalTrip s = .next t ∧ t.pow = { s.pow with tripped := true } ∧ t.sec = { s.sec with tripLog := s.sec.tripLog + 1 } ∧
     { t with pow := s.pow, sec := s.sec } = s) ∧
  (∀ (temps : Word) (s : State),
     let tiv := if (s.reg (powerAt 0x40)).toNat = 0 then 0 else Nat.max 100000 (s.reg (powerAt 0x40)).toNat
     let size := s.reg (powerAt 0x50)
     let head := s.reg (powerAt 0x58)
     let full := head - s.reg (powerAt 0x60) = size
     (tiv = 0 ∨ s.dcc.toNat % tiv ≠ 0 → exec (.telemetryRecord temps) s = .next s) ∧
     (tiv ≠ 0 → s.dcc.toNat % tiv = 0 → ∃ t ws, exec (.telemetryRecord temps) s = .next t ∧ ws.length = 8 ∧ ws[2]? = some s.dcc ∧
       ws[3]? = some (BitVec.ofNat 64 ((s.reg (powerAt 0x28)).toNat % 2 ^ 32 + specCap s % 2 ^ 32 * 2 ^ 32)) ∧
       ws[4]? = some (BitVec.ofNat 64 (s.pow.ballast % 2 ^ 32 + s.pow.filler % 2 ^ 32 * 2 ^ 32)) ∧ ws[6]? = some (BitVec.ofNat 64 s.pow.withheld) ∧
       t.pow = { s.pow with withheld := 0, sideband := if s.reg (powerAt 0x70) = 0 then s.pow.sideband else ws :: s.pow.sideband } ∧
       (size = 0 → { t with pow := s.pow } = s) ∧
       (size ≠ 0 → full → t.reg (powerAt 0x68) = s.reg (powerAt 0x68) + 1 ∧ t.mem = s.mem ∧ t.reg (powerAt 0x58) = head) ∧
       (size ≠ 0 → ¬full → t.reg (powerAt 0x58) = head + 1 ∧
         wordsAt s t ((s.reg (powerAt 0x48)).toNat / 64 * 64 + 64 * (head.toNat % size.toNat)) ws ∧ t.reg (powerAt 0x68) = s.reg (powerAt 0x68)) ∧
       t.tasks = s.tasks ∧ t.shares = s.shares ∧ t.tags = s.tags))

/-- R152, R512, R513: DBG halts a task with halts enabled, and has no effect on any other; a task halts before the bundle that its
watch entry names. Each halt is recorded. PC samples and frames of the Press are taken when they are due, and only then. R518, R519:
at each multiple of 2^20 ticks, and only then, a die stores its grid, or counts it as dropped; its counts start anew. What the spec
leaves open here is as the model chose, log entries 53, 54, 55 and 56. -/
def Obligations.HaltsTraceAndGrids : Prop :=
  ((∀ (f : FmtI) (s : State), s.guardTrue f.g = true →
     let g := s.curGtid
     let on (c _b : Word) : Prop := c.getLsbD 1 = true
     (∀ i, watchIs s g on i → ∃ t, exec (.dbg f) s = .next t ∧ (t.task g).causes.contains .halt = true ∧ keepsCauses (s.task g) (t.task g) ∧
       t.dbg.ring = haltRecord s g 15 f.imm.toNat s.curAddr :: s.dbg.ring ∧ onlyHalts s t g ∧ t.regs = s.regs ∧ t.free = s.free) ∧
     ((∀ i, ¬watchIs s g on i) → exec (.dbg f) s = .next s)) ∧
   (∀ (g : Gtid) (s : State),
     let on (a c b : Word) : Prop := c.getLsbD 0 = true ∧ b.toNat / 16 = a.toNat / 16
     (∀ i x, (s.task g).st = .running → (s.task g).brkPast = false → (s.task g).fetched = some x → watchIs s g (on x.addr) i →
       ∃ t, exec (.breakpointHalt g) s = .next t ∧ (t.task g).causes.contains .halt = true ∧ (t.task g).brkPast = true ∧
         t.dbg.ring = haltRecord s g i 0 x.addr :: s.dbg.ring ∧ onlyHalts s t g) ∧
     ((s.task g).st ≠ .running ∨ (s.task g).brkPast = true ∨ (s.task g).fetched = none ∨
       (∀ x, (s.task g).fetched = some x → ∀ i, ¬watchIs s g (on x.addr) i) → exec (.breakpointHalt g) s = .next s)) ∧
   (∀ (g : Gtid) (s : State),
     let n := s.reg (debugAt 0x820)
     let due := n ≠ 0 ∧ s.dcc.toNat % n.toNat = 0 ∧ (s.task g).bound = true ∧ ∃ i, watchIs s g (fun _ _ => True) i
     (due → ∃ t, exec (.pcSample g) s = .next t ∧ pressed s t (s.task g).die) ∧ (¬due → exec (.pcSample g) s = .next s)) ∧
   ∀ (d : Nat) (s : State), d < 4 →
     let p := pressAt s d
     let at' (i : Nat) : Nat := debugAt (0x1000 + 64 * d + 8 * i)
     let due := p.count ≠ 0 ∧ (p.queue ≠ [] ∨ 1048576 ≤ (s.dcc - p.first).toNat)
     let full := s.reg (at' 2) - s.reg (at' 3) = s.reg (at' 1) ∨ s.reg (at' 1) = 0
     (¬due → exec (.pressFrameClose d) s = .next s) ∧
     (due → full → ∃ t, exec (.pressFrameClose d) s = .next t ∧ (pressAt t d).lostFrames = p.lostFrames + 1 ∧ (pressAt t d).seq = p.seq + 1 ∧
       t.mem = s.mem ∧ t.regs = s.regs) ∧
     (due → ¬full → p.body.length ≤ 4064 → ∃ t, exec (.pressFrameClose d) s = .next t ∧
       (let a := (s.reg (at' 0)).toNat + 4096 * ((s.reg (at' 2)).toNat % (s.reg (at' 1)).toNat)
        wordStands t a (BitVec.ofNat 64 (d + p.seq % 2 ^ 32 * 2 ^ 32)) ∧ wordStands t (a + 8) p.first ∧
          wordStands t (a + 24) (BitVec.ofNat 64 p.lostRecs) ∧
          (∀ i, i < 4064 → t.memByte (a + 32 + i) = p.body.getD i 0) ∧ ∀ b, b < a ∨ a + 4096 ≤ b → t.memByte b = s.memByte b) ∧
       t.reg (at' 2) = s.reg (at' 2) + 1 ∧ (pressAt t d).lostFrames = 0 ∧ (pressAt t d).seq = p.seq + 1 ∧ t.tags = s.tags ∧ t.tasks = s.tasks)) ∧
  (∀ (i : Nat) (s : State),
     let rg (w : Nat) : Nat := debugAt (0x2000 + 64 * i + 8 * w)
     let full := s.reg (rg 2) - s.reg (rg 3) = s.reg (rg 1) ∨ s.reg (rg 1) = 0
     let bytes := if i < 4 then 6224 else 1088
     (6 ≤ i ∨ s.dcc.toNat % 2 ^ 20 ≠ 0 → exec (.gridStore i) s = .next s) ∧
     (i < 6 → s.dcc.toNat % 2 ^ 20 = 0 → full → ∃ t, exec (.gridStore i) s = .next t ∧ t.mem = s.mem ∧
       Tbl.get 0 t.dbg.gridDrops i = Tbl.get 0 s.dbg.gridDrops i + 1 ∧ t.regs = s.regs) ∧
     (i < 6 → s.dcc.toNat % 2 ^ 20 = 0 → ¬full → ∃ t, exec (.gridStore i) s = .next t ∧
       (let a := (s.reg (rg 0)).toNat / 8 * 8 + bytes * ((s.reg (rg 2)).toNat % (s.reg (rg 1)).toNat)
        t.memWord a = BitVec.ofNat 64 i ∧ t.memWord (a + 8) = s.dcc ∧ (∀ b, b < a ∨ a + bytes ≤ b → t.memByte b = s.memByte b) ∧
          (4 ≤ i → ∀ p v, p < 16 → v < 8 → t.memWord (a + 32 + 8 * (8 * p + v)) =
            BitVec.ofNat 64 (Tbl.get 0 s.dbg.flits (8 * (16 * (i - 4) + p) + v) % 2 ^ 32 +
              Tbl.get 0 s.dbg.stalls (8 * (16 * (i - 4) + p) + v) % 2 ^ 32 * 2 ^ 32))) ∧
       (4 ≤ i → ∀ p v, p < 16 → v < 8 → Tbl.get 0 t.dbg.flits (8 * (16 * (i - 4) + p) + v) = 0) ∧
       t.reg (rg 2) = s.reg (rg 2) + 1 ∧ t.tags = s.tags ∧ t.tasks = s.tasks ∧ t.shares = s.shares))

/-- R514: a debug command acts only while dbgcmd has DONE = 0: HALT holds the task, RESUME and STEP let it go on, READ and WRITE
move a word between dbgdata and the file, core and index of dbgsel; a task that is not there answers 2, one not halted 3. What the
spec leaves open here is as the model chose, log entries 52 and 53. -/
def Obligations.DebugCommands : Prop :=
  ∀ s : State,
    let g := s.reg (debugAt 0x808)
    let data := s.reg (debugAt 0x818)
    (∀ e ∈ [((.halt : Instr), 1), (.resume, 2), (.step, 3), (.read, 4), (.write, 5)], ¬debugRuns s e.2 → exec e.1 s = .next s) ∧
    (∀ e ∈ [((.resume : Instr), 2), (.step, 3), (.read, 4), (.write, 5)], debugRuns s e.2 → ¬haltedNow s g → ∃ t, exec e.1 s = .next t ∧
      onlyDebugEnds s t 3) ∧
    (debugRuns s 1 → (s.task g).st = .absent ∨ (s.task g).st = .retired → ∃ t, exec .halt s = .next t ∧ onlyDebugEnds s t 2) ∧
    (debugRuns s 1 → (s.task g).st ≠ .absent → (s.task g).st ≠ .retired → ∃ t, exec .halt s = .next t ∧ debugEnds s t 0 ∧
      (t.task g).causes.contains .halt = true ∧ keepsCauses (s.task g) (t.task g) ∧ onlyHalts s t g) ∧
    (debugRuns s 2 → haltedNow s g → ∃ t, exec .resume s = .next t ∧ debugEnds s t 0 ∧
      (∀ c, (t.task g).causes.contains c = ((s.task g).causes.contains c && decide (c ≠ .halt))) ∧ onlyHalts s t g ∧ t.dbg = s.dbg) ∧
    (debugRuns s 3 → haltedNow s g → ∃ t, exec .step s = .next t ∧ debugEnds s t 0 ∧ (t.task g).stepping = true ∧
      (∀ c, (t.task g).causes.contains c = ((s.task g).causes.contains c && decide (c ≠ .halt))) ∧ onlyHalts s t g ∧ t.dbg = s.dbg) ∧
    (∀ f c i, chosen s f c i → haltedNow s g →
      (debugRuns s 4 → (s.task g).selOk f c i = false → ∃ t, exec .read s = .next t ∧ onlyDebugEnds s t 4) ∧
      (debugRuns s 5 → (s.task g).selOk f c i = false → ∃ t, exec .write s = .next t ∧ onlyDebugEnds s t 4) ∧
      ((f = 0 ∧ (s.task g).isRow = true ∧ i < 64) ∨ (f = 2 ∧ (s.task g).isRow = false ∧ i < 32) →
        (debugRuns s 4 → ∃ t, exec .read s = .next t ∧ debugEnds s t 0 ∧ t.reg (debugAt 0x818) = Tbl.get 0 (s.task g).r i ∧
          (∀ r, r ≠ debugAt 0x818 → r ≠ debugAt 0x800 → t.reg r = s.reg r) ∧ { t with regs := s.regs } = s) ∧
        (debugRuns s 5 → ∃ t, exec .write s = .next t ∧ debugEnds s t 0 ∧ Tbl.get 0 (t.task g).r i = data ∧
          (∀ k, k ≠ i → Tbl.get 0 (t.task g).r k = Tbl.get 0 (s.task g).r k) ∧ onlyTaskAt s t g (fun a b => { b with r := a.r }) ∧
          { t with tasks := s.tasks, regs := s.regs } = s)) ∧
      (f = 1 → (s.task g).isRow = true → c < 8 → i < 32 →
        (debugRuns s 4 → ∃ t, exec .read s = .next t ∧ debugEnds s t 0 ∧ t.reg (debugAt 0x818) = Tbl.get 0 (s.share g c).a i ∧
          { t with regs := s.regs } = s) ∧
        (debugRuns s 5 → ∃ t, exec .write s = .next t ∧ debugEnds s t 0 ∧ Tbl.get 0 (t.share g c).a i = data ∧
          (∀ k, k ≠ i → Tbl.get 0 (t.share g c).a k = Tbl.get 0 (s.share g c).a k) ∧ { t.share g c with a := (s.share g c).a } = s.share g c ∧
          (∀ g' c', shareKey g' c' ≠ shareKey g c → t.share g' c' = s.share g' c') ∧ { t with shares := s.shares, regs := s.regs } = s)))

/-- R536 to R538: the host's next write or read on a queue pair performs where a region admits it and is answered; else it is
refused with a remote access error, and nothing performs. A message that is not the next has no effect. A request of LCP is
answered, or starts its command. The clock takes the rate and offset that PTP finds on the chosen port. What the spec leaves open
here is as the model chose, log entries 58, 59 and 60. -/
def Obligations.HostMessagesPerform : Prop :=
  (∀ (qp : Nat) (k : BitVec 32) (psn pa n : Nat) (b : List Byte) (s : State),
    (¬nextOnQp s qp psn → exec (.rdmaWrite qp k psn pa b) s = .next s ∧ exec (.rdmaRead qp k psn pa n) s = .next s) ∧
    (nextOnQp s qp psn → ¬admitted s k pa b.length true → ∃ t, exec (.rdmaWrite qp k psn pa b) s = .next t ∧ told s t (.nak qp psn 1) ∧
      { t with answered := s.answered } = s) ∧
    (nextOnQp s qp psn → ¬admitted s k pa n false → ∃ t, exec (.rdmaRead qp k psn pa n) s = .next t ∧ told s t (.nak qp psn 1) ∧
      { t with answered := s.answered } = s) ∧
    (nextOnQp s qp psn → admitted s k pa b.length true → b ≠ [] → windowOf pa = .hbm → windowOf (pa + b.length - 1) = .hbm → noErrors s →
      ∃ t, exec (.rdmaWrite qp k psn pa b) s = .next t ∧ told s t (.ack qp psn) ∧ psnMoves s t qp b.length ∧
        (∀ i, i < b.length → t.memByte (pa + i) = b.getD i 0) ∧ (∀ a, a < pa ∨ pa + b.length ≤ a → t.memByte a = s.memByte a) ∧ t.tags = s.tags ∧
        t.tasks = s.tasks ∧ t.shares = s.shares) ∧
    (nextOnQp s qp psn → admitted s k pa n false → n ≠ 0 → windowOf pa = .hbm → windowOf (pa + n - 1) = .hbm → noErrors s →
      ∃ t l, exec (.rdmaRead qp k psn pa n) s = .next t ∧ told s t (.data qp psn l) ∧ psnMoves s t qp n ∧ l.length = n ∧
        (∀ i, i < n → l.getD i 0 = s.memByte (pa + i)) ∧ t.mem = s.mem ∧ t.tags = s.tags ∧ t.tasks = s.tasks ∧ t.shares = s.shares)) ∧
  (∀ (qp psn : Nat) (tag : BitVec 32) (op : Nat) (arg : Word) (b : List Byte) (s : State),
    let w : Caller := .lcp qp tag
    let i := Instr.lcpRequest qp psn tag op arg b
    (¬nextOnQp s qp psn → exec i s = .next s) ∧
    (nextOnQp s qp psn → (qpWord s qp 4).getLsbD 27 = true → ∃ t, exec i s = .next t ∧ psnMoves s t qp (16 + b.length) ∧
      (op = 0 ∨ (13 ≤ op ∧ op ≤ 31) ∨ 34 ≤ op → t.answered = .reply w 0xFF [] :: .ack qp psn :: s.answered ∧ t.agenda = s.agenda) ∧
      ((1 ≤ op ∧ op ≤ 6) ∨ op = 9 → t.answered = .reply w 0xFE [] :: .ack qp psn :: s.answered ∧ t.agenda = s.agenda) ∧
      (∀ c, (op = 8 ∧ c = .badadd w arg) ∨ (op = 10 ∧ c = .attest w b) ∨ (op = 11 ∧ c = .regread w arg.toNat) ∨ (op = 32 ∧ c = .kill w arg) →
        told s t (.ack qp psn) ∧ t.agenda = s.agenda ++ [c] ∧ { t with answered := s.answered, agenda := s.agenda, regs := s.regs } = s))) ∧
  ∀ (port : Nat) (off : Word) (ppm : Int) (s : State),
    let r := ioReg 1 3 0x5008
    (port < 3 → bitsOf (s.reg (ioReg 1 3 0x5000)) 0 2 = port → ∃ t, exec (.ptpMessage port off ppm) s = .next t ∧ t.reg r = off ∧
      (∀ q, q ≠ r → t.reg q = s.reg q) ∧ t.fab.slew = max (-200) (min 200 ppm) ∧ t.dcc = s.dcc ∧
      { t with fab := { t.fab with slew := s.fab.slew }, regs := s.regs } = s) ∧
    (3 ≤ port ∨ bitsOf (s.reg (ioReg 1 3 0x5000)) 0 2 ≠ port → exec (.ptpMessage port off ppm) s = .next s)

/-- R60 to R73, R76, R84 to R86: what the encoder writes of a well-formed syllable, the decoder reads back, whole: every field at
every value that the encoding admits, on every unit that implements the instruction, in every position that its major belongs to. -/
def Obligations.DecodeReadsBackTheEncoding : Prop :=
  ∀ (i : Instr) (u : UnitKind) (p : Pos) (w lit : Word), i.wellFormed u = true → i.implementedBy u = true → i.partialOverlap = false →
    encode i = some (w, lit) → (i = .nop ∨ inRange (w.toNat / 2 ^ 57) p = true) → decode p u w lit = .ok i

/-- R60, R64 to R70: words of the spec's own examples decode to the syllables they stand for. -/
def Obligations.ExampleWordsDecode : Prop :=
  ∀ e ∈ specScalarWords ++ specVectorWords, decodeTableWord 64 e.1 = some e.2

/-- R76, R77, R85, R86: with a syllable at the head of the bundle a unit executes, the step decodes it in its position and is its
execution, then the end of the bundle; with no syllable left the step is the next event; with neither, a cycle passes. A word placed
where the step fetches is that syllable. What the spec leaves open here is as the model chose, log entries 1 and 105. -/
def Obligations.StepRunsTheDecodedInstruction : Prop :=
  (∀ (s t : State) (it : Item) (rest : List Item) (i : Instr), s.pending = it :: rest →
    let s1 := { s with pending := rest, cur := it.unit, curAddr := it.addr, curE := it.isE, curV := it.isV }
    (it.instr = some i ∨ (it.instr = none ∧ decode (decodedAs s it).1 (decodedAs s it).2 it.word it.lit = .ok i)) →
    (it.isV = true ∨ s.raised = [] ∨ ∀ g, it.unit ≠ .bc g) → s1.outsideBank i = false → exec i s1 = .next t →
    step s = .next (t.endBundle it (some i))) ∧
  (∀ (s : State) (i : Instr) (rest : List Instr), s.pending = [] → s.agenda = i :: rest → step s = exec i { s with agenda := rest }) ∧
  (∀ s : State, s.pending = [] → s.agenda = [] → step s = .next s.tick) ∧
  ∀ (s : State) (n w : Nat) (i : Instr), decodeTableWord n w = some i →
    ∃ it, (s.withFetchWord n w).pending = [it] ∧ it.instr = none ∧ it.word = BitVec.ofNat 64 w ∧ it.lit = BitVec.ofNat 64 (w / 2 ^ 64) ∧
      decode (decodedAs (s.withFetchWord n w) it).1 (decodedAs (s.withFetchWord n w) it).2 it.word it.lit = .ok i

/-- R83, R84 and the shape of the spec: no syllable, no event and no cycle ends a run: every step answers a next state. What the
spec leaves open here is as the model chose, log entry 1. -/
def Obligations.EveryStepAnswersANextState : Prop :=
  (∀ (i : Instr) (s : State), ∃ t, exec i s = .next t) ∧ ∀ s : State, ∃ t, step s = .next t

/-- R12, R25, R379, R505: right after reset no task is bound, every byte of memory is zero and every full/empty tag empty, every
register of a control block has its reset value, the DCC is zero, and memory is in its canonical form. (That the DCC, the agenda and
the clock start at zero is the model's choice, log entries 1 and 4.) -/
def Obligations.ResetState : Prop :=
  (∀ g, (State.reset.task g).st = .absent) ∧ (∀ a, State.reset.memByte a = 0 ∧ State.reset.tag a = false) ∧
    (∀ pa, State.reset.reg pa = regReset pa) ∧ State.reset.pending = [] ∧ State.reset.agenda = [] ∧ State.reset.dcc = 0 ∧
    (∀ d, (Tbl.get {} State.reset.coll d).active = none) ∧ canonicalMem State.reset ∧
    State.reset.reg (dieReg 0 3 0) = 0xFFFFFFFFFF ∧ State.reset.reg (ioReg 0 3 0x5008) = 100000 ∧ State.reset.reg (ioReg 0 3 0x800) = 2 ^ 63

/-- The form that every step keeps: memory and the full/empty tags list rising addresses, and no entry equal to what an unlisted
address reads as; equal memories are equal lists. -/
def Obligations.StepsKeepMemoryCanonical : Prop :=
  ∀ s t : State, canonicalMem s → step s = .next t → canonicalMem t
end

