-- ==== Sys2Proof/Laws/Encoding.lean ====
section
/-! SUPPORT. The fields of an encoded syllable: what `Enc.word` puts together, `parse` takes apart again, format by format
(R60, R64 to R73). -/

namespace Sys2Proof

/-- Bits of a concatenation that lie in its lower part. -/
theorem extract_append_low {n m : Nat} (a : BitVec n) (b : BitVec m) (lo k : Nat) (h : lo + k ≤ m) :
    (a ++ b).extractLsb' lo k = b.extractLsb' lo k := by
  apply BitVec.eq_of_getLsbD_eq
  intro i hi
  simp [BitVec.getLsbD_append, hi, show lo + i < m by omega]

/-- Bits of a concatenation that lie in its upper part. -/
theorem extract_append_high {n m : Nat} (a : BitVec n) (b : BitVec m) (lo k : Nat) (h : m ≤ lo) :
    (a ++ b).extractLsb' lo k = a.extractLsb' (lo - m) k := by
  apply BitVec.eq_of_getLsbD_eq
  intro i hi
  simp [BitVec.getLsbD_append, hi, show ¬ lo + i < m by omega, show lo + i - m = lo - m + i by omega]

theorem extract_all {n : Nat} (a : BitVec n) : a.extractLsb' 0 n = a := by
  apply BitVec.eq_of_getLsbD_eq
  intro i hi
  simp [hi]

/-- A bit of a word is its run of one. -/
theorem getLsbD_of_bits {w : Word} {i : Nat} {b : Bool} (h : bits w i 1 = bit1 b) : w.getLsbD i = b := by
  have : w.getLsbD i = (bits w i 1).getLsbD 0 := by simp [bits]
  rw [this, h]
  cases b <;> rfl

/-- The bits of a word that are not all zero, or not all one, say so of the word. -/
theorem word_ne_zero {w : Word} {lo n : Nat} {v : BitVec n} (h : bits w lo n = v) (hv : v ≠ 0) : w ≠ 0 := by
  rintro rfl
  exact hv (by rw [← h]; apply BitVec.eq_of_getLsbD_eq; intro i hi; simp [bits])

theorem word_ne_ones {w : Word} {v : BitVec 7} (h : bits w 57 7 = v) (hv : v ≠ BitVec.allOnes 7) : w ≠ BitVec.allOnes 64 := by
  rintro rfl
  exact hv (by rw [← h]; decide)

/-! Format A -/

theorem bits_a_maj (maj : BitVec 7) (min : BitVec 8) (rsv : BitVec 9) (f : FmtA) : bits (Enc.a maj min rsv f).word 57 7 = maj := by
  have e : bits (Enc.a maj min rsv f).word 57 7 = (maj ++ f.g.gp ++ bit1 f.g.gs ++ f.d ++ f.sa ++ f.sb ++ min ++ f.mod ++ rsv).extractLsb' 57 7 := rfl
  rw [e]
  simp (disch := decide) only [extract_append_high, Nat.reduceSub]
  exact extract_all _

theorem bits_a_gp (maj : BitVec 7) (min : BitVec 8) (rsv : BitVec 9) (f : FmtA) : bits (Enc.a maj min rsv f).word 52 5 = f.g.gp := by
  have e : bits (Enc.a maj min rsv f).word 52 5 = (maj ++ f.g.gp ++ bit1 f.g.gs ++ f.d ++ f.sa ++ f.sb ++ min ++ f.mod ++ rsv).extractLsb' 52 5 := rfl
  rw [e]
  simp (disch := decide) only [extract_append_high, extract_append_low, Nat.reduceSub]
  exact extract_all _

theorem bits_a_gs (maj : BitVec 7) (min : BitVec 8) (rsv : BitVec 9) (f : FmtA) : bits (Enc.a maj min rsv f).word 51 1 = bit1 f.g.gs := by
  have e : bits (Enc.a maj min rsv f).word 51 1 = (maj ++ f.g.gp ++ bit1 f.g.gs ++ f.d ++ f.sa ++ f.sb ++ min ++ f.mod ++ rsv).extractLsb' 51 1 := rfl
  rw [e]
  simp (disch := decide) only [extract_append_high, extract_append_low, Nat.reduceSub]
  exact extract_all _

theorem bits_a_d (maj : BitVec 7) (min : BitVec 8) (rsv : BitVec 9) (f : FmtA) : bits (Enc.a maj min rsv f).word 45 6 = f.d := by
  have e : bits (Enc.a maj min rsv f).word 45 6 = (maj ++ f.g.gp ++ bit1 f.g.gs ++ f.d ++ f.sa ++ f.sb ++ min ++ f.mod ++ rsv).extractLsb' 45 6 := rfl
  rw [e]
  simp (disch := decide) only [extract_append_high, extract_append_low, Nat.reduceSub]
  exact extract_all _

theorem bits_a_sa (maj : BitVec 7) (min : BitVec 8) (rsv : BitVec 9) (f : FmtA) : bits (Enc.a maj min rsv f).word 39 6 = f.sa := by
  have e : bits (Enc.a maj min rsv f).word 39 6 = (maj ++ f.g.gp ++ bit1 f.g.gs ++ f.d ++ f.sa ++ f.sb ++ min ++ f.mod ++ rsv).extractLsb' 39 6 := rfl
  rw [e]
  simp (disch := decide) only [extract_append_high, extract_append_low, Nat.reduceSub]
  exact extract_all _

theorem bits_a_sb (maj : BitVec 7) (min : BitVec 8) (rsv : BitVec 9) (f : FmtA) : bits (Enc.a maj min rsv f).word 33 6 = f.sb := by
  have e : bits (Enc.a maj min rsv f).word 33 6 = (maj ++ f.g.gp ++ bit1 f.g.gs ++ f.d ++ f.sa ++ f.sb ++ min ++ f.mod ++ rsv).extractLsb' 33 6 := rfl
  rw [e]
  simp (disch := decide) only [extract_append_high, extract_append_low, Nat.reduceSub]
  exact extract_all _

theorem bits_a_min (maj : BitVec 7) (min : BitVec 8) (rsv : BitVec 9) (f : FmtA) : bits (Enc.a maj min rsv f).word 25 8 = min := by
  have e : bits (Enc.a maj min rsv f).word 25 8 = (maj ++ f.g.gp ++ bit1 f.g.gs ++ f.d ++ f.sa ++ f.sb ++ min ++ f.mod ++ rsv).extractLsb' 25 8 := rfl
  rw [e]
  simp (disch := decide) only [extract_append_high, extract_append_low, Nat.reduceSub]
  exact extract_all _

theorem bits_a_mod (maj : BitVec 7) (min : BitVec 8) (rsv : BitVec 9) (f : FmtA) : bits (Enc.a maj min rsv f).word 9 16 = f.mod := by
  have e : bits (Enc.a maj min rsv f).word 9 16 = (maj ++ f.g.gp ++ bit1 f.g.gs ++ f.d ++ f.sa ++ f.sb ++ min ++ f.mod ++ rsv).extractLsb' 9 16 := rfl
  rw [e]
  simp (disch := decide) only [extract_append_high, extract_append_low, Nat.reduceSub]
  exact extract_all _

theorem bits_a_rsv (maj : BitVec 7) (min : BitVec 8) (rsv : BitVec 9) (f : FmtA) : bits (Enc.a maj min rsv f).word 0 9 = rsv := by
  have e : bits (Enc.a maj min rsv f).word 0 9 = (maj ++ f.g.gp ++ bit1 f.g.gs ++ f.d ++ f.sa ++ f.sb ++ min ++ f.mod ++ rsv).extractLsb' 0 9 := rfl
  rw [e]
  simp (disch := decide) only [extract_append_low]
  exact extract_all _

theorem guardOf_a (maj : BitVec 7) (min : BitVec 8) (rsv : BitVec 9) (f : FmtA) : guardOf (Enc.a maj min rsv f).word = f.g := by
  rw [guardOf, bits_a_gp, getLsbD_of_bits (bits_a_gs maj min rsv f)]

/-- A syllable of format A is cut as it was put together. -/
theorem parse_a (maj : BitVec 7) (min : BitVec 8) (rsv : BitVec 9) (f : FmtA) (lit : Word) (h : formatOf maj.toNat = some .a) :
    parse (Enc.a maj min rsv f).word lit = some (.a maj min rsv f) := by
  simp only [parse, bits_a_maj, h, guardOf_a, bits_a_d, bits_a_sa, bits_a_sb, bits_a_min, bits_a_mod, bits_a_rsv]

/-! Format I -/

theorem bits_i_maj (maj : BitVec 7) (min : BitVec 4) (rsv : BitVec 3) (f : FmtI) : bits (Enc.i maj min rsv f).word 57 7 = maj := by
  have e : bits (Enc.i maj min rsv f).word 57 7 = (maj ++ f.g.gp ++ bit1 f.g.gs ++ f.d ++ f.sa ++ min ++ rsv ++ f.imm).extractLsb' 57 7 := rfl
  rw [e]
  simp (disch := decide) only [extract_append_high, Nat.reduceSub]
  exact extract_all _

theorem bits_i_gp (maj : BitVec 7) (min : BitVec 4) (rsv : BitVec 3) (f : FmtI) : bits (Enc.i maj min rsv f).word 52 5 = f.g.gp := by
  have e : bits (Enc.i maj min rsv f).word 52 5 = (maj ++ f.g.gp ++ bit1 f.g.gs ++ f.d ++ f.sa ++ min ++ rsv ++ f.imm).extractLsb' 52 5 := rfl
  rw [e]
  simp (disch := decide) only [extract_append_high, extract_append_low, Nat.reduceSub]
  exact extract_all _

theorem bits_i_gs (maj : BitVec 7) (min : BitVec 4) (rsv : BitVec 3) (f : FmtI) : bits (Enc.i maj min rsv f).word 51 1 = bit1 f.g.gs := by
  have e : bits (Enc.i maj min rsv f).word 51 1 = (maj ++ f.g.gp ++ bit1 f.g.gs ++ f.d ++ f.sa ++ min ++ rsv ++ f.imm).extractLsb' 51 1 := rfl
  rw [e]
  simp (disch := decide) only [extract_append_high, extract_append_low, Nat.reduceSub]
  exact extract_all _

theorem bits_i_d (maj : BitVec 7) (min : BitVec 4) (rsv : BitVec 3) (f : FmtI) : bits (Enc.i maj min rsv f).word 45 6 = f.d := by
  have e : bits (Enc.i maj min rsv f).word 45 6 = (maj ++ f.g.gp ++ bit1 f.g.gs ++ f.d ++ f.sa ++ min ++ rsv ++ f.imm).extractLsb' 45 6 := rfl
  rw [e]
  simp (disch := decide) only [extract_append_high, extract_append_low, Nat.reduceSub]
  exact extract_all _

theorem bits_i_sa (maj : BitVec 7) (min : BitVec 4) (rsv : BitVec 3) (f : FmtI) : bits (Enc.i maj min rsv f).word 39 6 = f.sa := by
  have e : bits (Enc.i maj min rsv f).word 39 6 = (maj ++ f.g.gp ++ bit1 f.g.gs ++ f.d ++ f.sa ++ min ++ rsv ++ f.imm).extractLsb' 39 6 := rfl
  rw [e]
  simp (disch := decide) only [extract_append_high, extract_append_low, Nat.reduceSub]
  exact extract_all _

theorem bits_i_min (maj : BitVec 7) (min : BitVec 4) (rsv : BitVec 3) (f : FmtI) : bits (Enc.i maj min rsv f).word 35 4 = min := by
  have e : bits (Enc.i maj min rsv f).word 35 4 = (maj ++ f.g.gp ++ bit1 f.g.gs ++ f.d ++ f.sa ++ min ++ rsv ++ f.imm).extractLsb' 35 4 := rfl
  rw [e]
  simp (disch := decide) only [extract_append_high, extract_append_low, Nat.reduceSub]
  exact extract_all _

theorem bits_i_rsv (maj : BitVec 7) (min : BitVec 4) (rsv : BitVec 3) (f : FmtI) : bits (Enc.i maj min rsv f).word 32 3 = rsv := by
  have e : bits (Enc.i maj min rsv f).word 32 3 = (maj ++ f.g.gp ++ bit1 f.g.gs ++ f.d ++ f.sa ++ min ++ rsv ++ f.imm).extractLsb' 32 3 := rfl
  rw [e]
  simp (disch := decide) only [extract_append_high, extract_append_low, Nat.reduceSub]
  exact extract_all _

theorem bits_i_imm (maj : BitVec 7) (min : BitVec 4) (rsv : BitVec 3) (f : FmtI) : bits (Enc.i maj min rsv f).word 0 32 = f.imm := by
  have e : bits (Enc.i maj min rsv f).word 0 32 = (maj ++ f.g.gp ++ bit1 f.g.gs ++ f.d ++ f.sa ++ min ++ rsv ++ f.imm).extractLsb' 0 32 := rfl
  rw [e]
  simp (disch := decide) only [extract_append_low]
  exact extract_all _

theorem guardOf_i (maj : BitVec 7) (min : BitVec 4) (rsv : BitVec 3) (f : FmtI) : guardOf (Enc.i maj min rsv f).word = f.g := by
  rw [guardOf, bits_i_gp, getLsbD_of_bits (bits_i_gs maj min rsv f)]

/-- A syllable of format I is cut as it was put together. -/
theorem parse_i (maj : BitVec 7) (min : BitVec 4) (rsv : BitVec 3) (f : FmtI) (lit : Word) (h : formatOf maj.toNat = some .i) :
    parse (Enc.i maj min rsv f).word lit = some (.i maj min rsv f) := by
  simp only [parse, bits_i_maj, h, guardOf_i, bits_i_d, bits_i_sa, bits_i_min, bits_i_rsv, bits_i_imm]

/-! Format B -/

theorem bits_b_maj (maj : BitVec 7) (min : BitVec 4) (f : FmtB) : bits (Enc.b maj min f).word 57 7 = maj := by
  have e : bits (Enc.b maj min f).word 57 7 = (maj ++ f.g.gp ++ bit1 f.g.gs ++ min ++ f.sa ++ f.aux ++ f.off).extractLsb' 57 7 := rfl
  rw [e]
  simp (disch := decide) only [extract_append_high, Nat.reduceSub]
  exact extract_all _

theorem bits_b_gp (maj : BitVec 7) (min : BitVec 4) (f : FmtB) : bits (Enc.b maj min f).word 52 5 = f.g.gp := by
  have e : bits (Enc.b maj min f).word 52 5 = (maj ++ f.g.gp ++ bit1 f.g.gs ++ min ++ f.sa ++ f.aux ++ f.off).extractLsb' 52 5 := rfl
  rw [e]
  simp (disch := decide) only [extract_append_high, extract_append_low, Nat.reduceSub]
  exact extract_all _

theorem bits_b_gs (maj : BitVec 7) (min : BitVec 4) (f : FmtB) : bits (Enc.b maj min f).word 51 1 = bit1 f.g.gs := by
  have e : bits (Enc.b maj min f).word 51 1 = (maj ++ f.g.gp ++ bit1 f.g.gs ++ min ++ f.sa ++ f.aux ++ f.off).extractLsb' 51 1 := rfl
  rw [e]
  simp (disch := decide) only [extract_append_high, extract_append_low, Nat.reduceSub]
  exact extract_all _

theorem bits_b_min (maj : BitVec 7) (min : BitVec 4) (f : FmtB) : bits (Enc.b maj min f).word 47 4 = min := by
  have e : bits (Enc.b maj min f).word 47 4 = (maj ++ f.g.gp ++ bit1 f.g.gs ++ min ++ f.sa ++ f.aux ++ f.off).extractLsb' 47 4 := rfl
  rw [e]
  simp (disch := decide) only [extract_append_high, extract_append_low, Nat.reduceSub]
  exact extract_all _

theorem bits_b_sa (maj : BitVec 7) (min : BitVec 4) (f : FmtB) : bits (Enc.b maj min f).word 41 6 = f.sa := by
  have e : bits (Enc.b maj min f).word 41 6 = (maj ++ f.g.gp ++ bit1 f.g.gs ++ min ++ f.sa ++ f.aux ++ f.off).extractLsb' 41 6 := rfl
  rw [e]
  simp (disch := decide) only [extract_append_high, extract_append_low, Nat.reduceSub]
  exact extract_all _

theorem bits_b_aux (maj : BitVec 7) (min : BitVec 4) (f : FmtB) : bits (Enc.b maj min f).word 32 9 = f.aux := by
  have e : bits (Enc.b maj min f).word 32 9 = (maj ++ f.g.gp ++ bit1 f.g.gs ++ min ++ f.sa ++ f.aux ++ f.off).extractLsb' 32 9 := rfl
  rw [e]
  simp (disch := decide) only [extract_append_high, extract_append_low, Nat.reduceSub]
  exact extract_all _

theorem bits_b_off (maj : BitVec 7) (min : BitVec 4) (f : FmtB) : bits (Enc.b maj min f).word 0 32 = f.off := by
  have e : bits (Enc.b maj min f).word 0 32 = (maj ++ f.g.gp ++ bit1 f.g.gs ++ min ++ f.sa ++ f.aux ++ f.off).extractLsb' 0 32 := rfl
  rw [e]
  simp (disch := decide) only [extract_append_low]
  exact extract_all _

theorem guardOf_b (maj : BitVec 7) (min : BitVec 4) (f : FmtB) : guardOf (Enc.b maj min f).word = f.g := by
  rw [guardOf, bits_b_gp, getLsbD_of_bits (bits_b_gs maj min f)]

/-- A syllable of format B is cut as it was put together. -/
theorem parse_b (maj : BitVec 7) (min : BitVec 4) (f : FmtB) (lit : Word) (h : formatOf maj.toNat = some .b) :
    parse (Enc.b maj min f).word lit = some (.b maj min f) := by
  simp only [parse, bits_b_maj, h, guardOf_b, bits_b_min, bits_b_sa, bits_b_aux, bits_b_off]

/-! Format M -/

theorem bits_m_maj (maj : BitVec 7) (min : BitVec 5) (f : FmtM) : bits (Enc.m maj min f).word 57 7 = maj := by
  have e : bits (Enc.m maj min f).word 57 7 = (maj ++ f.g.gp ++ bit1 f.g.gs ++ f.d ++ f.base ++ f.index ++ f.scale ++ bit1 f.ix ++ min ++ f.flags ++ f.disp).extractLsb' 57 7 := rfl
  rw [e]
  simp (disch := decide) only [extract_append_high, Nat.reduceSub]
  exact extract_all _

theorem bits_m_gp (maj : BitVec 7) (min : BitVec 5) (f : FmtM) : bits (Enc.m maj min f).word 52 5 = f.g.gp := by
  have e : bits (Enc.m maj min f).word 52 5 = (maj ++ f.g.gp ++ bit1 f.g.gs ++ f.d ++ f.base ++ f.index ++ f.scale ++ bit1 f.ix ++ min ++ f.flags ++ f.disp).extractLsb' 52 5 := rfl
  rw [e]
  simp (disch := decide) only [extract_append_high, extract_append_low, Nat.reduceSub]
  exact extract_all _

theorem bits_m_gs (maj : BitVec 7) (min : BitVec 5) (f : FmtM) : bits (Enc.m maj min f).word 51 1 = bit1 f.g.gs := by
  have e : bits (Enc.m maj min f).word 51 1 = (maj ++ f.g.gp ++ bit1 f.g.gs ++ f.d ++ f.base ++ f.index ++ f.scale ++ bit1 f.ix ++ min ++ f.flags ++ f.disp).extractLsb' 51 1 := rfl
  rw [e]
  simp (disch := decide) only [extract_append_high, extract_append_low, Nat.reduceSub]
  exact extract_all _

theorem bits_m_d (maj : BitVec 7) (min : BitVec 5) (f : FmtM) : bits (Enc.m maj min f).word 45 6 = f.d := by
  have e : bits (Enc.m maj min f).word 45 6 = (maj ++ f.g.gp ++ bit1 f.g.gs ++ f.d ++ f.base ++ f.index ++ f.scale ++ bit1 f.ix ++ min ++ f.flags ++ f.disp).extractLsb' 45 6 := rfl
  rw [e]
  simp (disch := decide) only [extract_append_high, extract_append_low, Nat.reduceSub]
  exact extract_all _

theorem bits_m_base (maj : BitVec 7) (min : BitVec 5) (f : FmtM) : bits (Enc.m maj min f).word 39 6 = f.base := by
  have e : bits (Enc.m maj min f).word 39 6 = (maj ++ f.g.gp ++ bit1 f.g.gs ++ f.d ++ f.base ++ f.index ++ f.scale ++ bit1 f.ix ++ min ++ f.flags ++ f.disp).extractLsb' 39 6 := rfl
  rw [e]
  simp (disch := decide) only [extract_append_high, extract_append_low, Nat.reduceSub]
  exact extract_all _

theorem bits_m_index (maj : BitVec 7) (min : BitVec 5) (f : FmtM) : bits (Enc.m maj min f).word 33 6 = f.index := by
  have e : bits (Enc.m maj min f).word 33 6 = (maj ++ f.g.gp ++ bit1 f.g.gs ++ f.d ++ f.base ++ f.index ++ f.scale ++ bit1 f.ix ++ min ++ f.flags ++ f.disp).extractLsb' 33 6 := rfl
  rw [e]
  simp (disch := decide) only [extract_append_high, extract_append_low, Nat.reduceSub]
  exact extract_all _

theorem bits_m_scale (maj : BitVec 7) (min : BitVec 5) (f : FmtM) : bits (Enc.m maj min f).word 30 3 = f.scale := by
  have e : bits (Enc.m maj min f).word 30 3 = (maj ++ f.g.gp ++ bit1 f.g.gs ++ f.d ++ f.base ++ f.index ++ f.scale ++ bit1 f.ix ++ min ++ f.flags ++ f.disp).extractLsb' 30 3 := rfl
  rw [e]
  simp (disch := decide) only [extract_append_high, extract_append_low, Nat.reduceSub]
  exact extract_all _

theorem bits_m_ix (maj : BitVec 7) (min : BitVec 5) (f : FmtM) : bits (Enc.m maj min f).word 29 1 = bit1 f.ix := by
  have e : bits (Enc.m maj min f).word 29 1 = (maj ++ f.g.gp ++ bit1 f.g.gs ++ f.d ++ f.base ++ f.index ++ f.scale ++ bit1 f.ix ++ min ++ f.flags ++ f.disp).extractLsb' 29 1 := rfl
  rw [e]
  simp (disch := decide) only [extract_append_high, extract_append_low, Nat.reduceSub]
  exact extract_all _

theorem bits_m_min (maj : BitVec 7) (min : BitVec 5) (f : FmtM) : bits (Enc.m maj min f).word 24 5 = min := by
  have e : bits (Enc.m maj min f).word 24 5 = (maj ++ f.g.gp ++ bit1 f.g.gs ++ f.d ++ f.base ++ f.index ++ f.scale ++ bit1 f.ix ++ min ++ f.flags ++ f.disp).extractLsb' 24 5 := rfl
  rw [e]
  simp (disch := decide) only [extract_append_high, extract_append_low, Nat.reduceSub]
  exact extract_all _

theorem bits_m_flags (maj : BitVec 7) (min : BitVec 5) (f : FmtM) : bits (Enc.m maj min f).word 20 4 = f.flags := by
  have e : bits (Enc.m maj min f).word 20 4 = (maj ++ f.g.gp ++ bit1 f.g.gs ++ f.d ++ f.base ++ f.index ++ f.scale ++ bit1 f.ix ++ min ++ f.flags ++ f.disp).extractLsb' 20 4 := rfl
  rw [e]
  simp (disch := decide) only [extract_append_high, extract_append_low, Nat.reduceSub]
  exact extract_all _

theorem bits_m_disp (maj : BitVec 7) (min : BitVec 5) (f : FmtM) : bits (Enc.m maj min f).word 0 20 = f.disp := by
  have e : bits (Enc.m maj min f).word 0 20 = (maj ++ f.g.gp ++ bit1 f.g.gs ++ f.d ++ f.base ++ f.index ++ f.scale ++ bit1 f.ix ++ min ++ f.flags ++ f.disp).extractLsb' 0 20 := rfl
  rw [e]
  simp (disch := decide) only [extract_append_low]
  exact extract_all _

theorem guardOf_m (maj : BitVec 7) (min : BitVec 5) (f : FmtM) : guardOf (Enc.m maj min f).word = f.g := by
  rw [guardOf, bits_m_gp, getLsbD_of_bits (bits_m_gs maj min f)]

/-- A syllable of format M is cut as it was put together. -/
theorem parse_m (maj : BitVec 7) (min : BitVec 5) (f : FmtM) (lit : Word) (h : formatOf maj.toNat = some .m) :
    parse (Enc.m maj min f).word lit = some (.m maj min f) := by
  simp only [parse, bits_m_maj, h, guardOf_m, bits_m_d, bits_m_base, bits_m_index, bits_m_scale, bits_m_min, bits_m_flags, bits_m_disp, getLsbD_of_bits (bits_m_ix maj min f)]

/-! Format V -/

theorem bits_v_maj (maj : BitVec 7) (min : BitVec 8) (f : FmtV) : bits (Enc.v maj min f).word 57 7 = maj := by
  have e : bits (Enc.v maj min f).word 57 7 = (maj ++ f.g.gp ++ bit1 f.g.gs ++ f.vd ++ f.va ++ f.vb ++ f.vc ++ f.mask ++ f.xt ++ min ++ f.fmt ++ f.rmode ++ f.cfile ++ f.aux).extractLsb' 57 7 := rfl
  rw [e]
  simp (disch := decide) only [extract_append_high, Nat.reduceSub]
  exact extract_all _

theorem bits_v_gp (maj : BitVec 7) (min : BitVec 8) (f : FmtV) : bits (Enc.v maj min f).word 52 5 = f.g.gp := by
  have e : bits (Enc.v maj min f).word 52 5 = (maj ++ f.g.gp ++ bit1 f.g.gs ++ f.vd ++ f.va ++ f.vb ++ f.vc ++ f.mask ++ f.xt ++ min ++ f.fmt ++ f.rmode ++ f.cfile ++ f.aux).extractLsb' 52 5 := rfl
  rw [e]
  simp (disch := decide) only [extract_append_high, extract_append_low, Nat.reduceSub]
  exact extract_all _

theorem bits_v_gs (maj : BitVec 7) (min : BitVec 8) (f : FmtV) : bits (Enc.v maj min f).word 51 1 = bit1 f.g.gs := by
  have e : bits (Enc.v maj min f).word 51 1 = (maj ++ f.g.gp ++ bit1 f.g.gs ++ f.vd ++ f.va ++ f.vb ++ f.vc ++ f.mask ++ f.xt ++ min ++ f.fmt ++ f.rmode ++ f.cfile ++ f.aux).extractLsb' 51 1 := rfl
  rw [e]
  simp (disch := decide) only [extract_append_high, extract_append_low, Nat.reduceSub]
  exact extract_all _

theorem bits_v_vd (maj : BitVec 7) (min : BitVec 8) (f : FmtV) : bits (Enc.v maj min f).word 45 6 = f.vd := by
  have e : bits (Enc.v maj min f).word 45 6 = (maj ++ f.g.gp ++ bit1 f.g.gs ++ f.vd ++ f.va ++ f.vb ++ f.vc ++ f.mask ++ f.xt ++ min ++ f.fmt ++ f.rmode ++ f.cfile ++ f.aux).extractLsb' 45 6 := rfl
  rw [e]
  simp (disch := decide) only [extract_append_high, extract_append_low, Nat.reduceSub]
  exact extract_all _

theorem bits_v_va (maj : BitVec 7) (min : BitVec 8) (f : FmtV) : bits (Enc.v maj min f).word 39 6 = f.va := by
  have e : bits (Enc.v maj min f).word 39 6 = (maj ++ f.g.gp ++ bit1 f.g.gs ++ f.vd ++ f.va ++ f.vb ++ f.vc ++ f.mask ++ f.xt ++ min ++ f.fmt ++ f.rmode ++ f.cfile ++ f.aux).extractLsb' 39 6 := rfl
  rw [e]
  simp (disch := decide) only [extract_append_high, extract_append_low, Nat.reduceSub]
  exact extract_all _

theorem bits_v_vb (maj : BitVec 7) (min : BitVec 8) (f : FmtV) : bits (Enc.v maj min f).word 33 6 = f.vb := by
  have e : bits (Enc.v maj min f).word 33 6 = (maj ++ f.g.gp ++ bit1 f.g.gs ++ f.vd ++ f.va ++ f.vb ++ f.vc ++ f.mask ++ f.xt ++ min ++ f.fmt ++ f.rmode ++ f.cfile ++ f.aux).extractLsb' 33 6 := rfl
  rw [e]
  simp (disch := decide) only [extract_append_high, extract_append_low, Nat.reduceSub]
  exact extract_all _

theorem bits_v_vc (maj : BitVec 7) (min : BitVec 8) (f : FmtV) : bits (Enc.v maj min f).word 27 6 = f.vc := by
  have e : bits (Enc.v maj min f).word 27 6 = (maj ++ f.g.gp ++ bit1 f.g.gs ++ f.vd ++ f.va ++ f.vb ++ f.vc ++ f.mask ++ f.xt ++ min ++ f.fmt ++ f.rmode ++ f.cfile ++ f.aux).extractLsb' 27 6 := rfl
  rw [e]
  simp (disch := decide) only [extract_append_high, extract_append_low, Nat.reduceSub]
  exact extract_all _

theorem bits_v_mask (maj : BitVec 7) (min : BitVec 8) (f : FmtV) : bits (Enc.v maj min f).word 24 3 = f.mask := by
  have e : bits (Enc.v maj min f).word 24 3 = (maj ++ f.g.gp ++ bit1 f.g.gs ++ f.vd ++ f.va ++ f.vb ++ f.vc ++ f.mask ++ f.xt ++ min ++ f.fmt ++ f.rmode ++ f.cfile ++ f.aux).extractLsb' 24 3 := rfl
  rw [e]
  simp (disch := decide) only [extract_append_high, extract_append_low, Nat.reduceSub]
  exact extract_all _

theorem bits_v_xt (maj : BitVec 7) (min : BitVec 8) (f : FmtV) : bits (Enc.v maj min f).word 20 4 = f.xt := by
  have e : bits (Enc.v maj min f).word 20 4 = (maj ++ f.g.gp ++ bit1 f.g.gs ++ f.vd ++ f.va ++ f.vb ++ f.vc ++ f.mask ++ f.xt ++ min ++ f.fmt ++ f.rmode ++ f.cfile ++ f.aux).extractLsb' 20 4 := rfl
  rw [e]
  simp (disch := decide) only [extract_append_high, extract_append_low, Nat.reduceSub]
  exact extract_all _

theorem bits_v_min (maj : BitVec 7) (min : BitVec 8) (f : FmtV) : bits (Enc.v maj min f).word 12 8 = min := by
  have e : bits (Enc.v maj min f).word 12 8 = (maj ++ f.g.gp ++ bit1 f.g.gs ++ f.vd ++ f.va ++ f.vb ++ f.vc ++ f.mask ++ f.xt ++ min ++ f.fmt ++ f.rmode ++ f.cfile ++ f.aux).extractLsb' 12 8 := rfl
  rw [e]
  simp (disch := decide) only [extract_append_high, extract_append_low, Nat.reduceSub]
  exact extract_all _

theorem bits_v_fmt (maj : BitVec 7) (min : BitVec 8) (f : FmtV) : bits (Enc.v maj min f).word 8 4 = f.fmt := by
  have e : bits (Enc.v maj min f).word 8 4 = (maj ++ f.g.gp ++ bit1 f.g.gs ++ f.vd ++ f.va ++ f.vb ++ f.vc ++ f.mask ++ f.xt ++ min ++ f.fmt ++ f.rmode ++ f.cfile ++ f.aux).extractLsb' 8 4 := rfl
  rw [e]
  simp (disch := decide) only [extract_append_high, extract_append_low, Nat.reduceSub]
  exact extract_all _

theorem bits_v_rmode (maj : BitVec 7) (min : BitVec 8) (f : FmtV) : bits (Enc.v maj min f).word 5 3 = f.rmode := by
  have e : bits (Enc.v maj min f).word 5 3 = (maj ++ f.g.gp ++ bit1 f.g.gs ++ f.vd ++ f.va ++ f.vb ++ f.vc ++ f.mask ++ f.xt ++ min ++ f.fmt ++ f.rmode ++ f.cfile ++ f.aux).extractLsb' 5 3 := rfl
  rw [e]
  simp (disch := decide) only [extract_append_high, extract_append_low, Nat.reduceSub]
  exact extract_all _

theorem bits_v_cfile (maj : BitVec 7) (min : BitVec 8) (f : FmtV) : bits (Enc.v maj min f).word 3 2 = f.cfile := by
  have e : bits (Enc.v maj min f).word 3 2 = (maj ++ f.g.gp ++ bit1 f.g.gs ++ f.vd ++ f.va ++ f.vb ++ f.vc ++ f.mask ++ f.xt ++ min ++ f.fmt ++ f.rmode ++ f.cfile ++ f.aux).extractLsb' 3 2 := rfl
  rw [e]
  simp (disch := decide) only [extract_append_high, extract_append_low, Nat.reduceSub]
  exact extract_all _

theorem bits_v_aux (maj : BitVec 7) (min : BitVec 8) (f : FmtV) : bits (Enc.v maj min f).word 0 3 = f.aux := by
  have e : bits (Enc.v maj min f).word 0 3 = (maj ++ f.g.gp ++ bit1 f.g.gs ++ f.vd ++ f.va ++ f.vb ++ f.vc ++ f.mask ++ f.xt ++ min ++ f.fmt ++ f.rmode ++ f.cfile ++ f.aux).extractLsb' 0 3 := rfl
  rw [e]
  simp (disch := decide) only [extract_append_low]
  exact extract_all _

theorem guardOf_v (maj : BitVec 7) (min : BitVec 8) (f : FmtV) : guardOf (Enc.v maj min f).word = f.g := by
  rw [guardOf, bits_v_gp, getLsbD_of_bits (bits_v_gs maj min f)]

/-- A syllable of format V is cut as it was put together. -/
theorem parse_v (maj : BitVec 7) (min : BitVec 8) (f : FmtV) (lit : Word) (h : formatOf maj.toNat = some .v) :
    parse (Enc.v maj min f).word lit = some (.v maj min f) := by
  simp only [parse, bits_v_maj, h, guardOf_v, bits_v_vd, bits_v_va, bits_v_vb, bits_v_vc, bits_v_mask, bits_v_xt, bits_v_min, bits_v_fmt, bits_v_rmode, bits_v_cfile, bits_v_aux]

/-! Format E -/

theorem bits_e_maj (maj : BitVec 7) (min : BitVec 7) (f : FmtE) : bits (Enc.e maj min f).word 57 7 = maj := by
  have e : bits (Enc.e maj min f).word 57 7 = (maj ++ f.g.gp ++ bit1 f.g.gs ++ f.push ++ f.pop ++ f.opa ++ f.opb ++ f.opc ++ f.fsel ++ min ++ bit1 f.isAt ++ bit1 f.ats ++ f.atreg ++ f.mod).extractLsb' 57 7 := rfl
  rw [e]
  simp (disch := decide) only [extract_append_high, Nat.reduceSub]
  exact extract_all _

theorem bits_e_gp (maj : BitVec 7) (min : BitVec 7) (f : FmtE) : bits (Enc.e maj min f).word 52 5 = f.g.gp := by
  have e : bits (Enc.e maj min f).word 52 5 = (maj ++ f.g.gp ++ bit1 f.g.gs ++ f.push ++ f.pop ++ f.opa ++ f.opb ++ f.opc ++ f.fsel ++ min ++ bit1 f.isAt ++ bit1 f.ats ++ f.atreg ++ f.mod).extractLsb' 52 5 := rfl
  rw [e]
  simp (disch := decide) only [extract_append_high, extract_append_low, Nat.reduceSub]
  exact extract_all _

theorem bits_e_gs (maj : BitVec 7) (min : BitVec 7) (f : FmtE) : bits (Enc.e maj min f).word 51 1 = bit1 f.g.gs := by
  have e : bits (Enc.e maj min f).word 51 1 = (maj ++ f.g.gp ++ bit1 f.g.gs ++ f.push ++ f.pop ++ f.opa ++ f.opb ++ f.opc ++ f.fsel ++ min ++ bit1 f.isAt ++ bit1 f.ats ++ f.atreg ++ f.mod).extractLsb' 51 1 := rfl
  rw [e]
  simp (disch := decide) only [extract_append_high, extract_append_low, Nat.reduceSub]
  exact extract_all _

theorem bits_e_push (maj : BitVec 7) (min : BitVec 7) (f : FmtE) : bits (Enc.e maj min f).word 48 3 = f.push := by
  have e : bits (Enc.e maj min f).word 48 3 = (maj ++ f.g.gp ++ bit1 f.g.gs ++ f.push ++ f.pop ++ f.opa ++ f.opb ++ f.opc ++ f.fsel ++ min ++ bit1 f.isAt ++ bit1 f.ats ++ f.atreg ++ f.mod).extractLsb' 48 3 := rfl
  rw [e]
  simp (disch := decide) only [extract_append_high, extract_append_low, Nat.reduceSub]
  exact extract_all _

theorem bits_e_pop (maj : BitVec 7) (min : BitVec 7) (f : FmtE) : bits (Enc.e maj min f).word 44 4 = f.pop := by
  have e : bits (Enc.e maj min f).word 44 4 = (maj ++ f.g.gp ++ bit1 f.g.gs ++ f.push ++ f.pop ++ f.opa ++ f.opb ++ f.opc ++ f.fsel ++ min ++ bit1 f.isAt ++ bit1 f.ats ++ f.atreg ++ f.mod).extractLsb' 44 4 := rfl
  rw [e]
  simp (disch := decide) only [extract_append_high, extract_append_low, Nat.reduceSub]
  exact extract_all _

theorem bits_e_opa (maj : BitVec 7) (min : BitVec 7) (f : FmtE) : bits (Enc.e maj min f).word 38 6 = f.opa := by
  have e : bits (Enc.e maj min f).word 38 6 = (maj ++ f.g.gp ++ bit1 f.g.gs ++ f.push ++ f.pop ++ f.opa ++ f.opb ++ f.opc ++ f.fsel ++ min ++ bit1 f.isAt ++ bit1 f.ats ++ f.atreg ++ f.mod).extractLsb' 38 6 := rfl
  rw [e]
  simp (disch := decide) only [extract_append_high, extract_append_low, Nat.reduceSub]
  exact extract_all _

theorem bits_e_opb (maj : BitVec 7) (min : BitVec 7) (f : FmtE) : bits (Enc.e maj min f).word 32 6 = f.opb := by
  have e : bits (Enc.e maj min f).word 32 6 = (maj ++ f.g.gp ++ bit1 f.g.gs ++ f.push ++ f.pop ++ f.opa ++ f.opb ++ f.opc ++ f.fsel ++ min ++ bit1 f.isAt ++ bit1 f.ats ++ f.atreg ++ f.mod).extractLsb' 32 6 := rfl
  rw [e]
  simp (disch := decide) only [extract_append_high, extract_append_low, Nat.reduceSub]
  exact extract_all _

theorem bits_e_opc (maj : BitVec 7) (min : BitVec 7) (f : FmtE) : bits (Enc.e maj min f).word 26 6 = f.opc := by
  have e : bits (Enc.e maj min f).word 26 6 = (maj ++ f.g.gp ++ bit1 f.g.gs ++ f.push ++ f.pop ++ f.opa ++ f.opb ++ f.opc ++ f.fsel ++ min ++ bit1 f.isAt ++ bit1 f.ats ++ f.atreg ++ f.mod).extractLsb' 26 6 := rfl
  rw [e]
  simp (disch := decide) only [extract_append_high, extract_append_low, Nat.reduceSub]
  exact extract_all _

theorem bits_e_fsel (maj : BitVec 7) (min : BitVec 7) (f : FmtE) : bits (Enc.e maj min f).word 23 3 = f.fsel := by
  have e : bits (Enc.e maj min f).word 23 3 = (maj ++ f.g.gp ++ bit1 f.g.gs ++ f.push ++ f.pop ++ f.opa ++ f.opb ++ f.opc ++ f.fsel ++ min ++ bit1 f.isAt ++ bit1 f.ats ++ f.atreg ++ f.mod).extractLsb' 23 3 := rfl
  rw [e]
  simp (disch := decide) only [extract_append_high, extract_append_low, Nat.reduceSub]
  exact extract_all _

theorem bits_e_min (maj : BitVec 7) (min : BitVec 7) (f : FmtE) : bits (Enc.e maj min f).word 16 7 = min := by
  have e : bits (Enc.e maj min f).word 16 7 = (maj ++ f.g.gp ++ bit1 f.g.gs ++ f.push ++ f.pop ++ f.opa ++ f.opb ++ f.opc ++ f.fsel ++ min ++ bit1 f.isAt ++ bit1 f.ats ++ f.atreg ++ f.mod).extractLsb' 16 7 := rfl
  rw [e]
  simp (disch := decide) only [extract_append_high, extract_append_low, Nat.reduceSub]
  exact extract_all _

theorem bits_e_isAt (maj : BitVec 7) (min : BitVec 7) (f : FmtE) : bits (Enc.e maj min f).word 15 1 = bit1 f.isAt := by
  have e : bits (Enc.e maj min f).word 15 1 = (maj ++ f.g.gp ++ bit1 f.g.gs ++ f.push ++ f.pop ++ f.opa ++ f.opb ++ f.opc ++ f.fsel ++ min ++ bit1 f.isAt ++ bit1 f.ats ++ f.atreg ++ f.mod).extractLsb' 15 1 := rfl
  rw [e]
  simp (disch := decide) only [extract_append_high, extract_append_low, Nat.reduceSub]
  exact extract_all _

theorem bits_e_ats (maj : BitVec 7) (min : BitVec 7) (f : FmtE) : bits (Enc.e maj min f).word 14 1 = bit1 f.ats := by
  have e : bits (Enc.e maj min f).word 14 1 = (maj ++ f.g.gp ++ bit1 f.g.gs ++ f.push ++ f.pop ++ f.opa ++ f.opb ++ f.opc ++ f.fsel ++ min ++ bit1 f.isAt ++ bit1 f.ats ++ f.atreg ++ f.mod).extractLsb' 14 1 := rfl
  rw [e]
  simp (disch := decide) only [extract_append_high, extract_append_low, Nat.reduceSub]
  exact extract_all _

theorem bits_e_atreg (maj : BitVec 7) (min : BitVec 7) (f : FmtE) : bits (Enc.e maj min f).word 8 6 = f.atreg := by
  have e : bits (Enc.e maj min f).word 8 6 = (maj ++ f.g.gp ++ bit1 f.g.gs ++ f.push ++ f.pop ++ f.opa ++ f.opb ++ f.opc ++ f.fsel ++ min ++ bit1 f.isAt ++ bit1 f.ats ++ f.atreg ++ f.mod).extractLsb' 8 6 := rfl
  rw [e]
  simp (disch := decide) only [extract_append_high, extract_append_low, Nat.reduceSub]
  exact extract_all _

theorem bits_e_mod (maj : BitVec 7) (min : BitVec 7) (f : FmtE) : bits (Enc.e maj min f).word 0 8 = f.mod := by
  have e : bits (Enc.e maj min f).word 0 8 = (maj ++ f.g.gp ++ bit1 f.g.gs ++ f.push ++ f.pop ++ f.opa ++ f.opb ++ f.opc ++ f.fsel ++ min ++ bit1 f.isAt ++ bit1 f.ats ++ f.atreg ++ f.mod).extractLsb' 0 8 := rfl
  rw [e]
  simp (disch := decide) only [extract_append_low]
  exact extract_all _

theorem guardOf_e (maj : BitVec 7) (min : BitVec 7) (f : FmtE) : guardOf (Enc.e maj min f).word = f.g := by
  rw [guardOf, bits_e_gp, getLsbD_of_bits (bits_e_gs maj min f)]

/-- A syllable of format E is cut as it was put together. -/
theorem parse_e (maj : BitVec 7) (min : BitVec 7) (f : FmtE) (lit : Word) (h : formatOf maj.toNat = some .e) :
    parse (Enc.e maj min f).word lit = some (.e maj min f) := by
  simp only [parse, bits_e_maj, h, guardOf_e, bits_e_push, bits_e_pop, bits_e_opa, bits_e_opb, bits_e_opc, bits_e_fsel, bits_e_min, bits_e_atreg, bits_e_mod, getLsbD_of_bits (bits_e_isAt maj min f), getLsbD_of_bits (bits_e_ats maj min f)]

/-! Format L -/

theorem bits_l_maj (maj : BitVec 7) (min : BitVec 4) (rsv : BitVec 41) (f : FmtL) : bits (Enc.l maj min rsv f).word 57 7 = maj := by
  have e : bits (Enc.l maj min rsv f).word 57 7 = (maj ++ f.g.gp ++ bit1 f.g.gs ++ f.d ++ min ++ rsv).extractLsb' 57 7 := rfl
  rw [e]
  simp (disch := decide) only [extract_append_high, Nat.reduceSub]
  exact extract_all _

theorem bits_l_gp (maj : BitVec 7) (min : BitVec 4) (rsv : BitVec 41) (f : FmtL) : bits (Enc.l maj min rsv f).word 52 5 = f.g.gp := by
  have e : bits (Enc.l maj min rsv f).word 52 5 = (maj ++ f.g.gp ++ bit1 f.g.gs ++ f.d ++ min ++ rsv).extractLsb' 52 5 := rfl
  rw [e]
  simp (disch := decide) only [extract_append_high, extract_append_low, Nat.reduceSub]
  exact extract_all _

theorem bits_l_gs (maj : BitVec 7) (min : BitVec 4) (rsv : BitVec 41) (f : FmtL) : bits (Enc.l maj min rsv f).word 51 1 = bit1 f.g.gs := by
  have e : bits (Enc.l maj min rsv f).word 51 1 = (maj ++ f.g.gp ++ bit1 f.g.gs ++ f.d ++ min ++ rsv).extractLsb' 51 1 := rfl
  rw [e]
  simp (disch := decide) only [extract_append_high, extract_append_low, Nat.reduceSub]
  exact extract_all _

theorem bits_l_d (maj : BitVec 7) (min : BitVec 4) (rsv : BitVec 41) (f : FmtL) : bits (Enc.l maj min rsv f).word 45 6 = f.d := by
  have e : bits (Enc.l maj min rsv f).word 45 6 = (maj ++ f.g.gp ++ bit1 f.g.gs ++ f.d ++ min ++ rsv).extractLsb' 45 6 := rfl
  rw [e]
  simp (disch := decide) only [extract_append_high, extract_append_low, Nat.reduceSub]
  exact extract_all _

theorem bits_l_min (maj : BitVec 7) (min : BitVec 4) (rsv : BitVec 41) (f : FmtL) : bits (Enc.l maj min rsv f).word 41 4 = min := by
  have e : bits (Enc.l maj min rsv f).word 41 4 = (maj ++ f.g.gp ++ bit1 f.g.gs ++ f.d ++ min ++ rsv).extractLsb' 41 4 := rfl
  rw [e]
  simp (disch := decide) only [extract_append_high, extract_append_low, Nat.reduceSub]
  exact extract_all _

theorem bits_l_rsv (maj : BitVec 7) (min : BitVec 4) (rsv : BitVec 41) (f : FmtL) : bits (Enc.l maj min rsv f).word 0 41 = rsv := by
  have e : bits (Enc.l maj min rsv f).word 0 41 = (maj ++ f.g.gp ++ bit1 f.g.gs ++ f.d ++ min ++ rsv).extractLsb' 0 41 := rfl
  rw [e]
  simp (disch := decide) only [extract_append_low]
  exact extract_all _

theorem guardOf_l (maj : BitVec 7) (min : BitVec 4) (rsv : BitVec 41) (f : FmtL) : guardOf (Enc.l maj min rsv f).word = f.g := by
  rw [guardOf, bits_l_gp, getLsbD_of_bits (bits_l_gs maj min rsv f)]

/-- A syllable of format L is cut as it was put together. -/
theorem parse_l (maj : BitVec 7) (min : BitVec 4) (rsv : BitVec 41) (f : FmtL) (h : formatOf maj.toNat = some .l) :
    parse (Enc.l maj min rsv f).word f.lit = some (.l maj min rsv f) := by
  simp only [parse, bits_l_maj, h, guardOf_l, bits_l_d, bits_l_min, bits_l_rsv]

end Sys2Proof
end

