-- ==== Sys2Proof/Laws/Table.lean ====
section
/-! SUPPORT. Sparse tables: what is read after a write, and that every operation keeps the canonical form. -/

namespace Sys2Proof.Machine.Tbl

variable {α : Type}

/-! ### Reading after writing -/

@[simp] theorem find?_put_self (t : Tbl α) (k : Nat) (v : α) : find? (put t k v) k = some v := by
  induction t with
  | nil => simp [put, find?]
  | cons e r ih =>
    obtain ⟨k', v'⟩ := e
    simp only [put]
    split
    · simp [find?]
    · split
      · simp [find?]
      · simp [find?, *]

theorem find?_put_ne (t : Tbl α) {k j : Nat} (v : α) (h : j ≠ k) : find? (put t k v) j = find? t j := by
  induction t with
  | nil => simp [put, find?, h]
  | cons e r ih =>
    obtain ⟨k', v'⟩ := e
    simp only [put]
    split
    · subst_vars; simp [find?, h]
    · split
      · simp [find?, h]
      · simp [find?, ih]

@[simp] theorem find?_erase_self (t : Tbl α) (k : Nat) : find? (erase t k) k = none := by
  induction t with
  | nil => rfl
  | cons e r ih =>
    obtain ⟨k', v'⟩ := e
    by_cases h : k' = k
    · simpa [erase, h] using ih
    · have h' : k ≠ k' := fun e => h e.symm
      simpa [erase, h, find?, h'] using ih

theorem find?_erase_ne (t : Tbl α) {k j : Nat} (h : j ≠ k) : find? (erase t k) j = find? t j := by
  induction t with
  | nil => rfl
  | cons e r ih =>
    obtain ⟨k', v'⟩ := e
    by_cases hk : k' = k
    · subst hk; simpa [erase, find?, h] using ih
    · simp only [erase, ne_eq, hk, not_false_eq_true, decide_true, List.filter_cons_of_pos, find?]
      split
      · rfl
      · exact ih

@[simp] theorem get_set_self [DecidableEq α] (d : α) (t : Tbl α) (k : Nat) (v : α) : get d (set d t k v) k = v := by
  unfold set get
  split <;> simp_all

theorem find?_set_ne [DecidableEq α] (d : α) (t : Tbl α) {k j : Nat} (v : α) (h : j ≠ k) : find? (set d t k v) j = find? t j := by
  unfold set
  split
  · exact find?_erase_ne t h
  · exact find?_put_ne t v h

theorem get_set_ne [DecidableEq α] (d : α) (t : Tbl α) {k j : Nat} (v : α) (h : j ≠ k) :
    get d (set d t k v) j = get d t j := by
  rw [get, find?_set_ne d t v h, get]

/-- A write and then a read, at any key. -/
theorem get_set [DecidableEq α] (d : α) (t : Tbl α) (k j : Nat) (v : α) :
    get d (set d t k v) j = if j = k then v else get d t j := by
  split
  · next h => subst h; simp
  · next h => exact get_set_ne d t v h

@[simp] theorem get_nil (d : α) (k : Nat) : get d [] k = d := rfl

/-! ### The canonical form -/

theorem above_mono {lo lo' : Nat} {t : Tbl α} (h : lo' ≤ lo) (ha : above lo t = true) : above lo' t = true := by
  cases t with
  | nil => rfl
  | cons e r =>
    obtain ⟨k, v⟩ := e
    simp only [above, Bool.and_eq_true, decide_eq_true_eq] at ha ⊢
    exact ⟨by omega, ha.2⟩

theorem above_put {lo k : Nat} {v : α} {t : Tbl α} (hk : lo < k) (ha : above lo t = true) : above lo (put t k v) = true := by
  induction t generalizing lo with
  | nil => simp [put, above, hk]
  | cons e r ih =>
    obtain ⟨k', v'⟩ := e
    simp only [above, Bool.and_eq_true, decide_eq_true_eq] at ha
    simp only [put]
    split
    · subst_vars; simp [above, hk, ha.2]
    · split
      · simp [above, ha.2, *]
      · simp only [above, Bool.and_eq_true, decide_eq_true_eq]
        exact ⟨ha.1, ih (by omega) ha.2⟩

theorem above_filter {lo : Nat} {t : Tbl α} (p : Nat × α → Bool) (ha : above lo t = true) : above lo (t.filter p) = true := by
  induction t generalizing lo with
  | nil => rfl
  | cons e r ih =>
    obtain ⟨k, v⟩ := e
    simp only [above, Bool.and_eq_true, decide_eq_true_eq] at ha
    rw [List.filter_cons]
    split
    · simp [above, ha.1, ih ha.2]
    · exact ih (above_mono (by omega) ha.2)

theorem rising_of_above {lo : Nat} {t : Tbl α} (h : above lo t = true) : rising t = true := by
  cases t with
  | nil => rfl
  | cons e r => obtain ⟨k, v⟩ := e; simp [above, rising] at *; exact h.2

theorem rising_put {k : Nat} {v : α} {t : Tbl α} (h : rising t = true) : rising (put t k v) = true := by
  cases t with
  | nil => rfl
  | cons e r =>
    obtain ⟨k', v'⟩ := e
    simp only [rising] at h
    simp only [put]
    split
    · subst_vars; simpa [rising] using h
    · split
      · simp [rising, above, *]
      · simp only [rising]; exact above_put (by omega) h

theorem rising_filter {t : Tbl α} (p : Nat × α → Bool) (h : rising t = true) : rising (t.filter p) = true := by
  cases t with
  | nil => rfl
  | cons e r =>
    obtain ⟨k, v⟩ := e
    simp only [rising] at h
    rw [List.filter_cons]
    split
    · simp [rising, above_filter p h]
    · exact rising_of_above (above_filter p h)

theorem all_put {p : Nat × α → Bool} {k : Nat} {v : α} {t : Tbl α} (hv : p (k, v) = true) (h : t.all p = true) :
    (put t k v).all p = true := by
  induction t with
  | nil => simpa [put] using hv
  | cons e r ih =>
    obtain ⟨k', v'⟩ := e
    simp only [List.all_cons, Bool.and_eq_true] at h
    simp only [put]
    split
    · simp [hv, h.2]
    · split
      · simp [hv, h.1, h.2]
      · simp [h.1, ih h.2]

/-- Dropping entries keeps the form. -/
theorem wf_filter [DecidableEq α] {d : α} {t : Tbl α} (p : Nat × α → Bool) (h : wf d t = true) : wf d (t.filter p) = true := by
  simp only [wf, Bool.and_eq_true] at *
  refine ⟨rising_filter p h.1, ?_⟩
  simp only [List.all_eq_true] at *
  exact fun x hx => h.2 x (List.mem_filter.mp hx).1

/-- Every write keeps the form. -/
theorem wf_set [DecidableEq α] {d : α} {t : Tbl α} (k : Nat) (v : α) (h : wf d t = true) : wf d (set d t k v) = true := by
  unfold set
  split
  · exact wf_filter _ h
  · next hv =>
    simp only [wf, Bool.and_eq_true] at *
    exact ⟨rising_put h.1, all_put (by simpa using hv) h.2⟩

@[simp] theorem wf_nil [DecidableEq α] (d : α) : wf d ([] : Tbl α) = true := rfl

/-- In the canonical form, a key below every listed key is not listed. -/
theorem find?_eq_none_of_above {lo k : Nat} {t : Tbl α} (h : above lo t = true) (hk : k ≤ lo) : find? t k = none := by
  induction t generalizing lo with
  | nil => rfl
  | cons e r ih =>
    obtain ⟨k', v'⟩ := e
    simp only [above, Bool.and_eq_true, decide_eq_true_eq] at h
    simp only [find?]
    rw [if_neg (by omega)]
    exact ih h.2 (by omega)

end Sys2Proof.Machine.Tbl
end

