-- ==== Sys2Proof/Laws/State.lean ====
section
/-! SUPPORT. What the plain updates of the state leave as it was: one lemma per field and update, and what a task, a share, a
register, a byte or a tag reads after it. -/

namespace Sys2Proof.Machine

/-! ### Tasks and shares -/

@[simp] theorem State.task_setTask_self (s : State) (g : Gtid) (x : Task) : (s.setTask g x).task g = x := by
  simp [State.task, State.setTask]

theorem State.task_setTask_ne (s : State) {g g' : Gtid} (x : Task) (h : g' ≠ g) : (s.setTask g x).task g' = s.task g' := by
  simp only [State.task, State.setTask]
  exact Tbl.get_set_ne _ _ _ fun e => h (BitVec.eq_of_toNat_eq e)

theorem State.task_setTask (s : State) (g g' : Gtid) (x : Task) : (s.setTask g x).task g' = if g' = g then x else s.task g' := by
  split
  · next h => subst h; simp
  · next h => exact s.task_setTask_ne x h

@[simp] theorem State.share_setShare_self (s : State) (g : Gtid) (c : Nat) (x : Share) : (s.setShare g c x).share g c = x := by
  simp [State.share, State.setShare]

theorem State.share_setShare_ne (s : State) {g g' : Gtid} {c c' : Nat} (x : Share) (h : shareKey g' c' ≠ shareKey g c) :
    (s.setShare g c x).share g' c' = s.share g' c' := by
  simp only [State.share, State.setShare]
  exact Tbl.get_set_ne _ _ _ h

@[simp] theorem State.task_modTask_self (s : State) (g : Gtid) (h : Task → Task) : (s.modTask g h).task g = h (s.task g) := by
  simp [State.modTask]

theorem State.task_modTask_ne (s : State) {g g' : Gtid} (h : Task → Task) (n : g' ≠ g) : (s.modTask g h).task g' = s.task g' :=
  s.task_setTask_ne _ n

@[simp] theorem State.share_modShare_self (s : State) (g : Gtid) (c : Nat) (h : Share → Share) :
    (s.modShare g c h).share g c = h (s.share g c) := by
  simp [State.modShare]

theorem State.share_modShare_ne (s : State) {g g' : Gtid} {c c' : Nat} (h : Share → Share) (n : shareKey g' c' ≠ shareKey g c) :
    (s.modShare g c h).share g' c' = s.share g' c' :=
  s.share_setShare_ne _ n

@[simp] theorem State.reg_setReg_self (s : State) (pa : Nat) (v : Word) : (s.setReg pa v).reg pa = v := by
  simp [State.reg, State.setReg]

theorem State.reg_setReg_ne (s : State) {pa pa' : Nat} (v : Word) (h : pa' ≠ pa) : (s.setReg pa v).reg pa' = s.reg pa' := by
  simp only [State.reg, State.setReg, Tbl.get]
  rw [Tbl.find?_set_ne _ _ _ h]

@[simp] theorem State.line_setLine_self (s : State) (pa : Nat) (l : Line) : (s.setLine pa l).line pa = l := by
  simp [State.line, State.setLine]

@[simp] theorem State.memByte_setMemByte_self (s : State) (pa : Nat) (b : Byte) : (s.setMemByte pa b).memByte pa = b := by
  simp [State.memByte, State.setMemByte]

theorem State.memByte_setMemByte_ne (s : State) {pa a : Nat} (b : Byte) (h : a ≠ pa) :
    (s.setMemByte pa b).memByte a = s.memByte a := by
  exact Tbl.get_set_ne 0 s.mem b h

@[simp] theorem State.tag_setTag_self (s : State) (pa : Nat) (b : Bool) : (s.setTag pa b).tag pa = b := by
  simp [State.tag, State.setTag]

theorem State.tag_setTag_ne (s : State) {pa a : Nat} (b : Bool) (h : wordAddr a ≠ wordAddr pa) :
    (s.setTag pa b).tag a = s.tag a := by
  exact Tbl.get_set_ne false s.tags b h

@[simp] theorem State.l1_setL1_self (s : State) (row pa : Nat) (w : L1Word) : (s.setL1 row pa w).l1 row pa = w := by
  simp [State.l1, State.setL1]

/-! ### Frames, field by field -/

@[simp] theorem State.setTask_shares (s : State) (g : Gtid) (x : Task) : (s.setTask g x).shares = s.shares := rfl
@[simp] theorem State.setTask_mem (s : State) (g : Gtid) (x : Task) : (s.setTask g x).mem = s.mem := rfl
@[simp] theorem State.setTask_tags (s : State) (g : Gtid) (x : Task) : (s.setTask g x).tags = s.tags := rfl
@[simp] theorem State.setTask_regs (s : State) (g : Gtid) (x : Task) : (s.setTask g x).regs = s.regs := rfl
@[simp] theorem State.setTask_lines (s : State) (g : Gtid) (x : Task) : (s.setTask g x).lines = s.lines := rfl
@[simp] theorem State.setTask_lruClock (s : State) (g : Gtid) (x : Task) : (s.setTask g x).lruClock = s.lruClock := rfl
@[simp] theorem State.setTask_l1d (s : State) (g : Gtid) (x : Task) : (s.setTask g x).l1d = s.l1d := rfl
@[simp] theorem State.setTask_tlbs (s : State) (g : Gtid) (x : Task) : (s.setTask g x).tlbs = s.tlbs := rfl
@[simp] theorem State.setTask_queues (s : State) (g : Gtid) (x : Task) : (s.setTask g x).queues = s.queues := rfl
@[simp] theorem State.setTask_bcQueues (s : State) (g : Gtid) (x : Task) : (s.setTask g x).bcQueues = s.bcQueues := rfl
@[simp] theorem State.setTask_nets (s : State) (g : Gtid) (x : Task) : (s.setTask g x).nets = s.nets := rfl
@[simp] theorem State.setTask_bridges (s : State) (g : Gtid) (x : Task) : (s.setTask g x).bridges = s.bridges := rfl
@[simp] theorem State.setTask_nextReq (s : State) (g : Gtid) (x : Task) : (s.setTask g x).nextReq = s.nextReq := rfl
@[simp] theorem State.setTask_icache (s : State) (g : Gtid) (x : Task) : (s.setTask g x).icache = s.icache := rfl
@[simp] theorem State.setTask_waits (s : State) (g : Gtid) (x : Task) : (s.setTask g x).waits = s.waits := rfl
@[simp] theorem State.setTask_replies (s : State) (g : Gtid) (x : Task) : (s.setTask g x).replies = s.replies := rfl
@[simp] theorem State.setTask_flips (s : State) (g : Gtid) (x : Task) : (s.setTask g x).flips = s.flips := rfl
@[simp] theorem State.setTask_trackers (s : State) (g : Gtid) (x : Task) : (s.setTask g x).trackers = s.trackers := rfl
@[simp] theorem State.setTask_ringLost (s : State) (g : Gtid) (x : Task) : (s.setTask g x).ringLost = s.ringLost := rfl
@[simp] theorem State.setTask_slcLast (s : State) (g : Gtid) (x : Task) : (s.setTask g x).slcLast = s.slcLast := rfl
@[simp] theorem State.setTask_slcClr (s : State) (g : Gtid) (x : Task) : (s.setTask g x).slcClr = s.slcClr := rfl
@[simp] theorem State.setTask_scrubAt (s : State) (g : Gtid) (x : Task) : (s.setTask g x).scrubAt = s.scrubAt := rfl
@[simp] theorem State.setTask_fab (s : State) (g : Gtid) (x : Task) : (s.setTask g x).fab = s.fab := rfl
@[simp] theorem State.setTask_coll (s : State) (g : Gtid) (x : Task) : (s.setTask g x).coll = s.coll := rfl
@[simp] theorem State.setTask_sched (s : State) (g : Gtid) (x : Task) : (s.setTask g x).sched = s.sched := rfl
@[simp] theorem State.setTask_xch (s : State) (g : Gtid) (x : Task) : (s.setTask g x).xch = s.xch := rfl
@[simp] theorem State.setTask_bcVec (s : State) (g : Gtid) (x : Task) : (s.setTask g x).bcVec = s.bcVec := rfl
@[simp] theorem State.setTask_spBusy (s : State) (g : Gtid) (x : Task) : (s.setTask g x).spBusy = s.spBusy := rfl
@[simp] theorem State.setTask_spClaims (s : State) (g : Gtid) (x : Task) : (s.setTask g x).spClaims = s.spClaims := rfl
@[simp] theorem State.setTask_bcDiv (s : State) (g : Gtid) (x : Task) : (s.setTask g x).bcDiv = s.bcDiv := rfl
@[simp] theorem State.setTask_vDests (s : State) (g : Gtid) (x : Task) : (s.setTask g x).vDests = s.vDests := rfl
@[simp] theorem State.setTask_cur (s : State) (g : Gtid) (x : Task) : (s.setTask g x).cur = s.cur := rfl
@[simp] theorem State.setTask_curAddr (s : State) (g : Gtid) (x : Task) : (s.setTask g x).curAddr = s.curAddr := rfl
@[simp] theorem State.setTask_curE (s : State) (g : Gtid) (x : Task) : (s.setTask g x).curE = s.curE := rfl
@[simp] theorem State.setTask_curV (s : State) (g : Gtid) (x : Task) : (s.setTask g x).curV = s.curV := rfl
@[simp] theorem State.setTask_snap (s : State) (g : Gtid) (x : Task) : (s.setTask g x).snap = s.snap := rfl
@[simp] theorem State.setTask_carried (s : State) (g : Gtid) (x : Task) : (s.setTask g x).carried = s.carried := rfl
@[simp] theorem State.setTask_raised (s : State) (g : Gtid) (x : Task) : (s.setTask g x).raised = s.raised := rfl
@[simp] theorem State.setTask_flagAcc (s : State) (g : Gtid) (x : Task) : (s.setTask g x).flagAcc = s.flagAcc := rfl
@[simp] theorem State.setTask_pending (s : State) (g : Gtid) (x : Task) : (s.setTask g x).pending = s.pending := rfl
@[simp] theorem State.setTask_syscs (s : State) (g : Gtid) (x : Task) : (s.setTask g x).syscs = s.syscs := rfl
@[simp] theorem State.setTask_faultPend (s : State) (g : Gtid) (x : Task) : (s.setTask g x).faultPend = s.faultPend := rfl
@[simp] theorem State.setTask_faultOut (s : State) (g : Gtid) (x : Task) : (s.setTask g x).faultOut = s.faultOut := rfl
@[simp] theorem State.setTask_faultHeld (s : State) (g : Gtid) (x : Task) : (s.setTask g x).faultHeld = s.faultHeld := rfl
@[simp] theorem State.setTask_sec (s : State) (g : Gtid) (x : Task) : (s.setTask g x).sec = s.sec := rfl
@[simp] theorem State.setTask_ldr (s : State) (g : Gtid) (x : Task) : (s.setTask g x).ldr = s.ldr := rfl
@[simp] theorem State.setTask_pow (s : State) (g : Gtid) (x : Task) : (s.setTask g x).pow = s.pow := rfl
@[simp] theorem State.setTask_dbg (s : State) (g : Gtid) (x : Task) : (s.setTask g x).dbg = s.dbg := rfl
@[simp] theorem State.setTask_answered (s : State) (g : Gtid) (x : Task) : (s.setTask g x).answered = s.answered := rfl
@[simp] theorem State.setTask_agenda (s : State) (g : Gtid) (x : Task) : (s.setTask g x).agenda = s.agenda := rfl
@[simp] theorem State.setTask_cycle (s : State) (g : Gtid) (x : Task) : (s.setTask g x).cycle = s.cycle := rfl
@[simp] theorem State.setTask_dcc (s : State) (g : Gtid) (x : Task) : (s.setTask g x).dcc = s.dcc := rfl
@[simp] theorem State.setTask_dccAcc (s : State) (g : Gtid) (x : Task) : (s.setTask g x).dccAcc = s.dccAcc := rfl
@[simp] theorem State.setTask_free (s : State) (g : Gtid) (x : Task) : (s.setTask g x).free = s.free := rfl

@[simp] theorem State.modTask_shares (s : State) (g : Gtid) (h : Task → Task) : (s.modTask g h).shares = s.shares := rfl
@[simp] theorem State.modTask_mem (s : State) (g : Gtid) (h : Task → Task) : (s.modTask g h).mem = s.mem := rfl
@[simp] theorem State.modTask_tags (s : State) (g : Gtid) (h : Task → Task) : (s.modTask g h).tags = s.tags := rfl
@[simp] theorem State.modTask_regs (s : State) (g : Gtid) (h : Task → Task) : (s.modTask g h).regs = s.regs := rfl
@[simp] theorem State.modTask_lines (s : State) (g : Gtid) (h : Task → Task) : (s.modTask g h).lines = s.lines := rfl
@[simp] theorem State.modTask_lruClock (s : State) (g : Gtid) (h : Task → Task) : (s.modTask g h).lruClock = s.lruClock := rfl
@[simp] theorem State.modTask_l1d (s : State) (g : Gtid) (h : Task → Task) : (s.modTask g h).l1d = s.l1d := rfl
@[simp] theorem State.modTask_tlbs (s : State) (g : Gtid) (h : Task → Task) : (s.modTask g h).tlbs = s.tlbs := rfl
@[simp] theorem State.modTask_queues (s : State) (g : Gtid) (h : Task → Task) : (s.modTask g h).queues = s.queues := rfl
@[simp] theorem State.modTask_bcQueues (s : State) (g : Gtid) (h : Task → Task) : (s.modTask g h).bcQueues = s.bcQueues := rfl
@[simp] theorem State.modTask_nets (s : State) (g : Gtid) (h : Task → Task) : (s.modTask g h).nets = s.nets := rfl
@[simp] theorem State.modTask_bridges (s : State) (g : Gtid) (h : Task → Task) : (s.modTask g h).bridges = s.bridges := rfl
@[simp] theorem State.modTask_nextReq (s : State) (g : Gtid) (h : Task → Task) : (s.modTask g h).nextReq = s.nextReq := rfl
@[simp] theorem State.modTask_icache (s : State) (g : Gtid) (h : Task → Task) : (s.modTask g h).icache = s.icache := rfl
@[simp] theorem State.modTask_waits (s : State) (g : Gtid) (h : Task → Task) : (s.modTask g h).waits = s.waits := rfl
@[simp] theorem State.modTask_replies (s : State) (g : Gtid) (h : Task → Task) : (s.modTask g h).replies = s.replies := rfl
@[simp] theorem State.modTask_flips (s : State) (g : Gtid) (h : Task → Task) : (s.modTask g h).flips = s.flips := rfl
@[simp] theorem State.modTask_trackers (s : State) (g : Gtid) (h : Task → Task) : (s.modTask g h).trackers = s.trackers := rfl
@[simp] theorem State.modTask_ringLost (s : State) (g : Gtid) (h : Task → Task) : (s.modTask g h).ringLost = s.ringLost := rfl
@[simp] theorem State.modTask_slcLast (s : State) (g : Gtid) (h : Task → Task) : (s.modTask g h).slcLast = s.slcLast := rfl
@[simp] theorem State.modTask_slcClr (s : State) (g : Gtid) (h : Task → Task) : (s.modTask g h).slcClr = s.slcClr := rfl
@[simp] theorem State.modTask_scrubAt (s : State) (g : Gtid) (h : Task → Task) : (s.modTask g h).scrubAt = s.scrubAt := rfl
@[simp] theorem State.modTask_fab (s : State) (g : Gtid) (h : Task → Task) : (s.modTask g h).fab = s.fab := rfl
@[simp] theorem State.modTask_coll (s : State) (g : Gtid) (h : Task → Task) : (s.modTask g h).coll = s.coll := rfl
@[simp] theorem State.modTask_sched (s : State) (g : Gtid) (h : Task → Task) : (s.modTask g h).sched = s.sched := rfl
@[simp] theorem State.modTask_xch (s : State) (g : Gtid) (h : Task → Task) : (s.modTask g h).xch = s.xch := rfl
@[simp] theorem State.modTask_bcVec (s : State) (g : Gtid) (h : Task → Task) : (s.modTask g h).bcVec = s.bcVec := rfl
@[simp] theorem State.modTask_spBusy (s : State) (g : Gtid) (h : Task → Task) : (s.modTask g h).spBusy = s.spBusy := rfl
@[simp] theorem State.modTask_spClaims (s : State) (g : Gtid) (h : Task → Task) : (s.modTask g h).spClaims = s.spClaims := rfl
@[simp] theorem State.modTask_bcDiv (s : State) (g : Gtid) (h : Task → Task) : (s.modTask g h).bcDiv = s.bcDiv := rfl
@[simp] theorem State.modTask_vDests (s : State) (g : Gtid) (h : Task → Task) : (s.modTask g h).vDests = s.vDests := rfl
@[simp] theorem State.modTask_cur (s : State) (g : Gtid) (h : Task → Task) : (s.modTask g h).cur = s.cur := rfl
@[simp] theorem State.modTask_curAddr (s : State) (g : Gtid) (h : Task → Task) : (s.modTask g h).curAddr = s.curAddr := rfl
@[simp] theorem State.modTask_curE (s : State) (g : Gtid) (h : Task → Task) : (s.modTask g h).curE = s.curE := rfl
@[simp] theorem State.modTask_curV (s : State) (g : Gtid) (h : Task → Task) : (s.modTask g h).curV = s.curV := rfl
@[simp] theorem State.modTask_snap (s : State) (g : Gtid) (h : Task → Task) : (s.modTask g h).snap = s.snap := rfl
@[simp] theorem State.modTask_carried (s : State) (g : Gtid) (h : Task → Task) : (s.modTask g h).carried = s.carried := rfl
@[simp] theorem State.modTask_raised (s : State) (g : Gtid) (h : Task → Task) : (s.modTask g h).raised = s.raised := rfl
@[simp] theorem State.modTask_flagAcc (s : State) (g : Gtid) (h : Task → Task) : (s.modTask g h).flagAcc = s.flagAcc := rfl
@[simp] theorem State.modTask_pending (s : State) (g : Gtid) (h : Task → Task) : (s.modTask g h).pending = s.pending := rfl
@[simp] theorem State.modTask_syscs (s : State) (g : Gtid) (h : Task → Task) : (s.modTask g h).syscs = s.syscs := rfl
@[simp] theorem State.modTask_faultPend (s : State) (g : Gtid) (h : Task → Task) : (s.modTask g h).faultPend = s.faultPend := rfl
@[simp] theorem State.modTask_faultOut (s : State) (g : Gtid) (h : Task → Task) : (s.modTask g h).faultOut = s.faultOut := rfl
@[simp] theorem State.modTask_faultHeld (s : State) (g : Gtid) (h : Task → Task) : (s.modTask g h).faultHeld = s.faultHeld := rfl
@[simp] theorem State.modTask_sec (s : State) (g : Gtid) (h : Task → Task) : (s.modTask g h).sec = s.sec := rfl
@[simp] theorem State.modTask_ldr (s : State) (g : Gtid) (h : Task → Task) : (s.modTask g h).ldr = s.ldr := rfl
@[simp] theorem State.modTask_pow (s : State) (g : Gtid) (h : Task → Task) : (s.modTask g h).pow = s.pow := rfl
@[simp] theorem State.modTask_dbg (s : State) (g : Gtid) (h : Task → Task) : (s.modTask g h).dbg = s.dbg := rfl
@[simp] theorem State.modTask_answered (s : State) (g : Gtid) (h : Task → Task) : (s.modTask g h).answered = s.answered := rfl
@[simp] theorem State.modTask_agenda (s : State) (g : Gtid) (h : Task → Task) : (s.modTask g h).agenda = s.agenda := rfl
@[simp] theorem State.modTask_cycle (s : State) (g : Gtid) (h : Task → Task) : (s.modTask g h).cycle = s.cycle := rfl
@[simp] theorem State.modTask_dcc (s : State) (g : Gtid) (h : Task → Task) : (s.modTask g h).dcc = s.dcc := rfl
@[simp] theorem State.modTask_dccAcc (s : State) (g : Gtid) (h : Task → Task) : (s.modTask g h).dccAcc = s.dccAcc := rfl
@[simp] theorem State.modTask_free (s : State) (g : Gtid) (h : Task → Task) : (s.modTask g h).free = s.free := rfl

@[simp] theorem State.setShare_tasks (s : State) (g : Gtid) (c : Nat) (x : Share) : (s.setShare g c x).tasks = s.tasks := rfl
@[simp] theorem State.setShare_mem (s : State) (g : Gtid) (c : Nat) (x : Share) : (s.setShare g c x).mem = s.mem := rfl
@[simp] theorem State.setShare_tags (s : State) (g : Gtid) (c : Nat) (x : Share) : (s.setShare g c x).tags = s.tags := rfl
@[simp] theorem State.setShare_regs (s : State) (g : Gtid) (c : Nat) (x : Share) : (s.setShare g c x).regs = s.regs := rfl
@[simp] theorem State.setShare_lines (s : State) (g : Gtid) (c : Nat) (x : Share) : (s.setShare g c x).lines = s.lines := rfl
@[simp] theorem State.setShare_lruClock (s : State) (g : Gtid) (c : Nat) (x : Share) : (s.setShare g c x).lruClock = s.lruClock := rfl
@[simp] theorem State.setShare_l1d (s : State) (g : Gtid) (c : Nat) (x : Share) : (s.setShare g c x).l1d = s.l1d := rfl
@[simp] theorem State.setShare_tlbs (s : State) (g : Gtid) (c : Nat) (x : Share) : (s.setShare g c x).tlbs = s.tlbs := rfl
@[simp] theorem State.setShare_queues (s : State) (g : Gtid) (c : Nat) (x : Share) : (s.setShare g c x).queues = s.queues := rfl
@[simp] theorem State.setShare_bcQueues (s : State) (g : Gtid) (c : Nat) (x : Share) : (s.setShare g c x).bcQueues = s.bcQueues := rfl
@[simp] theorem State.setShare_nets (s : State) (g : Gtid) (c : Nat) (x : Share) : (s.setShare g c x).nets = s.nets := rfl
@[simp] theorem State.setShare_bridges (s : State) (g : Gtid) (c : Nat) (x : Share) : (s.setShare g c x).bridges = s.bridges := rfl
@[simp] theorem State.setShare_nextReq (s : State) (g : Gtid) (c : Nat) (x : Share) : (s.setShare g c x).nextReq = s.nextReq := rfl
@[simp] theorem State.setShare_icache (s : State) (g : Gtid) (c : Nat) (x : Share) : (s.setShare g c x).icache = s.icache := rfl
@[simp] theorem State.setShare_waits (s : State) (g : Gtid) (c : Nat) (x : Share) : (s.setShare g c x).waits = s.waits := rfl
@[simp] theorem State.setShare_replies (s : State) (g : Gtid) (c : Nat) (x : Share) : (s.setShare g c x).replies = s.replies := rfl
@[simp] theorem State.setShare_flips (s : State) (g : Gtid) (c : Nat) (x : Share) : (s.setShare g c x).flips = s.flips := rfl
@[simp] theorem State.setShare_trackers (s : State) (g : Gtid) (c : Nat) (x : Share) : (s.setShare g c x).trackers = s.trackers := rfl
@[simp] theorem State.setShare_ringLost (s : State) (g : Gtid) (c : Nat) (x : Share) : (s.setShare g c x).ringLost = s.ringLost := rfl
@[simp] theorem State.setShare_slcLast (s : State) (g : Gtid) (c : Nat) (x : Share) : (s.setShare g c x).slcLast = s.slcLast := rfl
@[simp] theorem State.setShare_slcClr (s : State) (g : Gtid) (c : Nat) (x : Share) : (s.setShare g c x).slcClr = s.slcClr := rfl
@[simp] theorem State.setShare_scrubAt (s : State) (g : Gtid) (c : Nat) (x : Share) : (s.setShare g c x).scrubAt = s.scrubAt := rfl
@[simp] theorem State.setShare_fab (s : State) (g : Gtid) (c : Nat) (x : Share) : (s.setShare g c x).fab = s.fab := rfl
@[simp] theorem State.setShare_coll (s : State) (g : Gtid) (c : Nat) (x : Share) : (s.setShare g c x).coll = s.coll := rfl
@[simp] theorem State.setShare_sched (s : State) (g : Gtid) (c : Nat) (x : Share) : (s.setShare g c x).sched = s.sched := rfl
@[simp] theorem State.setShare_xch (s : State) (g : Gtid) (c : Nat) (x : Share) : (s.setShare g c x).xch = s.xch := rfl
@[simp] theorem State.setShare_bcVec (s : State) (g : Gtid) (c : Nat) (x : Share) : (s.setShare g c x).bcVec = s.bcVec := rfl
@[simp] theorem State.setShare_spBusy (s : State) (g : Gtid) (c : Nat) (x : Share) : (s.setShare g c x).spBusy = s.spBusy := rfl
@[simp] theorem State.setShare_spClaims (s : State) (g : Gtid) (c : Nat) (x : Share) : (s.setShare g c x).spClaims = s.spClaims := rfl
@[simp] theorem State.setShare_bcDiv (s : State) (g : Gtid) (c : Nat) (x : Share) : (s.setShare g c x).bcDiv = s.bcDiv := rfl
@[simp] theorem State.setShare_vDests (s : State) (g : Gtid) (c : Nat) (x : Share) : (s.setShare g c x).vDests = s.vDests := rfl
@[simp] theorem State.setShare_cur (s : State) (g : Gtid) (c : Nat) (x : Share) : (s.setShare g c x).cur = s.cur := rfl
@[simp] theorem State.setShare_curAddr (s : State) (g : Gtid) (c : Nat) (x : Share) : (s.setShare g c x).curAddr = s.curAddr := rfl
@[simp] theorem State.setShare_curE (s : State) (g : Gtid) (c : Nat) (x : Share) : (s.setShare g c x).curE = s.curE := rfl
@[simp] theorem State.setShare_curV (s : State) (g : Gtid) (c : Nat) (x : Share) : (s.setShare g c x).curV = s.curV := rfl
@[simp] theorem State.setShare_snap (s : State) (g : Gtid) (c : Nat) (x : Share) : (s.setShare g c x).snap = s.snap := rfl
@[simp] theorem State.setShare_carried (s : State) (g : Gtid) (c : Nat) (x : Share) : (s.setShare g c x).carried = s.carried := rfl
@[simp] theorem State.setShare_raised (s : State) (g : Gtid) (c : Nat) (x : Share) : (s.setShare g c x).raised = s.raised := rfl
@[simp] theorem State.setShare_flagAcc (s : State) (g : Gtid) (c : Nat) (x : Share) : (s.setShare g c x).flagAcc = s.flagAcc := rfl
@[simp] theorem State.setShare_pending (s : State) (g : Gtid) (c : Nat) (x : Share) : (s.setShare g c x).pending = s.pending := rfl
@[simp] theorem State.setShare_syscs (s : State) (g : Gtid) (c : Nat) (x : Share) : (s.setShare g c x).syscs = s.syscs := rfl
@[simp] theorem State.setShare_faultPend (s : State) (g : Gtid) (c : Nat) (x : Share) : (s.setShare g c x).faultPend = s.faultPend := rfl
@[simp] theorem State.setShare_faultOut (s : State) (g : Gtid) (c : Nat) (x : Share) : (s.setShare g c x).faultOut = s.faultOut := rfl
@[simp] theorem State.setShare_faultHeld (s : State) (g : Gtid) (c : Nat) (x : Share) : (s.setShare g c x).faultHeld = s.faultHeld := rfl
@[simp] theorem State.setShare_sec (s : State) (g : Gtid) (c : Nat) (x : Share) : (s.setShare g c x).sec = s.sec := rfl
@[simp] theorem State.setShare_ldr (s : State) (g : Gtid) (c : Nat) (x : Share) : (s.setShare g c x).ldr = s.ldr := rfl
@[simp] theorem State.setShare_pow (s : State) (g : Gtid) (c : Nat) (x : Share) : (s.setShare g c x).pow = s.pow := rfl
@[simp] theorem State.setShare_dbg (s : State) (g : Gtid) (c : Nat) (x : Share) : (s.setShare g c x).dbg = s.dbg := rfl
@[simp] theorem State.setShare_answered (s : State) (g : Gtid) (c : Nat) (x : Share) : (s.setShare g c x).answered = s.answered := rfl
@[simp] theorem State.setShare_agenda (s : State) (g : Gtid) (c : Nat) (x : Share) : (s.setShare g c x).agenda = s.agenda := rfl
@[simp] theorem State.setShare_cycle (s : State) (g : Gtid) (c : Nat) (x : Share) : (s.setShare g c x).cycle = s.cycle := rfl
@[simp] theorem State.setShare_dcc (s : State) (g : Gtid) (c : Nat) (x : Share) : (s.setShare g c x).dcc = s.dcc := rfl
@[simp] theorem State.setShare_dccAcc (s : State) (g : Gtid) (c : Nat) (x : Share) : (s.setShare g c x).dccAcc = s.dccAcc := rfl
@[simp] theorem State.setShare_free (s : State) (g : Gtid) (c : Nat) (x : Share) : (s.setShare g c x).free = s.free := rfl

@[simp] theorem State.modShare_tasks (s : State) (g : Gtid) (c : Nat) (h : Share → Share) : (s.modShare g c h).tasks = s.tasks := rfl
@[simp] theorem State.modShare_mem (s : State) (g : Gtid) (c : Nat) (h : Share → Share) : (s.modShare g c h).mem = s.mem := rfl
@[simp] theorem State.modShare_tags (s : State) (g : Gtid) (c : Nat) (h : Share → Share) : (s.modShare g c h).tags = s.tags := rfl
@[simp] theorem State.modShare_regs (s : State) (g : Gtid) (c : Nat) (h : Share → Share) : (s.modShare g c h).regs = s.regs := rfl
@[simp] theorem State.modShare_lines (s : State) (g : Gtid) (c : Nat) (h : Share → Share) : (s.modShare g c h).lines = s.lines := rfl
@[simp] theorem State.modShare_lruClock (s : State) (g : Gtid) (c : Nat) (h : Share → Share) : (s.modShare g c h).lruClock = s.lruClock := rfl
@[simp] theorem State.modShare_l1d (s : State) (g : Gtid) (c : Nat) (h : Share → Share) : (s.modShare g c h).l1d = s.l1d := rfl
@[simp] theorem State.modShare_tlbs (s : State) (g : Gtid) (c : Nat) (h : Share → Share) : (s.modShare g c h).tlbs = s.tlbs := rfl
@[simp] theorem State.modShare_queues (s : State) (g : Gtid) (c : Nat) (h : Share → Share) : (s.modShare g c h).queues = s.queues := rfl
@[simp] theorem State.modShare_bcQueues (s : State) (g : Gtid) (c : Nat) (h : Share → Share) : (s.modShare g c h).bcQueues = s.bcQueues := rfl
@[simp] theorem State.modShare_nets (s : State) (g : Gtid) (c : Nat) (h : Share → Share) : (s.modShare g c h).nets = s.nets := rfl
@[simp] theorem State.modShare_bridges (s : State) (g : Gtid) (c : Nat) (h : Share → Share) : (s.modShare g c h).bridges = s.bridges := rfl
@[simp] theorem State.modShare_nextReq (s : State) (g : Gtid) (c : Nat) (h : Share → Share) : (s.modShare g c h).nextReq = s.nextReq := rfl
@[simp] theorem State.modShare_icache (s : State) (g : Gtid) (c : Nat) (h : Share → Share) : (s.modShare g c h).icache = s.icache := rfl
@[simp] theorem State.modShare_waits (s : State) (g : Gtid) (c : Nat) (h : Share → Share) : (s.modShare g c h).waits = s.waits := rfl
@[simp] theorem State.modShare_replies (s : State) (g : Gtid) (c : Nat) (h : Share → Share) : (s.modShare g c h).replies = s.replies := rfl
@[simp] theorem State.modShare_flips (s : State) (g : Gtid) (c : Nat) (h : Share → Share) : (s.modShare g c h).flips = s.flips := rfl
@[simp] theorem State.modShare_trackers (s : State) (g : Gtid) (c : Nat) (h : Share → Share) : (s.modShare g c h).trackers = s.trackers := rfl
@[simp] theorem State.modShare_ringLost (s : State) (g : Gtid) (c : Nat) (h : Share → Share) : (s.modShare g c h).ringLost = s.ringLost := rfl
@[simp] theorem State.modShare_slcLast (s : State) (g : Gtid) (c : Nat) (h : Share → Share) : (s.modShare g c h).slcLast = s.slcLast := rfl
@[simp] theorem State.modShare_slcClr (s : State) (g : Gtid) (c : Nat) (h : Share → Share) : (s.modShare g c h).slcClr = s.slcClr := rfl
@[simp] theorem State.modShare_scrubAt (s : State) (g : Gtid) (c : Nat) (h : Share → Share) : (s.modShare g c h).scrubAt = s.scrubAt := rfl
@[simp] theorem State.modShare_fab (s : State) (g : Gtid) (c : Nat) (h : Share → Share) : (s.modShare g c h).fab = s.fab := rfl
@[simp] theorem State.modShare_coll (s : State) (g : Gtid) (c : Nat) (h : Share → Share) : (s.modShare g c h).coll = s.coll := rfl
@[simp] theorem State.modShare_sched (s : State) (g : Gtid) (c : Nat) (h : Share → Share) : (s.modShare g c h).sched = s.sched := rfl
@[simp] theorem State.modShare_xch (s : State) (g : Gtid) (c : Nat) (h : Share → Share) : (s.modShare g c h).xch = s.xch := rfl
@[simp] theorem State.modShare_bcVec (s : State) (g : Gtid) (c : Nat) (h : Share → Share) : (s.modShare g c h).bcVec = s.bcVec := rfl
@[simp] theorem State.modShare_spBusy (s : State) (g : Gtid) (c : Nat) (h : Share → Share) : (s.modShare g c h).spBusy = s.spBusy := rfl
@[simp] theorem State.modShare_spClaims (s : State) (g : Gtid) (c : Nat) (h : Share → Share) : (s.modShare g c h).spClaims = s.spClaims := rfl
@[simp] theorem State.modShare_bcDiv (s : State) (g : Gtid) (c : Nat) (h : Share → Share) : (s.modShare g c h).bcDiv = s.bcDiv := rfl
@[simp] theorem State.modShare_vDests (s : State) (g : Gtid) (c : Nat) (h : Share → Share) : (s.modShare g c h).vDests = s.vDests := rfl
@[simp] theorem State.modShare_cur (s : State) (g : Gtid) (c : Nat) (h : Share → Share) : (s.modShare g c h).cur = s.cur := rfl
@[simp] theorem State.modShare_curAddr (s : State) (g : Gtid) (c : Nat) (h : Share → Share) : (s.modShare g c h).curAddr = s.curAddr := rfl
@[simp] theorem State.modShare_curE (s : State) (g : Gtid) (c : Nat) (h : Share → Share) : (s.modShare g c h).curE = s.curE := rfl
@[simp] theorem State.modShare_curV (s : State) (g : Gtid) (c : Nat) (h : Share → Share) : (s.modShare g c h).curV = s.curV := rfl
@[simp] theorem State.modShare_snap (s : State) (g : Gtid) (c : Nat) (h : Share → Share) : (s.modShare g c h).snap = s.snap := rfl
@[simp] theorem State.modShare_carried (s : State) (g : Gtid) (c : Nat) (h : Share → Share) : (s.modShare g c h).carried = s.carried := rfl
@[simp] theorem State.modShare_raised (s : State) (g : Gtid) (c : Nat) (h : Share → Share) : (s.modShare g c h).raised = s.raised := rfl
@[simp] theorem State.modShare_flagAcc (s : State) (g : Gtid) (c : Nat) (h : Share → Share) : (s.modShare g c h).flagAcc = s.flagAcc := rfl
@[simp] theorem State.modShare_pending (s : State) (g : Gtid) (c : Nat) (h : Share → Share) : (s.modShare g c h).pending = s.pending := rfl
@[simp] theorem State.modShare_syscs (s : State) (g : Gtid) (c : Nat) (h : Share → Share) : (s.modShare g c h).syscs = s.syscs := rfl
@[simp] theorem State.modShare_faultPend (s : State) (g : Gtid) (c : Nat) (h : Share → Share) : (s.modShare g c h).faultPend = s.faultPend := rfl
@[simp] theorem State.modShare_faultOut (s : State) (g : Gtid) (c : Nat) (h : Share → Share) : (s.modShare g c h).faultOut = s.faultOut := rfl
@[simp] theorem State.modShare_faultHeld (s : State) (g : Gtid) (c : Nat) (h : Share → Share) : (s.modShare g c h).faultHeld = s.faultHeld := rfl
@[simp] theorem State.modShare_sec (s : State) (g : Gtid) (c : Nat) (h : Share → Share) : (s.modShare g c h).sec = s.sec := rfl
@[simp] theorem State.modShare_ldr (s : State) (g : Gtid) (c : Nat) (h : Share → Share) : (s.modShare g c h).ldr = s.ldr := rfl
@[simp] theorem State.modShare_pow (s : State) (g : Gtid) (c : Nat) (h : Share → Share) : (s.modShare g c h).pow = s.pow := rfl
@[simp] theorem State.modShare_dbg (s : State) (g : Gtid) (c : Nat) (h : Share → Share) : (s.modShare g c h).dbg = s.dbg := rfl
@[simp] theorem State.modShare_answered (s : State) (g : Gtid) (c : Nat) (h : Share → Share) : (s.modShare g c h).answered = s.answered := rfl
@[simp] theorem State.modShare_agenda (s : State) (g : Gtid) (c : Nat) (h : Share → Share) : (s.modShare g c h).agenda = s.agenda := rfl
@[simp] theorem State.modShare_cycle (s : State) (g : Gtid) (c : Nat) (h : Share → Share) : (s.modShare g c h).cycle = s.cycle := rfl
@[simp] theorem State.modShare_dcc (s : State) (g : Gtid) (c : Nat) (h : Share → Share) : (s.modShare g c h).dcc = s.dcc := rfl
@[simp] theorem State.modShare_dccAcc (s : State) (g : Gtid) (c : Nat) (h : Share → Share) : (s.modShare g c h).dccAcc = s.dccAcc := rfl
@[simp] theorem State.modShare_free (s : State) (g : Gtid) (c : Nat) (h : Share → Share) : (s.modShare g c h).free = s.free := rfl

@[simp] theorem State.modCurTask_shares (s : State) (h : Task → Task) : (s.modCurTask h).shares = s.shares := rfl
@[simp] theorem State.modCurTask_mem (s : State) (h : Task → Task) : (s.modCurTask h).mem = s.mem := rfl
@[simp] theorem State.modCurTask_tags (s : State) (h : Task → Task) : (s.modCurTask h).tags = s.tags := rfl
@[simp] theorem State.modCurTask_regs (s : State) (h : Task → Task) : (s.modCurTask h).regs = s.regs := rfl
@[simp] theorem State.modCurTask_lines (s : State) (h : Task → Task) : (s.modCurTask h).lines = s.lines := rfl
@[simp] theorem State.modCurTask_lruClock (s : State) (h : Task → Task) : (s.modCurTask h).lruClock = s.lruClock := rfl
@[simp] theorem State.modCurTask_l1d (s : State) (h : Task → Task) : (s.modCurTask h).l1d = s.l1d := rfl
@[simp] theorem State.modCurTask_tlbs (s : State) (h : Task → Task) : (s.modCurTask h).tlbs = s.tlbs := rfl
@[simp] theorem State.modCurTask_queues (s : State) (h : Task → Task) : (s.modCurTask h).queues = s.queues := rfl
@[simp] theorem State.modCurTask_bcQueues (s : State) (h : Task → Task) : (s.modCurTask h).bcQueues = s.bcQueues := rfl
@[simp] theorem State.modCurTask_nets (s : State) (h : Task → Task) : (s.modCurTask h).nets = s.nets := rfl
@[simp] theorem State.modCurTask_bridges (s : State) (h : Task → Task) : (s.modCurTask h).bridges = s.bridges := rfl
@[simp] theorem State.modCurTask_nextReq (s : State) (h : Task → Task) : (s.modCurTask h).nextReq = s.nextReq := rfl
@[simp] theorem State.modCurTask_icache (s : State) (h : Task → Task) : (s.modCurTask h).icache = s.icache := rfl
@[simp] theorem State.modCurTask_waits (s : State) (h : Task → Task) : (s.modCurTask h).waits = s.waits := rfl
@[simp] theorem State.modCurTask_replies (s : State) (h : Task → Task) : (s.modCurTask h).replies = s.replies := rfl
@[simp] theorem State.modCurTask_flips (s : State) (h : Task → Task) : (s.modCurTask h).flips = s.flips := rfl
@[simp] theorem State.modCurTask_trackers (s : State) (h : Task → Task) : (s.modCurTask h).trackers = s.trackers := rfl
@[simp] theorem State.modCurTask_ringLost (s : State) (h : Task → Task) : (s.modCurTask h).ringLost = s.ringLost := rfl
@[simp] theorem State.modCurTask_slcLast (s : State) (h : Task → Task) : (s.modCurTask h).slcLast = s.slcLast := rfl
@[simp] theorem State.modCurTask_slcClr (s : State) (h : Task → Task) : (s.modCurTask h).slcClr = s.slcClr := rfl
@[simp] theorem State.modCurTask_scrubAt (s : State) (h : Task → Task) : (s.modCurTask h).scrubAt = s.scrubAt := rfl
@[simp] theorem State.modCurTask_fab (s : State) (h : Task → Task) : (s.modCurTask h).fab = s.fab := rfl
@[simp] theorem State.modCurTask_coll (s : State) (h : Task → Task) : (s.modCurTask h).coll = s.coll := rfl
@[simp] theorem State.modCurTask_sched (s : State) (h : Task → Task) : (s.modCurTask h).sched = s.sched := rfl
@[simp] theorem State.modCurTask_xch (s : State) (h : Task → Task) : (s.modCurTask h).xch = s.xch := rfl
@[simp] theorem State.modCurTask_bcVec (s : State) (h : Task → Task) : (s.modCurTask h).bcVec = s.bcVec := rfl
@[simp] theorem State.modCurTask_spBusy (s : State) (h : Task → Task) : (s.modCurTask h).spBusy = s.spBusy := rfl
@[simp] theorem State.modCurTask_spClaims (s : State) (h : Task → Task) : (s.modCurTask h).spClaims = s.spClaims := rfl
@[simp] theorem State.modCurTask_bcDiv (s : State) (h : Task → Task) : (s.modCurTask h).bcDiv = s.bcDiv := rfl
@[simp] theorem State.modCurTask_vDests (s : State) (h : Task → Task) : (s.modCurTask h).vDests = s.vDests := rfl
@[simp] theorem State.modCurTask_cur (s : State) (h : Task → Task) : (s.modCurTask h).cur = s.cur := rfl
@[simp] theorem State.modCurTask_curAddr (s : State) (h : Task → Task) : (s.modCurTask h).curAddr = s.curAddr := rfl
@[simp] theorem State.modCurTask_curE (s : State) (h : Task → Task) : (s.modCurTask h).curE = s.curE := rfl
@[simp] theorem State.modCurTask_curV (s : State) (h : Task → Task) : (s.modCurTask h).curV = s.curV := rfl
@[simp] theorem State.modCurTask_snap (s : State) (h : Task → Task) : (s.modCurTask h).snap = s.snap := rfl
@[simp] theorem State.modCurTask_carried (s : State) (h : Task → Task) : (s.modCurTask h).carried = s.carried := rfl
@[simp] theorem State.modCurTask_raised (s : State) (h : Task → Task) : (s.modCurTask h).raised = s.raised := rfl
@[simp] theorem State.modCurTask_flagAcc (s : State) (h : Task → Task) : (s.modCurTask h).flagAcc = s.flagAcc := rfl
@[simp] theorem State.modCurTask_pending (s : State) (h : Task → Task) : (s.modCurTask h).pending = s.pending := rfl
@[simp] theorem State.modCurTask_syscs (s : State) (h : Task → Task) : (s.modCurTask h).syscs = s.syscs := rfl
@[simp] theorem State.modCurTask_faultPend (s : State) (h : Task → Task) : (s.modCurTask h).faultPend = s.faultPend := rfl
@[simp] theorem State.modCurTask_faultOut (s : State) (h : Task → Task) : (s.modCurTask h).faultOut = s.faultOut := rfl
@[simp] theorem State.modCurTask_faultHeld (s : State) (h : Task → Task) : (s.modCurTask h).faultHeld = s.faultHeld := rfl
@[simp] theorem State.modCurTask_sec (s : State) (h : Task → Task) : (s.modCurTask h).sec = s.sec := rfl
@[simp] theorem State.modCurTask_ldr (s : State) (h : Task → Task) : (s.modCurTask h).ldr = s.ldr := rfl
@[simp] theorem State.modCurTask_pow (s : State) (h : Task → Task) : (s.modCurTask h).pow = s.pow := rfl
@[simp] theorem State.modCurTask_dbg (s : State) (h : Task → Task) : (s.modCurTask h).dbg = s.dbg := rfl
@[simp] theorem State.modCurTask_answered (s : State) (h : Task → Task) : (s.modCurTask h).answered = s.answered := rfl
@[simp] theorem State.modCurTask_agenda (s : State) (h : Task → Task) : (s.modCurTask h).agenda = s.agenda := rfl
@[simp] theorem State.modCurTask_cycle (s : State) (h : Task → Task) : (s.modCurTask h).cycle = s.cycle := rfl
@[simp] theorem State.modCurTask_dcc (s : State) (h : Task → Task) : (s.modCurTask h).dcc = s.dcc := rfl
@[simp] theorem State.modCurTask_dccAcc (s : State) (h : Task → Task) : (s.modCurTask h).dccAcc = s.dccAcc := rfl
@[simp] theorem State.modCurTask_free (s : State) (h : Task → Task) : (s.modCurTask h).free = s.free := rfl

@[simp] theorem State.modCurShare_tasks (s : State) (h : Share → Share) : (s.modCurShare h).tasks = s.tasks := rfl
@[simp] theorem State.modCurShare_mem (s : State) (h : Share → Share) : (s.modCurShare h).mem = s.mem := rfl
@[simp] theorem State.modCurShare_tags (s : State) (h : Share → Share) : (s.modCurShare h).tags = s.tags := rfl
@[simp] theorem State.modCurShare_regs (s : State) (h : Share → Share) : (s.modCurShare h).regs = s.regs := rfl
@[simp] theorem State.modCurShare_lines (s : State) (h : Share → Share) : (s.modCurShare h).lines = s.lines := rfl
@[simp] theorem State.modCurShare_lruClock (s : State) (h : Share → Share) : (s.modCurShare h).lruClock = s.lruClock := rfl
@[simp] theorem State.modCurShare_l1d (s : State) (h : Share → Share) : (s.modCurShare h).l1d = s.l1d := rfl
@[simp] theorem State.modCurShare_tlbs (s : State) (h : Share → Share) : (s.modCurShare h).tlbs = s.tlbs := rfl
@[simp] theorem State.modCurShare_queues (s : State) (h : Share → Share) : (s.modCurShare h).queues = s.queues := rfl
@[simp] theorem State.modCurShare_bcQueues (s : State) (h : Share → Share) : (s.modCurShare h).bcQueues = s.bcQueues := rfl
@[simp] theorem State.modCurShare_nets (s : State) (h : Share → Share) : (s.modCurShare h).nets = s.nets := rfl
@[simp] theorem State.modCurShare_bridges (s : State) (h : Share → Share) : (s.modCurShare h).bridges = s.bridges := rfl
@[simp] theorem State.modCurShare_nextReq (s : State) (h : Share → Share) : (s.modCurShare h).nextReq = s.nextReq := rfl
@[simp] theorem State.modCurShare_icache (s : State) (h : Share → Share) : (s.modCurShare h).icache = s.icache := rfl
@[simp] theorem State.modCurShare_waits (s : State) (h : Share → Share) : (s.modCurShare h).waits = s.waits := rfl
@[simp] theorem State.modCurShare_replies (s : State) (h : Share → Share) : (s.modCurShare h).replies = s.replies := rfl
@[simp] theorem State.modCurShare_flips (s : State) (h : Share → Share) : (s.modCurShare h).flips = s.flips := rfl
@[simp] theorem State.modCurShare_trackers (s : State) (h : Share → Share) : (s.modCurShare h).trackers = s.trackers := rfl
@[simp] theorem State.modCurShare_ringLost (s : State) (h : Share → Share) : (s.modCurShare h).ringLost = s.ringLost := rfl
@[simp] theorem State.modCurShare_slcLast (s : State) (h : Share → Share) : (s.modCurShare h).slcLast = s.slcLast := rfl
@[simp] theorem State.modCurShare_slcClr (s : State) (h : Share → Share) : (s.modCurShare h).slcClr = s.slcClr := rfl
@[simp] theorem State.modCurShare_scrubAt (s : State) (h : Share → Share) : (s.modCurShare h).scrubAt = s.scrubAt := rfl
@[simp] theorem State.modCurShare_fab (s : State) (h : Share → Share) : (s.modCurShare h).fab = s.fab := rfl
@[simp] theorem State.modCurShare_coll (s : State) (h : Share → Share) : (s.modCurShare h).coll = s.coll := rfl
@[simp] theorem State.modCurShare_sched (s : State) (h : Share → Share) : (s.modCurShare h).sched = s.sched := rfl
@[simp] theorem State.modCurShare_xch (s : State) (h : Share → Share) : (s.modCurShare h).xch = s.xch := rfl
@[simp] theorem State.modCurShare_bcVec (s : State) (h : Share → Share) : (s.modCurShare h).bcVec = s.bcVec := rfl
@[simp] theorem State.modCurShare_spBusy (s : State) (h : Share → Share) : (s.modCurShare h).spBusy = s.spBusy := rfl
@[simp] theorem State.modCurShare_spClaims (s : State) (h : Share → Share) : (s.modCurShare h).spClaims = s.spClaims := rfl
@[simp] theorem State.modCurShare_bcDiv (s : State) (h : Share → Share) : (s.modCurShare h).bcDiv = s.bcDiv := rfl
@[simp] theorem State.modCurShare_vDests (s : State) (h : Share → Share) : (s.modCurShare h).vDests = s.vDests := rfl
@[simp] theorem State.modCurShare_cur (s : State) (h : Share → Share) : (s.modCurShare h).cur = s.cur := rfl
@[simp] theorem State.modCurShare_curAddr (s : State) (h : Share → Share) : (s.modCurShare h).curAddr = s.curAddr := rfl
@[simp] theorem State.modCurShare_curE (s : State) (h : Share → Share) : (s.modCurShare h).curE = s.curE := rfl
@[simp] theorem State.modCurShare_curV (s : State) (h : Share → Share) : (s.modCurShare h).curV = s.curV := rfl
@[simp] theorem State.modCurShare_snap (s : State) (h : Share → Share) : (s.modCurShare h).snap = s.snap := rfl
@[simp] theorem State.modCurShare_carried (s : State) (h : Share → Share) : (s.modCurShare h).carried = s.carried := rfl
@[simp] theorem State.modCurShare_raised (s : State) (h : Share → Share) : (s.modCurShare h).raised = s.raised := rfl
@[simp] theorem State.modCurShare_flagAcc (s : State) (h : Share → Share) : (s.modCurShare h).flagAcc = s.flagAcc := rfl
@[simp] theorem State.modCurShare_pending (s : State) (h : Share → Share) : (s.modCurShare h).pending = s.pending := rfl
@[simp] theorem State.modCurShare_syscs (s : State) (h : Share → Share) : (s.modCurShare h).syscs = s.syscs := rfl
@[simp] theorem State.modCurShare_faultPend (s : State) (h : Share → Share) : (s.modCurShare h).faultPend = s.faultPend := rfl
@[simp] theorem State.modCurShare_faultOut (s : State) (h : Share → Share) : (s.modCurShare h).faultOut = s.faultOut := rfl
@[simp] theorem State.modCurShare_faultHeld (s : State) (h : Share → Share) : (s.modCurShare h).faultHeld = s.faultHeld := rfl
@[simp] theorem State.modCurShare_sec (s : State) (h : Share → Share) : (s.modCurShare h).sec = s.sec := rfl
@[simp] theorem State.modCurShare_ldr (s : State) (h : Share → Share) : (s.modCurShare h).ldr = s.ldr := rfl
@[simp] theorem State.modCurShare_pow (s : State) (h : Share → Share) : (s.modCurShare h).pow = s.pow := rfl
@[simp] theorem State.modCurShare_dbg (s : State) (h : Share → Share) : (s.modCurShare h).dbg = s.dbg := rfl
@[simp] theorem State.modCurShare_answered (s : State) (h : Share → Share) : (s.modCurShare h).answered = s.answered := rfl
@[simp] theorem State.modCurShare_agenda (s : State) (h : Share → Share) : (s.modCurShare h).agenda = s.agenda := rfl
@[simp] theorem State.modCurShare_cycle (s : State) (h : Share → Share) : (s.modCurShare h).cycle = s.cycle := rfl
@[simp] theorem State.modCurShare_dcc (s : State) (h : Share → Share) : (s.modCurShare h).dcc = s.dcc := rfl
@[simp] theorem State.modCurShare_dccAcc (s : State) (h : Share → Share) : (s.modCurShare h).dccAcc = s.dccAcc := rfl
@[simp] theorem State.modCurShare_free (s : State) (h : Share → Share) : (s.modCurShare h).free = s.free := rfl

@[simp] theorem State.raise_tasks (s : State) (r : Raised) : (s.raise r).tasks = s.tasks := rfl
@[simp] theorem State.raise_shares (s : State) (r : Raised) : (s.raise r).shares = s.shares := rfl
@[simp] theorem State.raise_mem (s : State) (r : Raised) : (s.raise r).mem = s.mem := rfl
@[simp] theorem State.raise_tags (s : State) (r : Raised) : (s.raise r).tags = s.tags := rfl
@[simp] theorem State.raise_regs (s : State) (r : Raised) : (s.raise r).regs = s.regs := rfl
@[simp] theorem State.raise_lines (s : State) (r : Raised) : (s.raise r).lines = s.lines := rfl
@[simp] theorem State.raise_lruClock (s : State) (r : Raised) : (s.raise r).lruClock = s.lruClock := rfl
@[simp] theorem State.raise_l1d (s : State) (r : Raised) : (s.raise r).l1d = s.l1d := rfl
@[simp] theorem State.raise_tlbs (s : State) (r : Raised) : (s.raise r).tlbs = s.tlbs := rfl
@[simp] theorem State.raise_queues (s : State) (r : Raised) : (s.raise r).queues = s.queues := rfl
@[simp] theorem State.raise_bcQueues (s : State) (r : Raised) : (s.raise r).bcQueues = s.bcQueues := rfl
@[simp] theorem State.raise_nets (s : State) (r : Raised) : (s.raise r).nets = s.nets := rfl
@[simp] theorem State.raise_bridges (s : State) (r : Raised) : (s.raise r).bridges = s.bridges := rfl
@[simp] theorem State.raise_nextReq (s : State) (r : Raised) : (s.raise r).nextReq = s.nextReq := rfl
@[simp] theorem State.raise_icache (s : State) (r : Raised) : (s.raise r).icache = s.icache := rfl
@[simp] theorem State.raise_waits (s : State) (r : Raised) : (s.raise r).waits = s.waits := rfl
@[simp] theorem State.raise_replies (s : State) (r : Raised) : (s.raise r).replies = s.replies := rfl
@[simp] theorem State.raise_flips (s : State) (r : Raised) : (s.raise r).flips = s.flips := rfl
@[simp] theorem State.raise_trackers (s : State) (r : Raised) : (s.raise r).trackers = s.trackers := rfl
@[simp] theorem State.raise_ringLost (s : State) (r : Raised) : (s.raise r).ringLost = s.ringLost := rfl
@[simp] theorem State.raise_slcLast (s : State) (r : Raised) : (s.raise r).slcLast = s.slcLast := rfl
@[simp] theorem State.raise_slcClr (s : State) (r : Raised) : (s.raise r).slcClr = s.slcClr := rfl
@[simp] theorem State.raise_scrubAt (s : State) (r : Raised) : (s.raise r).scrubAt = s.scrubAt := rfl
@[simp] theorem State.raise_fab (s : State) (r : Raised) : (s.raise r).fab = s.fab := rfl
@[simp] theorem State.raise_coll (s : State) (r : Raised) : (s.raise r).coll = s.coll := rfl
@[simp] theorem State.raise_sched (s : State) (r : Raised) : (s.raise r).sched = s.sched := rfl
@[simp] theorem State.raise_xch (s : State) (r : Raised) : (s.raise r).xch = s.xch := rfl
@[simp] theorem State.raise_bcVec (s : State) (r : Raised) : (s.raise r).bcVec = s.bcVec := rfl
@[simp] theorem State.raise_spBusy (s : State) (r : Raised) : (s.raise r).spBusy = s.spBusy := rfl
@[simp] theorem State.raise_spClaims (s : State) (r : Raised) : (s.raise r).spClaims = s.spClaims := rfl
@[simp] theorem State.raise_bcDiv (s : State) (r : Raised) : (s.raise r).bcDiv = s.bcDiv := rfl
@[simp] theorem State.raise_vDests (s : State) (r : Raised) : (s.raise r).vDests = s.vDests := rfl
@[simp] theorem State.raise_cur (s : State) (r : Raised) : (s.raise r).cur = s.cur := rfl
@[simp] theorem State.raise_curAddr (s : State) (r : Raised) : (s.raise r).curAddr = s.curAddr := rfl
@[simp] theorem State.raise_curE (s : State) (r : Raised) : (s.raise r).curE = s.curE := rfl
@[simp] theorem State.raise_curV (s : State) (r : Raised) : (s.raise r).curV = s.curV := rfl
@[simp] theorem State.raise_snap (s : State) (r : Raised) : (s.raise r).snap = s.snap := rfl
@[simp] theorem State.raise_carried (s : State) (r : Raised) : (s.raise r).carried = s.carried := rfl
@[simp] theorem State.raise_flagAcc (s : State) (r : Raised) : (s.raise r).flagAcc = s.flagAcc := rfl
@[simp] theorem State.raise_pending (s : State) (r : Raised) : (s.raise r).pending = s.pending := rfl
@[simp] theorem State.raise_syscs (s : State) (r : Raised) : (s.raise r).syscs = s.syscs := rfl
@[simp] theorem State.raise_faultPend (s : State) (r : Raised) : (s.raise r).faultPend = s.faultPend := rfl
@[simp] theorem State.raise_faultOut (s : State) (r : Raised) : (s.raise r).faultOut = s.faultOut := rfl
@[simp] theorem State.raise_faultHeld (s : State) (r : Raised) : (s.raise r).faultHeld = s.faultHeld := rfl
@[simp] theorem State.raise_sec (s : State) (r : Raised) : (s.raise r).sec = s.sec := rfl
@[simp] theorem State.raise_ldr (s : State) (r : Raised) : (s.raise r).ldr = s.ldr := rfl
@[simp] theorem State.raise_pow (s : State) (r : Raised) : (s.raise r).pow = s.pow := rfl
@[simp] theorem State.raise_dbg (s : State) (r : Raised) : (s.raise r).dbg = s.dbg := rfl
@[simp] theorem State.raise_answered (s : State) (r : Raised) : (s.raise r).answered = s.answered := rfl
@[simp] theorem State.raise_agenda (s : State) (r : Raised) : (s.raise r).agenda = s.agenda := rfl
@[simp] theorem State.raise_cycle (s : State) (r : Raised) : (s.raise r).cycle = s.cycle := rfl
@[simp] theorem State.raise_dcc (s : State) (r : Raised) : (s.raise r).dcc = s.dcc := rfl
@[simp] theorem State.raise_dccAcc (s : State) (r : Raised) : (s.raise r).dccAcc = s.dccAcc := rfl
@[simp] theorem State.raise_free (s : State) (r : Raised) : (s.raise r).free = s.free := rfl

@[simp] theorem State.setReg_tasks (s : State) (pa : Nat) (v : Word) : (s.setReg pa v).tasks = s.tasks := rfl
@[simp] theorem State.setReg_shares (s : State) (pa : Nat) (v : Word) : (s.setReg pa v).shares = s.shares := rfl
@[simp] theorem State.setReg_mem (s : State) (pa : Nat) (v : Word) : (s.setReg pa v).mem = s.mem := rfl
@[simp] theorem State.setReg_tags (s : State) (pa : Nat) (v : Word) : (s.setReg pa v).tags = s.tags := rfl
@[simp] theorem State.setReg_lines (s : State) (pa : Nat) (v : Word) : (s.setReg pa v).lines = s.lines := rfl
@[simp] theorem State.setReg_lruClock (s : State) (pa : Nat) (v : Word) : (s.setReg pa v).lruClock = s.lruClock := rfl
@[simp] theorem State.setReg_l1d (s : State) (pa : Nat) (v : Word) : (s.setReg pa v).l1d = s.l1d := rfl
@[simp] theorem State.setReg_tlbs (s : State) (pa : Nat) (v : Word) : (s.setReg pa v).tlbs = s.tlbs := rfl
@[simp] theorem State.setReg_queues (s : State) (pa : Nat) (v : Word) : (s.setReg pa v).queues = s.queues := rfl
@[simp] theorem State.setReg_bcQueues (s : State) (pa : Nat) (v : Word) : (s.setReg pa v).bcQueues = s.bcQueues := rfl
@[simp] theorem State.setReg_nets (s : State) (pa : Nat) (v : Word) : (s.setReg pa v).nets = s.nets := rfl
@[simp] theorem State.setReg_bridges (s : State) (pa : Nat) (v : Word) : (s.setReg pa v).bridges = s.bridges := rfl
@[simp] theorem State.setReg_nextReq (s : State) (pa : Nat) (v : Word) : (s.setReg pa v).nextReq = s.nextReq := rfl
@[simp] theorem State.setReg_icache (s : State) (pa : Nat) (v : Word) : (s.setReg pa v).icache = s.icache := rfl
@[simp] theorem State.setReg_waits (s : State) (pa : Nat) (v : Word) : (s.setReg pa v).waits = s.waits := rfl
@[simp] theorem State.setReg_replies (s : State) (pa : Nat) (v : Word) : (s.setReg pa v).replies = s.replies := rfl
@[simp] theorem State.setReg_flips (s : State) (pa : Nat) (v : Word) : (s.setReg pa v).flips = s.flips := rfl
@[simp] theorem State.setReg_trackers (s : State) (pa : Nat) (v : Word) : (s.setReg pa v).trackers = s.trackers := rfl
@[simp] theorem State.setReg_ringLost (s : State) (pa : Nat) (v : Word) : (s.setReg pa v).ringLost = s.ringLost := rfl
@[simp] theorem State.setReg_slcLast (s : State) (pa : Nat) (v : Word) : (s.setReg pa v).slcLast = s.slcLast := rfl
@[simp] theorem State.setReg_slcClr (s : State) (pa : Nat) (v : Word) : (s.setReg pa v).slcClr = s.slcClr := rfl
@[simp] theorem State.setReg_scrubAt (s : State) (pa : Nat) (v : Word) : (s.setReg pa v).scrubAt = s.scrubAt := rfl
@[simp] theorem State.setReg_fab (s : State) (pa : Nat) (v : Word) : (s.setReg pa v).fab = s.fab := rfl
@[simp] theorem State.setReg_coll (s : State) (pa : Nat) (v : Word) : (s.setReg pa v).coll = s.coll := rfl
@[simp] theorem State.setReg_sched (s : State) (pa : Nat) (v : Word) : (s.setReg pa v).sched = s.sched := rfl
@[simp] theorem State.setReg_xch (s : State) (pa : Nat) (v : Word) : (s.setReg pa v).xch = s.xch := rfl
@[simp] theorem State.setReg_bcVec (s : State) (pa : Nat) (v : Word) : (s.setReg pa v).bcVec = s.bcVec := rfl
@[simp] theorem State.setReg_spBusy (s : State) (pa : Nat) (v : Word) : (s.setReg pa v).spBusy = s.spBusy := rfl
@[simp] theorem State.setReg_spClaims (s : State) (pa : Nat) (v : Word) : (s.setReg pa v).spClaims = s.spClaims := rfl
@[simp] theorem State.setReg_bcDiv (s : State) (pa : Nat) (v : Word) : (s.setReg pa v).bcDiv = s.bcDiv := rfl
@[simp] theorem State.setReg_vDests (s : State) (pa : Nat) (v : Word) : (s.setReg pa v).vDests = s.vDests := rfl
@[simp] theorem State.setReg_cur (s : State) (pa : Nat) (v : Word) : (s.setReg pa v).cur = s.cur := rfl
@[simp] theorem State.setReg_curAddr (s : State) (pa : Nat) (v : Word) : (s.setReg pa v).curAddr = s.curAddr := rfl
@[simp] theorem State.setReg_curE (s : State) (pa : Nat) (v : Word) : (s.setReg pa v).curE = s.curE := rfl
@[simp] theorem State.setReg_curV (s : State) (pa : Nat) (v : Word) : (s.setReg pa v).curV = s.curV := rfl
@[simp] theorem State.setReg_snap (s : State) (pa : Nat) (v : Word) : (s.setReg pa v).snap = s.snap := rfl
@[simp] theorem State.setReg_carried (s : State) (pa : Nat) (v : Word) : (s.setReg pa v).carried = s.carried := rfl
@[simp] theorem State.setReg_raised (s : State) (pa : Nat) (v : Word) : (s.setReg pa v).raised = s.raised := rfl
@[simp] theorem State.setReg_flagAcc (s : State) (pa : Nat) (v : Word) : (s.setReg pa v).flagAcc = s.flagAcc := rfl
@[simp] theorem State.setReg_pending (s : State) (pa : Nat) (v : Word) : (s.setReg pa v).pending = s.pending := rfl
@[simp] theorem State.setReg_syscs (s : State) (pa : Nat) (v : Word) : (s.setReg pa v).syscs = s.syscs := rfl
@[simp] theorem State.setReg_faultPend (s : State) (pa : Nat) (v : Word) : (s.setReg pa v).faultPend = s.faultPend := rfl
@[simp] theorem State.setReg_faultOut (s : State) (pa : Nat) (v : Word) : (s.setReg pa v).faultOut = s.faultOut := rfl
@[simp] theorem State.setReg_faultHeld (s : State) (pa : Nat) (v : Word) : (s.setReg pa v).faultHeld = s.faultHeld := rfl
@[simp] theorem State.setReg_sec (s : State) (pa : Nat) (v : Word) : (s.setReg pa v).sec = s.sec := rfl
@[simp] theorem State.setReg_ldr (s : State) (pa : Nat) (v : Word) : (s.setReg pa v).ldr = s.ldr := rfl
@[simp] theorem State.setReg_pow (s : State) (pa : Nat) (v : Word) : (s.setReg pa v).pow = s.pow := rfl
@[simp] theorem State.setReg_dbg (s : State) (pa : Nat) (v : Word) : (s.setReg pa v).dbg = s.dbg := rfl
@[simp] theorem State.setReg_answered (s : State) (pa : Nat) (v : Word) : (s.setReg pa v).answered = s.answered := rfl
@[simp] theorem State.setReg_agenda (s : State) (pa : Nat) (v : Word) : (s.setReg pa v).agenda = s.agenda := rfl
@[simp] theorem State.setReg_cycle (s : State) (pa : Nat) (v : Word) : (s.setReg pa v).cycle = s.cycle := rfl
@[simp] theorem State.setReg_dcc (s : State) (pa : Nat) (v : Word) : (s.setReg pa v).dcc = s.dcc := rfl
@[simp] theorem State.setReg_dccAcc (s : State) (pa : Nat) (v : Word) : (s.setReg pa v).dccAcc = s.dccAcc := rfl
@[simp] theorem State.setReg_free (s : State) (pa : Nat) (v : Word) : (s.setReg pa v).free = s.free := rfl

@[simp] theorem State.bumpReg_tasks (s : State) (pa : Nat) : (s.bumpReg pa).tasks = s.tasks := rfl
@[simp] theorem State.bumpReg_shares (s : State) (pa : Nat) : (s.bumpReg pa).shares = s.shares := rfl
@[simp] theorem State.bumpReg_mem (s : State) (pa : Nat) : (s.bumpReg pa).mem = s.mem := rfl
@[simp] theorem State.bumpReg_tags (s : State) (pa : Nat) : (s.bumpReg pa).tags = s.tags := rfl
@[simp] theorem State.bumpReg_lines (s : State) (pa : Nat) : (s.bumpReg pa).lines = s.lines := rfl
@[simp] theorem State.bumpReg_lruClock (s : State) (pa : Nat) : (s.bumpReg pa).lruClock = s.lruClock := rfl
@[simp] theorem State.bumpReg_l1d (s : State) (pa : Nat) : (s.bumpReg pa).l1d = s.l1d := rfl
@[simp] theorem State.bumpReg_tlbs (s : State) (pa : Nat) : (s.bumpReg pa).tlbs = s.tlbs := rfl
@[simp] theorem State.bumpReg_queues (s : State) (pa : Nat) : (s.bumpReg pa).queues = s.queues := rfl
@[simp] theorem State.bumpReg_bcQueues (s : State) (pa : Nat) : (s.bumpReg pa).bcQueues = s.bcQueues := rfl
@[simp] theorem State.bumpReg_nets (s : State) (pa : Nat) : (s.bumpReg pa).nets = s.nets := rfl
@[simp] theorem State.bumpReg_bridges (s : State) (pa : Nat) : (s.bumpReg pa).bridges = s.bridges := rfl
@[simp] theorem State.bumpReg_nextReq (s : State) (pa : Nat) : (s.bumpReg pa).nextReq = s.nextReq := rfl
@[simp] theorem State.bumpReg_icache (s : State) (pa : Nat) : (s.bumpReg pa).icache = s.icache := rfl
@[simp] theorem State.bumpReg_waits (s : State) (pa : Nat) : (s.bumpReg pa).waits = s.waits := rfl
@[simp] theorem State.bumpReg_replies (s : State) (pa : Nat) : (s.bumpReg pa).replies = s.replies := rfl
@[simp] theorem State.bumpReg_flips (s : State) (pa : Nat) : (s.bumpReg pa).flips = s.flips := rfl
@[simp] theorem State.bumpReg_trackers (s : State) (pa : Nat) : (s.bumpReg pa).trackers = s.trackers := rfl
@[simp] theorem State.bumpReg_ringLost (s : State) (pa : Nat) : (s.bumpReg pa).ringLost = s.ringLost := rfl
@[simp] theorem State.bumpReg_slcLast (s : State) (pa : Nat) : (s.bumpReg pa).slcLast = s.slcLast := rfl
@[simp] theorem State.bumpReg_slcClr (s : State) (pa : Nat) : (s.bumpReg pa).slcClr = s.slcClr := rfl
@[simp] theorem State.bumpReg_scrubAt (s : State) (pa : Nat) : (s.bumpReg pa).scrubAt = s.scrubAt := rfl
@[simp] theorem State.bumpReg_fab (s : State) (pa : Nat) : (s.bumpReg pa).fab = s.fab := rfl
@[simp] theorem State.bumpReg_coll (s : State) (pa : Nat) : (s.bumpReg pa).coll = s.coll := rfl
@[simp] theorem State.bumpReg_sched (s : State) (pa : Nat) : (s.bumpReg pa).sched = s.sched := rfl
@[simp] theorem State.bumpReg_xch (s : State) (pa : Nat) : (s.bumpReg pa).xch = s.xch := rfl
@[simp] theorem State.bumpReg_bcVec (s : State) (pa : Nat) : (s.bumpReg pa).bcVec = s.bcVec := rfl
@[simp] theorem State.bumpReg_spBusy (s : State) (pa : Nat) : (s.bumpReg pa).spBusy = s.spBusy := rfl
@[simp] theorem State.bumpReg_spClaims (s : State) (pa : Nat) : (s.bumpReg pa).spClaims = s.spClaims := rfl
@[simp] theorem State.bumpReg_bcDiv (s : State) (pa : Nat) : (s.bumpReg pa).bcDiv = s.bcDiv := rfl
@[simp] theorem State.bumpReg_vDests (s : State) (pa : Nat) : (s.bumpReg pa).vDests = s.vDests := rfl
@[simp] theorem State.bumpReg_cur (s : State) (pa : Nat) : (s.bumpReg pa).cur = s.cur := rfl
@[simp] theorem State.bumpReg_curAddr (s : State) (pa : Nat) : (s.bumpReg pa).curAddr = s.curAddr := rfl
@[simp] theorem State.bumpReg_curE (s : State) (pa : Nat) : (s.bumpReg pa).curE = s.curE := rfl
@[simp] theorem State.bumpReg_curV (s : State) (pa : Nat) : (s.bumpReg pa).curV = s.curV := rfl
@[simp] theorem State.bumpReg_snap (s : State) (pa : Nat) : (s.bumpReg pa).snap = s.snap := rfl
@[simp] theorem State.bumpReg_carried (s : State) (pa : Nat) : (s.bumpReg pa).carried = s.carried := rfl
@[simp] theorem State.bumpReg_raised (s : State) (pa : Nat) : (s.bumpReg pa).raised = s.raised := rfl
@[simp] theorem State.bumpReg_flagAcc (s : State) (pa : Nat) : (s.bumpReg pa).flagAcc = s.flagAcc := rfl
@[simp] theorem State.bumpReg_pending (s : State) (pa : Nat) : (s.bumpReg pa).pending = s.pending := rfl
@[simp] theorem State.bumpReg_syscs (s : State) (pa : Nat) : (s.bumpReg pa).syscs = s.syscs := rfl
@[simp] theorem State.bumpReg_faultPend (s : State) (pa : Nat) : (s.bumpReg pa).faultPend = s.faultPend := rfl
@[simp] theorem State.bumpReg_faultOut (s : State) (pa : Nat) : (s.bumpReg pa).faultOut = s.faultOut := rfl
@[simp] theorem State.bumpReg_faultHeld (s : State) (pa : Nat) : (s.bumpReg pa).faultHeld = s.faultHeld := rfl
@[simp] theorem State.bumpReg_sec (s : State) (pa : Nat) : (s.bumpReg pa).sec = s.sec := rfl
@[simp] theorem State.bumpReg_ldr (s : State) (pa : Nat) : (s.bumpReg pa).ldr = s.ldr := rfl
@[simp] theorem State.bumpReg_pow (s : State) (pa : Nat) : (s.bumpReg pa).pow = s.pow := rfl
@[simp] theorem State.bumpReg_dbg (s : State) (pa : Nat) : (s.bumpReg pa).dbg = s.dbg := rfl
@[simp] theorem State.bumpReg_answered (s : State) (pa : Nat) : (s.bumpReg pa).answered = s.answered := rfl
@[simp] theorem State.bumpReg_agenda (s : State) (pa : Nat) : (s.bumpReg pa).agenda = s.agenda := rfl
@[simp] theorem State.bumpReg_cycle (s : State) (pa : Nat) : (s.bumpReg pa).cycle = s.cycle := rfl
@[simp] theorem State.bumpReg_dcc (s : State) (pa : Nat) : (s.bumpReg pa).dcc = s.dcc := rfl
@[simp] theorem State.bumpReg_dccAcc (s : State) (pa : Nat) : (s.bumpReg pa).dccAcc = s.dccAcc := rfl
@[simp] theorem State.bumpReg_free (s : State) (pa : Nat) : (s.bumpReg pa).free = s.free := rfl

@[simp] theorem State.setMemByte_tasks (s : State) (pa : Nat) (b : Byte) : (s.setMemByte pa b).tasks = s.tasks := rfl
@[simp] theorem State.setMemByte_shares (s : State) (pa : Nat) (b : Byte) : (s.setMemByte pa b).shares = s.shares := rfl
@[simp] theorem State.setMemByte_tags (s : State) (pa : Nat) (b : Byte) : (s.setMemByte pa b).tags = s.tags := rfl
@[simp] theorem State.setMemByte_regs (s : State) (pa : Nat) (b : Byte) : (s.setMemByte pa b).regs = s.regs := rfl
@[simp] theorem State.setMemByte_lines (s : State) (pa : Nat) (b : Byte) : (s.setMemByte pa b).lines = s.lines := rfl
@[simp] theorem State.setMemByte_lruClock (s : State) (pa : Nat) (b : Byte) : (s.setMemByte pa b).lruClock = s.lruClock := rfl
@[simp] theorem State.setMemByte_l1d (s : State) (pa : Nat) (b : Byte) : (s.setMemByte pa b).l1d = s.l1d := rfl
@[simp] theorem State.setMemByte_tlbs (s : State) (pa : Nat) (b : Byte) : (s.setMemByte pa b).tlbs = s.tlbs := rfl
@[simp] theorem State.setMemByte_queues (s : State) (pa : Nat) (b : Byte) : (s.setMemByte pa b).queues = s.queues := rfl
@[simp] theorem State.setMemByte_bcQueues (s : State) (pa : Nat) (b : Byte) : (s.setMemByte pa b).bcQueues = s.bcQueues := rfl
@[simp] theorem State.setMemByte_nets (s : State) (pa : Nat) (b : Byte) : (s.setMemByte pa b).nets = s.nets := rfl
@[simp] theorem State.setMemByte_bridges (s : State) (pa : Nat) (b : Byte) : (s.setMemByte pa b).bridges = s.bridges := rfl
@[simp] theorem State.setMemByte_nextReq (s : State) (pa : Nat) (b : Byte) : (s.setMemByte pa b).nextReq = s.nextReq := rfl
@[simp] theorem State.setMemByte_icache (s : State) (pa : Nat) (b : Byte) : (s.setMemByte pa b).icache = s.icache := rfl
@[simp] theorem State.setMemByte_waits (s : State) (pa : Nat) (b : Byte) : (s.setMemByte pa b).waits = s.waits := rfl
@[simp] theorem State.setMemByte_replies (s : State) (pa : Nat) (b : Byte) : (s.setMemByte pa b).replies = s.replies := rfl
@[simp] theorem State.setMemByte_flips (s : State) (pa : Nat) (b : Byte) : (s.setMemByte pa b).flips = s.flips := rfl
@[simp] theorem State.setMemByte_trackers (s : State) (pa : Nat) (b : Byte) : (s.setMemByte pa b).trackers = s.trackers := rfl
@[simp] theorem State.setMemByte_ringLost (s : State) (pa : Nat) (b : Byte) : (s.setMemByte pa b).ringLost = s.ringLost := rfl
@[simp] theorem State.setMemByte_slcLast (s : State) (pa : Nat) (b : Byte) : (s.setMemByte pa b).slcLast = s.slcLast := rfl
@[simp] theorem State.setMemByte_slcClr (s : State) (pa : Nat) (b : Byte) : (s.setMemByte pa b).slcClr = s.slcClr := rfl
@[simp] theorem State.setMemByte_scrubAt (s : State) (pa : Nat) (b : Byte) : (s.setMemByte pa b).scrubAt = s.scrubAt := rfl
@[simp] theorem State.setMemByte_fab (s : State) (pa : Nat) (b : Byte) : (s.setMemByte pa b).fab = s.fab := rfl
@[simp] theorem State.setMemByte_coll (s : State) (pa : Nat) (b : Byte) : (s.setMemByte pa b).coll = s.coll := rfl
@[simp] theorem State.setMemByte_sched (s : State) (pa : Nat) (b : Byte) : (s.setMemByte pa b).sched = s.sched := rfl
@[simp] theorem State.setMemByte_xch (s : State) (pa : Nat) (b : Byte) : (s.setMemByte pa b).xch = s.xch := rfl
@[simp] theorem State.setMemByte_bcVec (s : State) (pa : Nat) (b : Byte) : (s.setMemByte pa b).bcVec = s.bcVec := rfl
@[simp] theorem State.setMemByte_spBusy (s : State) (pa : Nat) (b : Byte) : (s.setMemByte pa b).spBusy = s.spBusy := rfl
@[simp] theorem State.setMemByte_spClaims (s : State) (pa : Nat) (b : Byte) : (s.setMemByte pa b).spClaims = s.spClaims := rfl
@[simp] theorem State.setMemByte_bcDiv (s : State) (pa : Nat) (b : Byte) : (s.setMemByte pa b).bcDiv = s.bcDiv := rfl
@[simp] theorem State.setMemByte_vDests (s : State) (pa : Nat) (b : Byte) : (s.setMemByte pa b).vDests = s.vDests := rfl
@[simp] theorem State.setMemByte_cur (s : State) (pa : Nat) (b : Byte) : (s.setMemByte pa b).cur = s.cur := rfl
@[simp] theorem State.setMemByte_curAddr (s : State) (pa : Nat) (b : Byte) : (s.setMemByte pa b).curAddr = s.curAddr := rfl
@[simp] theorem State.setMemByte_curE (s : State) (pa : Nat) (b : Byte) : (s.setMemByte pa b).curE = s.curE := rfl
@[simp] theorem State.setMemByte_curV (s : State) (pa : Nat) (b : Byte) : (s.setMemByte pa b).curV = s.curV := rfl
@[simp] theorem State.setMemByte_snap (s : State) (pa : Nat) (b : Byte) : (s.setMemByte pa b).snap = s.snap := rfl
@[simp] theorem State.setMemByte_carried (s : State) (pa : Nat) (b : Byte) : (s.setMemByte pa b).carried = s.carried := rfl
@[simp] theorem State.setMemByte_raised (s : State) (pa : Nat) (b : Byte) : (s.setMemByte pa b).raised = s.raised := rfl
@[simp] theorem State.setMemByte_flagAcc (s : State) (pa : Nat) (b : Byte) : (s.setMemByte pa b).flagAcc = s.flagAcc := rfl
@[simp] theorem State.setMemByte_pending (s : State) (pa : Nat) (b : Byte) : (s.setMemByte pa b).pending = s.pending := rfl
@[simp] theorem State.setMemByte_syscs (s : State) (pa : Nat) (b : Byte) : (s.setMemByte pa b).syscs = s.syscs := rfl
@[simp] theorem State.setMemByte_faultPend (s : State) (pa : Nat) (b : Byte) : (s.setMemByte pa b).faultPend = s.faultPend := rfl
@[simp] theorem State.setMemByte_faultOut (s : State) (pa : Nat) (b : Byte) : (s.setMemByte pa b).faultOut = s.faultOut := rfl
@[simp] theorem State.setMemByte_faultHeld (s : State) (pa : Nat) (b : Byte) : (s.setMemByte pa b).faultHeld = s.faultHeld := rfl
@[simp] theorem State.setMemByte_sec (s : State) (pa : Nat) (b : Byte) : (s.setMemByte pa b).sec = s.sec := rfl
@[simp] theorem State.setMemByte_ldr (s : State) (pa : Nat) (b : Byte) : (s.setMemByte pa b).ldr = s.ldr := rfl
@[simp] theorem State.setMemByte_pow (s : State) (pa : Nat) (b : Byte) : (s.setMemByte pa b).pow = s.pow := rfl
@[simp] theorem State.setMemByte_dbg (s : State) (pa : Nat) (b : Byte) : (s.setMemByte pa b).dbg = s.dbg := rfl
@[simp] theorem State.setMemByte_answered (s : State) (pa : Nat) (b : Byte) : (s.setMemByte pa b).answered = s.answered := rfl
@[simp] theorem State.setMemByte_agenda (s : State) (pa : Nat) (b : Byte) : (s.setMemByte pa b).agenda = s.agenda := rfl
@[simp] theorem State.setMemByte_cycle (s : State) (pa : Nat) (b : Byte) : (s.setMemByte pa b).cycle = s.cycle := rfl
@[simp] theorem State.setMemByte_dcc (s : State) (pa : Nat) (b : Byte) : (s.setMemByte pa b).dcc = s.dcc := rfl
@[simp] theorem State.setMemByte_dccAcc (s : State) (pa : Nat) (b : Byte) : (s.setMemByte pa b).dccAcc = s.dccAcc := rfl
@[simp] theorem State.setMemByte_free (s : State) (pa : Nat) (b : Byte) : (s.setMemByte pa b).free = s.free := rfl

@[simp] theorem State.setTag_tasks (s : State) (pa : Nat) (b : Bool) : (s.setTag pa b).tasks = s.tasks := rfl
@[simp] theorem State.setTag_shares (s : State) (pa : Nat) (b : Bool) : (s.setTag pa b).shares = s.shares := rfl
@[simp] theorem State.setTag_mem (s : State) (pa : Nat) (b : Bool) : (s.setTag pa b).mem = s.mem := rfl
@[simp] theorem State.setTag_regs (s : State) (pa : Nat) (b : Bool) : (s.setTag pa b).regs = s.regs := rfl
@[simp] theorem State.setTag_lines (s : State) (pa : Nat) (b : Bool) : (s.setTag pa b).lines = s.lines := rfl
@[simp] theorem State.setTag_lruClock (s : State) (pa : Nat) (b : Bool) : (s.setTag pa b).lruClock = s.lruClock := rfl
@[simp] theorem State.setTag_l1d (s : State) (pa : Nat) (b : Bool) : (s.setTag pa b).l1d = s.l1d := rfl
@[simp] theorem State.setTag_tlbs (s : State) (pa : Nat) (b : Bool) : (s.setTag pa b).tlbs = s.tlbs := rfl
@[simp] theorem State.setTag_queues (s : State) (pa : Nat) (b : Bool) : (s.setTag pa b).queues = s.queues := rfl
@[simp] theorem State.setTag_bcQueues (s : State) (pa : Nat) (b : Bool) : (s.setTag pa b).bcQueues = s.bcQueues := rfl
@[simp] theorem State.setTag_nets (s : State) (pa : Nat) (b : Bool) : (s.setTag pa b).nets = s.nets := rfl
@[simp] theorem State.setTag_bridges (s : State) (pa : Nat) (b : Bool) : (s.setTag pa b).bridges = s.bridges := rfl
@[simp] theorem State.setTag_nextReq (s : State) (pa : Nat) (b : Bool) : (s.setTag pa b).nextReq = s.nextReq := rfl
@[simp] theorem State.setTag_icache (s : State) (pa : Nat) (b : Bool) : (s.setTag pa b).icache = s.icache := rfl
@[simp] theorem State.setTag_waits (s : State) (pa : Nat) (b : Bool) : (s.setTag pa b).waits = s.waits := rfl
@[simp] theorem State.setTag_replies (s : State) (pa : Nat) (b : Bool) : (s.setTag pa b).replies = s.replies := rfl
@[simp] theorem State.setTag_flips (s : State) (pa : Nat) (b : Bool) : (s.setTag pa b).flips = s.flips := rfl
@[simp] theorem State.setTag_trackers (s : State) (pa : Nat) (b : Bool) : (s.setTag pa b).trackers = s.trackers := rfl
@[simp] theorem State.setTag_ringLost (s : State) (pa : Nat) (b : Bool) : (s.setTag pa b).ringLost = s.ringLost := rfl
@[simp] theorem State.setTag_slcLast (s : State) (pa : Nat) (b : Bool) : (s.setTag pa b).slcLast = s.slcLast := rfl
@[simp] theorem State.setTag_slcClr (s : State) (pa : Nat) (b : Bool) : (s.setTag pa b).slcClr = s.slcClr := rfl
@[simp] theorem State.setTag_scrubAt (s : State) (pa : Nat) (b : Bool) : (s.setTag pa b).scrubAt = s.scrubAt := rfl
@[simp] theorem State.setTag_fab (s : State) (pa : Nat) (b : Bool) : (s.setTag pa b).fab = s.fab := rfl
@[simp] theorem State.setTag_coll (s : State) (pa : Nat) (b : Bool) : (s.setTag pa b).coll = s.coll := rfl
@[simp] theorem State.setTag_sched (s : State) (pa : Nat) (b : Bool) : (s.setTag pa b).sched = s.sched := rfl
@[simp] theorem State.setTag_xch (s : State) (pa : Nat) (b : Bool) : (s.setTag pa b).xch = s.xch := rfl
@[simp] theorem State.setTag_bcVec (s : State) (pa : Nat) (b : Bool) : (s.setTag pa b).bcVec = s.bcVec := rfl
@[simp] theorem State.setTag_spBusy (s : State) (pa : Nat) (b : Bool) : (s.setTag pa b).spBusy = s.spBusy := rfl
@[simp] theorem State.setTag_spClaims (s : State) (pa : Nat) (b : Bool) : (s.setTag pa b).spClaims = s.spClaims := rfl
@[simp] theorem State.setTag_bcDiv (s : State) (pa : Nat) (b : Bool) : (s.setTag pa b).bcDiv = s.bcDiv := rfl
@[simp] theorem State.setTag_vDests (s : State) (pa : Nat) (b : Bool) : (s.setTag pa b).vDests = s.vDests := rfl
@[simp] theorem State.setTag_cur (s : State) (pa : Nat) (b : Bool) : (s.setTag pa b).cur = s.cur := rfl
@[simp] theorem State.setTag_curAddr (s : State) (pa : Nat) (b : Bool) : (s.setTag pa b).curAddr = s.curAddr := rfl
@[simp] theorem State.setTag_curE (s : State) (pa : Nat) (b : Bool) : (s.setTag pa b).curE = s.curE := rfl
@[simp] theorem State.setTag_curV (s : State) (pa : Nat) (b : Bool) : (s.setTag pa b).curV = s.curV := rfl
@[simp] theorem State.setTag_snap (s : State) (pa : Nat) (b : Bool) : (s.setTag pa b).snap = s.snap := rfl
@[simp] theorem State.setTag_carried (s : State) (pa : Nat) (b : Bool) : (s.setTag pa b).carried = s.carried := rfl
@[simp] theorem State.setTag_raised (s : State) (pa : Nat) (b : Bool) : (s.setTag pa b).raised = s.raised := rfl
@[simp] theorem State.setTag_flagAcc (s : State) (pa : Nat) (b : Bool) : (s.setTag pa b).flagAcc = s.flagAcc := rfl
@[simp] theorem State.setTag_pending (s : State) (pa : Nat) (b : Bool) : (s.setTag pa b).pending = s.pending := rfl
@[simp] theorem State.setTag_syscs (s : State) (pa : Nat) (b : Bool) : (s.setTag pa b).syscs = s.syscs := rfl
@[simp] theorem State.setTag_faultPend (s : State) (pa : Nat) (b : Bool) : (s.setTag pa b).faultPend = s.faultPend := rfl
@[simp] theorem State.setTag_faultOut (s : State) (pa : Nat) (b : Bool) : (s.setTag pa b).faultOut = s.faultOut := rfl
@[simp] theorem State.setTag_faultHeld (s : State) (pa : Nat) (b : Bool) : (s.setTag pa b).faultHeld = s.faultHeld := rfl
@[simp] theorem State.setTag_sec (s : State) (pa : Nat) (b : Bool) : (s.setTag pa b).sec = s.sec := rfl
@[simp] theorem State.setTag_ldr (s : State) (pa : Nat) (b : Bool) : (s.setTag pa b).ldr = s.ldr := rfl
@[simp] theorem State.setTag_pow (s : State) (pa : Nat) (b : Bool) : (s.setTag pa b).pow = s.pow := rfl
@[simp] theorem State.setTag_dbg (s : State) (pa : Nat) (b : Bool) : (s.setTag pa b).dbg = s.dbg := rfl
@[simp] theorem State.setTag_answered (s : State) (pa : Nat) (b : Bool) : (s.setTag pa b).answered = s.answered := rfl
@[simp] theorem State.setTag_agenda (s : State) (pa : Nat) (b : Bool) : (s.setTag pa b).agenda = s.agenda := rfl
@[simp] theorem State.setTag_cycle (s : State) (pa : Nat) (b : Bool) : (s.setTag pa b).cycle = s.cycle := rfl
@[simp] theorem State.setTag_dcc (s : State) (pa : Nat) (b : Bool) : (s.setTag pa b).dcc = s.dcc := rfl
@[simp] theorem State.setTag_dccAcc (s : State) (pa : Nat) (b : Bool) : (s.setTag pa b).dccAcc = s.dccAcc := rfl
@[simp] theorem State.setTag_free (s : State) (pa : Nat) (b : Bool) : (s.setTag pa b).free = s.free := rfl

@[simp] theorem State.setLine_tasks (s : State) (pa : Nat) (l : Line) : (s.setLine pa l).tasks = s.tasks := rfl
@[simp] theorem State.setLine_shares (s : State) (pa : Nat) (l : Line) : (s.setLine pa l).shares = s.shares := rfl
@[simp] theorem State.setLine_mem (s : State) (pa : Nat) (l : Line) : (s.setLine pa l).mem = s.mem := rfl
@[simp] theorem State.setLine_tags (s : State) (pa : Nat) (l : Line) : (s.setLine pa l).tags = s.tags := rfl
@[simp] theorem State.setLine_regs (s : State) (pa : Nat) (l : Line) : (s.setLine pa l).regs = s.regs := rfl
@[simp] theorem State.setLine_lruClock (s : State) (pa : Nat) (l : Line) : (s.setLine pa l).lruClock = s.lruClock := rfl
@[simp] theorem State.setLine_l1d (s : State) (pa : Nat) (l : Line) : (s.setLine pa l).l1d = s.l1d := rfl
@[simp] theorem State.setLine_tlbs (s : State) (pa : Nat) (l : Line) : (s.setLine pa l).tlbs = s.tlbs := rfl
@[simp] theorem State.setLine_queues (s : State) (pa : Nat) (l : Line) : (s.setLine pa l).queues = s.queues := rfl
@[simp] theorem State.setLine_bcQueues (s : State) (pa : Nat) (l : Line) : (s.setLine pa l).bcQueues = s.bcQueues := rfl
@[simp] theorem State.setLine_nets (s : State) (pa : Nat) (l : Line) : (s.setLine pa l).nets = s.nets := rfl
@[simp] theorem State.setLine_bridges (s : State) (pa : Nat) (l : Line) : (s.setLine pa l).bridges = s.bridges := rfl
@[simp] theorem State.setLine_nextReq (s : State) (pa : Nat) (l : Line) : (s.setLine pa l).nextReq = s.nextReq := rfl
@[simp] theorem State.setLine_icache (s : State) (pa : Nat) (l : Line) : (s.setLine pa l).icache = s.icache := rfl
@[simp] theorem State.setLine_waits (s : State) (pa : Nat) (l : Line) : (s.setLine pa l).waits = s.waits := rfl
@[simp] theorem State.setLine_replies (s : State) (pa : Nat) (l : Line) : (s.setLine pa l).replies = s.replies := rfl
@[simp] theorem State.setLine_flips (s : State) (pa : Nat) (l : Line) : (s.setLine pa l).flips = s.flips := rfl
@[simp] theorem State.setLine_trackers (s : State) (pa : Nat) (l : Line) : (s.setLine pa l).trackers = s.trackers := rfl
@[simp] theorem State.setLine_ringLost (s : State) (pa : Nat) (l : Line) : (s.setLine pa l).ringLost = s.ringLost := rfl
@[simp] theorem State.setLine_slcLast (s : State) (pa : Nat) (l : Line) : (s.setLine pa l).slcLast = s.slcLast := rfl
@[simp] theorem State.setLine_slcClr (s : State) (pa : Nat) (l : Line) : (s.setLine pa l).slcClr = s.slcClr := rfl
@[simp] theorem State.setLine_scrubAt (s : State) (pa : Nat) (l : Line) : (s.setLine pa l).scrubAt = s.scrubAt := rfl
@[simp] theorem State.setLine_fab (s : State) (pa : Nat) (l : Line) : (s.setLine pa l).fab = s.fab := rfl
@[simp] theorem State.setLine_coll (s : State) (pa : Nat) (l : Line) : (s.setLine pa l).coll = s.coll := rfl
@[simp] theorem State.setLine_sched (s : State) (pa : Nat) (l : Line) : (s.setLine pa l).sched = s.sched := rfl
@[simp] theorem State.setLine_xch (s : State) (pa : Nat) (l : Line) : (s.setLine pa l).xch = s.xch := rfl
@[simp] theorem State.setLine_bcVec (s : State) (pa : Nat) (l : Line) : (s.setLine pa l).bcVec = s.bcVec := rfl
@[simp] theorem State.setLine_spBusy (s : State) (pa : Nat) (l : Line) : (s.setLine pa l).spBusy = s.spBusy := rfl
@[simp] theorem State.setLine_spClaims (s : State) (pa : Nat) (l : Line) : (s.setLine pa l).spClaims = s.spClaims := rfl
@[simp] theorem State.setLine_bcDiv (s : State) (pa : Nat) (l : Line) : (s.setLine pa l).bcDiv = s.bcDiv := rfl
@[simp] theorem State.setLine_vDests (s : State) (pa : Nat) (l : Line) : (s.setLine pa l).vDests = s.vDests := rfl
@[simp] theorem State.setLine_cur (s : State) (pa : Nat) (l : Line) : (s.setLine pa l).cur = s.cur := rfl
@[simp] theorem State.setLine_curAddr (s : State) (pa : Nat) (l : Line) : (s.setLine pa l).curAddr = s.curAddr := rfl
@[simp] theorem State.setLine_curE (s : State) (pa : Nat) (l : Line) : (s.setLine pa l).curE = s.curE := rfl
@[simp] theorem State.setLine_curV (s : State) (pa : Nat) (l : Line) : (s.setLine pa l).curV = s.curV := rfl
@[simp] theorem State.setLine_snap (s : State) (pa : Nat) (l : Line) : (s.setLine pa l).snap = s.snap := rfl
@[simp] theorem State.setLine_carried (s : State) (pa : Nat) (l : Line) : (s.setLine pa l).carried = s.carried := rfl
@[simp] theorem State.setLine_raised (s : State) (pa : Nat) (l : Line) : (s.setLine pa l).raised = s.raised := rfl
@[simp] theorem State.setLine_flagAcc (s : State) (pa : Nat) (l : Line) : (s.setLine pa l).flagAcc = s.flagAcc := rfl
@[simp] theorem State.setLine_pending (s : State) (pa : Nat) (l : Line) : (s.setLine pa l).pending = s.pending := rfl
@[simp] theorem State.setLine_syscs (s : State) (pa : Nat) (l : Line) : (s.setLine pa l).syscs = s.syscs := rfl
@[simp] theorem State.setLine_faultPend (s : State) (pa : Nat) (l : Line) : (s.setLine pa l).faultPend = s.faultPend := rfl
@[simp] theorem State.setLine_faultOut (s : State) (pa : Nat) (l : Line) : (s.setLine pa l).faultOut = s.faultOut := rfl
@[simp] theorem State.setLine_faultHeld (s : State) (pa : Nat) (l : Line) : (s.setLine pa l).faultHeld = s.faultHeld := rfl
@[simp] theorem State.setLine_sec (s : State) (pa : Nat) (l : Line) : (s.setLine pa l).sec = s.sec := rfl
@[simp] theorem State.setLine_ldr (s : State) (pa : Nat) (l : Line) : (s.setLine pa l).ldr = s.ldr := rfl
@[simp] theorem State.setLine_pow (s : State) (pa : Nat) (l : Line) : (s.setLine pa l).pow = s.pow := rfl
@[simp] theorem State.setLine_dbg (s : State) (pa : Nat) (l : Line) : (s.setLine pa l).dbg = s.dbg := rfl
@[simp] theorem State.setLine_answered (s : State) (pa : Nat) (l : Line) : (s.setLine pa l).answered = s.answered := rfl
@[simp] theorem State.setLine_agenda (s : State) (pa : Nat) (l : Line) : (s.setLine pa l).agenda = s.agenda := rfl
@[simp] theorem State.setLine_cycle (s : State) (pa : Nat) (l : Line) : (s.setLine pa l).cycle = s.cycle := rfl
@[simp] theorem State.setLine_dcc (s : State) (pa : Nat) (l : Line) : (s.setLine pa l).dcc = s.dcc := rfl
@[simp] theorem State.setLine_dccAcc (s : State) (pa : Nat) (l : Line) : (s.setLine pa l).dccAcc = s.dccAcc := rfl
@[simp] theorem State.setLine_free (s : State) (pa : Nat) (l : Line) : (s.setLine pa l).free = s.free := rfl

@[simp] theorem State.setL1_tasks (s : State) (row pa : Nat) (w : L1Word) : (s.setL1 row pa w).tasks = s.tasks := rfl
@[simp] theorem State.setL1_shares (s : State) (row pa : Nat) (w : L1Word) : (s.setL1 row pa w).shares = s.shares := rfl
@[simp] theorem State.setL1_mem (s : State) (row pa : Nat) (w : L1Word) : (s.setL1 row pa w).mem = s.mem := rfl
@[simp] theorem State.setL1_tags (s : State) (row pa : Nat) (w : L1Word) : (s.setL1 row pa w).tags = s.tags := rfl
@[simp] theorem State.setL1_regs (s : State) (row pa : Nat) (w : L1Word) : (s.setL1 row pa w).regs = s.regs := rfl
@[simp] theorem State.setL1_lines (s : State) (row pa : Nat) (w : L1Word) : (s.setL1 row pa w).lines = s.lines := rfl
@[simp] theorem State.setL1_lruClock (s : State) (row pa : Nat) (w : L1Word) : (s.setL1 row pa w).lruClock = s.lruClock := rfl
@[simp] theorem State.setL1_tlbs (s : State) (row pa : Nat) (w : L1Word) : (s.setL1 row pa w).tlbs = s.tlbs := rfl
@[simp] theorem State.setL1_queues (s : State) (row pa : Nat) (w : L1Word) : (s.setL1 row pa w).queues = s.queues := rfl
@[simp] theorem State.setL1_bcQueues (s : State) (row pa : Nat) (w : L1Word) : (s.setL1 row pa w).bcQueues = s.bcQueues := rfl
@[simp] theorem State.setL1_nets (s : State) (row pa : Nat) (w : L1Word) : (s.setL1 row pa w).nets = s.nets := rfl
@[simp] theorem State.setL1_bridges (s : State) (row pa : Nat) (w : L1Word) : (s.setL1 row pa w).bridges = s.bridges := rfl
@[simp] theorem State.setL1_nextReq (s : State) (row pa : Nat) (w : L1Word) : (s.setL1 row pa w).nextReq = s.nextReq := rfl
@[simp] theorem State.setL1_icache (s : State) (row pa : Nat) (w : L1Word) : (s.setL1 row pa w).icache = s.icache := rfl
@[simp] theorem State.setL1_waits (s : State) (row pa : Nat) (w : L1Word) : (s.setL1 row pa w).waits = s.waits := rfl
@[simp] theorem State.setL1_replies (s : State) (row pa : Nat) (w : L1Word) : (s.setL1 row pa w).replies = s.replies := rfl
@[simp] theorem State.setL1_flips (s : State) (row pa : Nat) (w : L1Word) : (s.setL1 row pa w).flips = s.flips := rfl
@[simp] theorem State.setL1_trackers (s : State) (row pa : Nat) (w : L1Word) : (s.setL1 row pa w).trackers = s.trackers := rfl
@[simp] theorem State.setL1_ringLost (s : State) (row pa : Nat) (w : L1Word) : (s.setL1 row pa w).ringLost = s.ringLost := rfl
@[simp] theorem State.setL1_slcLast (s : State) (row pa : Nat) (w : L1Word) : (s.setL1 row pa w).slcLast = s.slcLast := rfl
@[simp] theorem State.setL1_slcClr (s : State) (row pa : Nat) (w : L1Word) : (s.setL1 row pa w).slcClr = s.slcClr := rfl
@[simp] theorem State.setL1_scrubAt (s : State) (row pa : Nat) (w : L1Word) : (s.setL1 row pa w).scrubAt = s.scrubAt := rfl
@[simp] theorem State.setL1_fab (s : State) (row pa : Nat) (w : L1Word) : (s.setL1 row pa w).fab = s.fab := rfl
@[simp] theorem State.setL1_coll (s : State) (row pa : Nat) (w : L1Word) : (s.setL1 row pa w).coll = s.coll := rfl
@[simp] theorem State.setL1_sched (s : State) (row pa : Nat) (w : L1Word) : (s.setL1 row pa w).sched = s.sched := rfl
@[simp] theorem State.setL1_xch (s : State) (row pa : Nat) (w : L1Word) : (s.setL1 row pa w).xch = s.xch := rfl
@[simp] theorem State.setL1_bcVec (s : State) (row pa : Nat) (w : L1Word) : (s.setL1 row pa w).bcVec = s.bcVec := rfl
@[simp] theorem State.setL1_spBusy (s : State) (row pa : Nat) (w : L1Word) : (s.setL1 row pa w).spBusy = s.spBusy := rfl
@[simp] theorem State.setL1_spClaims (s : State) (row pa : Nat) (w : L1Word) : (s.setL1 row pa w).spClaims = s.spClaims := rfl
@[simp] theorem State.setL1_bcDiv (s : State) (row pa : Nat) (w : L1Word) : (s.setL1 row pa w).bcDiv = s.bcDiv := rfl
@[simp] theorem State.setL1_vDests (s : State) (row pa : Nat) (w : L1Word) : (s.setL1 row pa w).vDests = s.vDests := rfl
@[simp] theorem State.setL1_cur (s : State) (row pa : Nat) (w : L1Word) : (s.setL1 row pa w).cur = s.cur := rfl
@[simp] theorem State.setL1_curAddr (s : State) (row pa : Nat) (w : L1Word) : (s.setL1 row pa w).curAddr = s.curAddr := rfl
@[simp] theorem State.setL1_curE (s : State) (row pa : Nat) (w : L1Word) : (s.setL1 row pa w).curE = s.curE := rfl
@[simp] theorem State.setL1_curV (s : State) (row pa : Nat) (w : L1Word) : (s.setL1 row pa w).curV = s.curV := rfl
@[simp] theorem State.setL1_snap (s : State) (row pa : Nat) (w : L1Word) : (s.setL1 row pa w).snap = s.snap := rfl
@[simp] theorem State.setL1_carried (s : State) (row pa : Nat) (w : L1Word) : (s.setL1 row pa w).carried = s.carried := rfl
@[simp] theorem State.setL1_raised (s : State) (row pa : Nat) (w : L1Word) : (s.setL1 row pa w).raised = s.raised := rfl
@[simp] theorem State.setL1_flagAcc (s : State) (row pa : Nat) (w : L1Word) : (s.setL1 row pa w).flagAcc = s.flagAcc := rfl
@[simp] theorem State.setL1_pending (s : State) (row pa : Nat) (w : L1Word) : (s.setL1 row pa w).pending = s.pending := rfl
@[simp] theorem State.setL1_syscs (s : State) (row pa : Nat) (w : L1Word) : (s.setL1 row pa w).syscs = s.syscs := rfl
@[simp] theorem State.setL1_faultPend (s : State) (row pa : Nat) (w : L1Word) : (s.setL1 row pa w).faultPend = s.faultPend := rfl
@[simp] theorem State.setL1_faultOut (s : State) (row pa : Nat) (w : L1Word) : (s.setL1 row pa w).faultOut = s.faultOut := rfl
@[simp] theorem State.setL1_faultHeld (s : State) (row pa : Nat) (w : L1Word) : (s.setL1 row pa w).faultHeld = s.faultHeld := rfl
@[simp] theorem State.setL1_sec (s : State) (row pa : Nat) (w : L1Word) : (s.setL1 row pa w).sec = s.sec := rfl
@[simp] theorem State.setL1_ldr (s : State) (row pa : Nat) (w : L1Word) : (s.setL1 row pa w).ldr = s.ldr := rfl
@[simp] theorem State.setL1_pow (s : State) (row pa : Nat) (w : L1Word) : (s.setL1 row pa w).pow = s.pow := rfl
@[simp] theorem State.setL1_dbg (s : State) (row pa : Nat) (w : L1Word) : (s.setL1 row pa w).dbg = s.dbg := rfl
@[simp] theorem State.setL1_answered (s : State) (row pa : Nat) (w : L1Word) : (s.setL1 row pa w).answered = s.answered := rfl
@[simp] theorem State.setL1_agenda (s : State) (row pa : Nat) (w : L1Word) : (s.setL1 row pa w).agenda = s.agenda := rfl
@[simp] theorem State.setL1_cycle (s : State) (row pa : Nat) (w : L1Word) : (s.setL1 row pa w).cycle = s.cycle := rfl
@[simp] theorem State.setL1_dcc (s : State) (row pa : Nat) (w : L1Word) : (s.setL1 row pa w).dcc = s.dcc := rfl
@[simp] theorem State.setL1_dccAcc (s : State) (row pa : Nat) (w : L1Word) : (s.setL1 row pa w).dccAcc = s.dccAcc := rfl
@[simp] theorem State.setL1_free (s : State) (row pa : Nat) (w : L1Word) : (s.setL1 row pa w).free = s.free := rfl

@[simp] theorem State.keepRecord_tasks (s : State) (f : FaultRec) : (s.keepRecord f).tasks = s.tasks := rfl
@[simp] theorem State.keepRecord_shares (s : State) (f : FaultRec) : (s.keepRecord f).shares = s.shares := rfl
@[simp] theorem State.keepRecord_mem (s : State) (f : FaultRec) : (s.keepRecord f).mem = s.mem := rfl
@[simp] theorem State.keepRecord_tags (s : State) (f : FaultRec) : (s.keepRecord f).tags = s.tags := rfl
@[simp] theorem State.keepRecord_regs (s : State) (f : FaultRec) : (s.keepRecord f).regs = s.regs := rfl
@[simp] theorem State.keepRecord_lines (s : State) (f : FaultRec) : (s.keepRecord f).lines = s.lines := rfl
@[simp] theorem State.keepRecord_lruClock (s : State) (f : FaultRec) : (s.keepRecord f).lruClock = s.lruClock := rfl
@[simp] theorem State.keepRecord_l1d (s : State) (f : FaultRec) : (s.keepRecord f).l1d = s.l1d := rfl
@[simp] theorem State.keepRecord_tlbs (s : State) (f : FaultRec) : (s.keepRecord f).tlbs = s.tlbs := rfl
@[simp] theorem State.keepRecord_queues (s : State) (f : FaultRec) : (s.keepRecord f).queues = s.queues := rfl
@[simp] theorem State.keepRecord_bcQueues (s : State) (f : FaultRec) : (s.keepRecord f).bcQueues = s.bcQueues := rfl
@[simp] theorem State.keepRecord_nets (s : State) (f : FaultRec) : (s.keepRecord f).nets = s.nets := rfl
@[simp] theorem State.keepRecord_bridges (s : State) (f : FaultRec) : (s.keepRecord f).bridges = s.bridges := rfl
@[simp] theorem State.keepRecord_nextReq (s : State) (f : FaultRec) : (s.keepRecord f).nextReq = s.nextReq := rfl
@[simp] theorem State.keepRecord_icache (s : State) (f : FaultRec) : (s.keepRecord f).icache = s.icache := rfl
@[simp] theorem State.keepRecord_waits (s : State) (f : FaultRec) : (s.keepRecord f).waits = s.waits := rfl
@[simp] theorem State.keepRecord_replies (s : State) (f : FaultRec) : (s.keepRecord f).replies = s.replies := rfl
@[simp] theorem State.keepRecord_flips (s : State) (f : FaultRec) : (s.keepRecord f).flips = s.flips := rfl
@[simp] theorem State.keepRecord_trackers (s : State) (f : FaultRec) : (s.keepRecord f).trackers = s.trackers := rfl
@[simp] theorem State.keepRecord_ringLost (s : State) (f : FaultRec) : (s.keepRecord f).ringLost = s.ringLost := rfl
@[simp] theorem State.keepRecord_slcLast (s : State) (f : FaultRec) : (s.keepRecord f).slcLast = s.slcLast := rfl
@[simp] theorem State.keepRecord_slcClr (s : State) (f : FaultRec) : (s.keepRecord f).slcClr = s.slcClr := rfl
@[simp] theorem State.keepRecord_scrubAt (s : State) (f : FaultRec) : (s.keepRecord f).scrubAt = s.scrubAt := rfl
@[simp] theorem State.keepRecord_fab (s : State) (f : FaultRec) : (s.keepRecord f).fab = s.fab := rfl
@[simp] theorem State.keepRecord_coll (s : State) (f : FaultRec) : (s.keepRecord f).coll = s.coll := rfl
@[simp] theorem State.keepRecord_sched (s : State) (f : FaultRec) : (s.keepRecord f).sched = s.sched := rfl
@[simp] theorem State.keepRecord_xch (s : State) (f : FaultRec) : (s.keepRecord f).xch = s.xch := rfl
@[simp] theorem State.keepRecord_bcVec (s : State) (f : FaultRec) : (s.keepRecord f).bcVec = s.bcVec := rfl
@[simp] theorem State.keepRecord_spBusy (s : State) (f : FaultRec) : (s.keepRecord f).spBusy = s.spBusy := rfl
@[simp] theorem State.keepRecord_spClaims (s : State) (f : FaultRec) : (s.keepRecord f).spClaims = s.spClaims := rfl
@[simp] theorem State.keepRecord_bcDiv (s : State) (f : FaultRec) : (s.keepRecord f).bcDiv = s.bcDiv := rfl
@[simp] theorem State.keepRecord_vDests (s : State) (f : FaultRec) : (s.keepRecord f).vDests = s.vDests := rfl
@[simp] theorem State.keepRecord_cur (s : State) (f : FaultRec) : (s.keepRecord f).cur = s.cur := rfl
@[simp] theorem State.keepRecord_curAddr (s : State) (f : FaultRec) : (s.keepRecord f).curAddr = s.curAddr := rfl
@[simp] theorem State.keepRecord_curE (s : State) (f : FaultRec) : (s.keepRecord f).curE = s.curE := rfl
@[simp] theorem State.keepRecord_curV (s : State) (f : FaultRec) : (s.keepRecord f).curV = s.curV := rfl
@[simp] theorem State.keepRecord_snap (s : State) (f : FaultRec) : (s.keepRecord f).snap = s.snap := rfl
@[simp] theorem State.keepRecord_carried (s : State) (f : FaultRec) : (s.keepRecord f).carried = s.carried := rfl
@[simp] theorem State.keepRecord_raised (s : State) (f : FaultRec) : (s.keepRecord f).raised = s.raised := rfl
@[simp] theorem State.keepRecord_flagAcc (s : State) (f : FaultRec) : (s.keepRecord f).flagAcc = s.flagAcc := rfl
@[simp] theorem State.keepRecord_pending (s : State) (f : FaultRec) : (s.keepRecord f).pending = s.pending := rfl
@[simp] theorem State.keepRecord_syscs (s : State) (f : FaultRec) : (s.keepRecord f).syscs = s.syscs := rfl
@[simp] theorem State.keepRecord_faultOut (s : State) (f : FaultRec) : (s.keepRecord f).faultOut = s.faultOut := rfl
@[simp] theorem State.keepRecord_faultHeld (s : State) (f : FaultRec) : (s.keepRecord f).faultHeld = s.faultHeld := rfl
@[simp] theorem State.keepRecord_sec (s : State) (f : FaultRec) : (s.keepRecord f).sec = s.sec := rfl
@[simp] theorem State.keepRecord_ldr (s : State) (f : FaultRec) : (s.keepRecord f).ldr = s.ldr := rfl
@[simp] theorem State.keepRecord_pow (s : State) (f : FaultRec) : (s.keepRecord f).pow = s.pow := rfl
@[simp] theorem State.keepRecord_dbg (s : State) (f : FaultRec) : (s.keepRecord f).dbg = s.dbg := rfl
@[simp] theorem State.keepRecord_answered (s : State) (f : FaultRec) : (s.keepRecord f).answered = s.answered := rfl
@[simp] theorem State.keepRecord_agenda (s : State) (f : FaultRec) : (s.keepRecord f).agenda = s.agenda := rfl
@[simp] theorem State.keepRecord_cycle (s : State) (f : FaultRec) : (s.keepRecord f).cycle = s.cycle := rfl
@[simp] theorem State.keepRecord_dcc (s : State) (f : FaultRec) : (s.keepRecord f).dcc = s.dcc := rfl
@[simp] theorem State.keepRecord_dccAcc (s : State) (f : FaultRec) : (s.keepRecord f).dccAcc = s.dccAcc := rfl
@[simp] theorem State.keepRecord_free (s : State) (f : FaultRec) : (s.keepRecord f).free = s.free := rfl

@[simp] theorem State.push_tasks (s : State) (i : Instr) : (s.push i).tasks = s.tasks := rfl
@[simp] theorem State.push_shares (s : State) (i : Instr) : (s.push i).shares = s.shares := rfl
@[simp] theorem State.push_mem (s : State) (i : Instr) : (s.push i).mem = s.mem := rfl
@[simp] theorem State.push_tags (s : State) (i : Instr) : (s.push i).tags = s.tags := rfl
@[simp] theorem State.push_regs (s : State) (i : Instr) : (s.push i).regs = s.regs := rfl
@[simp] theorem State.push_lines (s : State) (i : Instr) : (s.push i).lines = s.lines := rfl
@[simp] theorem State.push_lruClock (s : State) (i : Instr) : (s.push i).lruClock = s.lruClock := rfl
@[simp] theorem State.push_l1d (s : State) (i : Instr) : (s.push i).l1d = s.l1d := rfl
@[simp] theorem State.push_tlbs (s : State) (i : Instr) : (s.push i).tlbs = s.tlbs := rfl
@[simp] theorem State.push_queues (s : State) (i : Instr) : (s.push i).queues = s.queues := rfl
@[simp] theorem State.push_bcQueues (s : State) (i : Instr) : (s.push i).bcQueues = s.bcQueues := rfl
@[simp] theorem State.push_nets (s : State) (i : Instr) : (s.push i).nets = s.nets := rfl
@[simp] theorem State.push_bridges (s : State) (i : Instr) : (s.push i).bridges = s.bridges := rfl
@[simp] theorem State.push_nextReq (s : State) (i : Instr) : (s.push i).nextReq = s.nextReq := rfl
@[simp] theorem State.push_icache (s : State) (i : Instr) : (s.push i).icache = s.icache := rfl
@[simp] theorem State.push_waits (s : State) (i : Instr) : (s.push i).waits = s.waits := rfl
@[simp] theorem State.push_replies (s : State) (i : Instr) : (s.push i).replies = s.replies := rfl
@[simp] theorem State.push_flips (s : State) (i : Instr) : (s.push i).flips = s.flips := rfl
@[simp] theorem State.push_trackers (s : State) (i : Instr) : (s.push i).trackers = s.trackers := rfl
@[simp] theorem State.push_ringLost (s : State) (i : Instr) : (s.push i).ringLost = s.ringLost := rfl
@[simp] theorem State.push_slcLast (s : State) (i : Instr) : (s.push i).slcLast = s.slcLast := rfl
@[simp] theorem State.push_slcClr (s : State) (i : Instr) : (s.push i).slcClr = s.slcClr := rfl
@[simp] theorem State.push_scrubAt (s : State) (i : Instr) : (s.push i).scrubAt = s.scrubAt := rfl
@[simp] theorem State.push_fab (s : State) (i : Instr) : (s.push i).fab = s.fab := rfl
@[simp] theorem State.push_coll (s : State) (i : Instr) : (s.push i).coll = s.coll := rfl
@[simp] theorem State.push_sched (s : State) (i : Instr) : (s.push i).sched = s.sched := rfl
@[simp] theorem State.push_xch (s : State) (i : Instr) : (s.push i).xch = s.xch := rfl
@[simp] theorem State.push_bcVec (s : State) (i : Instr) : (s.push i).bcVec = s.bcVec := rfl
@[simp] theorem State.push_spBusy (s : State) (i : Instr) : (s.push i).spBusy = s.spBusy := rfl
@[simp] theorem State.push_spClaims (s : State) (i : Instr) : (s.push i).spClaims = s.spClaims := rfl
@[simp] theorem State.push_bcDiv (s : State) (i : Instr) : (s.push i).bcDiv = s.bcDiv := rfl
@[simp] theorem State.push_vDests (s : State) (i : Instr) : (s.push i).vDests = s.vDests := rfl
@[simp] theorem State.push_cur (s : State) (i : Instr) : (s.push i).cur = s.cur := rfl
@[simp] theorem State.push_curAddr (s : State) (i : Instr) : (s.push i).curAddr = s.curAddr := rfl
@[simp] theorem State.push_curE (s : State) (i : Instr) : (s.push i).curE = s.curE := rfl
@[simp] theorem State.push_curV (s : State) (i : Instr) : (s.push i).curV = s.curV := rfl
@[simp] theorem State.push_snap (s : State) (i : Instr) : (s.push i).snap = s.snap := rfl
@[simp] theorem State.push_carried (s : State) (i : Instr) : (s.push i).carried = s.carried := rfl
@[simp] theorem State.push_raised (s : State) (i : Instr) : (s.push i).raised = s.raised := rfl
@[simp] theorem State.push_flagAcc (s : State) (i : Instr) : (s.push i).flagAcc = s.flagAcc := rfl
@[simp] theorem State.push_pending (s : State) (i : Instr) : (s.push i).pending = s.pending := rfl
@[simp] theorem State.push_syscs (s : State) (i : Instr) : (s.push i).syscs = s.syscs := rfl
@[simp] theorem State.push_faultPend (s : State) (i : Instr) : (s.push i).faultPend = s.faultPend := rfl
@[simp] theorem State.push_faultOut (s : State) (i : Instr) : (s.push i).faultOut = s.faultOut := rfl
@[simp] theorem State.push_faultHeld (s : State) (i : Instr) : (s.push i).faultHeld = s.faultHeld := rfl
@[simp] theorem State.push_sec (s : State) (i : Instr) : (s.push i).sec = s.sec := rfl
@[simp] theorem State.push_ldr (s : State) (i : Instr) : (s.push i).ldr = s.ldr := rfl
@[simp] theorem State.push_pow (s : State) (i : Instr) : (s.push i).pow = s.pow := rfl
@[simp] theorem State.push_dbg (s : State) (i : Instr) : (s.push i).dbg = s.dbg := rfl
@[simp] theorem State.push_answered (s : State) (i : Instr) : (s.push i).answered = s.answered := rfl
@[simp] theorem State.push_cycle (s : State) (i : Instr) : (s.push i).cycle = s.cycle := rfl
@[simp] theorem State.push_dcc (s : State) (i : Instr) : (s.push i).dcc = s.dcc := rfl
@[simp] theorem State.push_dccAcc (s : State) (i : Instr) : (s.push i).dccAcc = s.dccAcc := rfl
@[simp] theorem State.push_free (s : State) (i : Instr) : (s.push i).free = s.free := rfl

/-! ### What the readers give -/

@[simp] theorem State.share_of_setTask (s : State) (g : Gtid) (x : Task) (g' : Gtid) (c' : Nat) : (s.setTask g x).share g' c' = s.share g' c' := rfl
@[simp] theorem State.memByte_of_setTask (s : State) (g : Gtid) (x : Task) (a : Nat) : (s.setTask g x).memByte a = s.memByte a := rfl
@[simp] theorem State.tag_of_setTask (s : State) (g : Gtid) (x : Task) (a : Nat) : (s.setTask g x).tag a = s.tag a := rfl
@[simp] theorem State.reg_of_setTask (s : State) (g : Gtid) (x : Task) (a : Nat) : (s.setTask g x).reg a = s.reg a := rfl
@[simp] theorem State.line_of_setTask (s : State) (g : Gtid) (x : Task) (a : Nat) : (s.setTask g x).line a = s.line a := rfl
@[simp] theorem State.l1_of_setTask (s : State) (g : Gtid) (x : Task) (row' a : Nat) : (s.setTask g x).l1 row' a = s.l1 row' a := rfl
@[simp] theorem State.curGtid_of_setTask (s : State) (g : Gtid) (x : Task) : (s.setTask g x).curGtid = s.curGtid := rfl
@[simp] theorem State.curCore_of_setTask (s : State) (g : Gtid) (x : Task) : (s.setTask g x).curCore = s.curCore := rfl
@[simp] theorem State.onCore_of_setTask (s : State) (g : Gtid) (x : Task) : (s.setTask g x).onCore = s.onCore := rfl
@[simp] theorem State.onBc_of_setTask (s : State) (g : Gtid) (x : Task) : (s.setTask g x).onBc = s.onBc := rfl

@[simp] theorem State.share_of_modTask (s : State) (g : Gtid) (h : Task → Task) (g' : Gtid) (c' : Nat) : (s.modTask g h).share g' c' = s.share g' c' := rfl
@[simp] theorem State.memByte_of_modTask (s : State) (g : Gtid) (h : Task → Task) (a : Nat) : (s.modTask g h).memByte a = s.memByte a := rfl
@[simp] theorem State.tag_of_modTask (s : State) (g : Gtid) (h : Task → Task) (a : Nat) : (s.modTask g h).tag a = s.tag a := rfl
@[simp] theorem State.reg_of_modTask (s : State) (g : Gtid) (h : Task → Task) (a : Nat) : (s.modTask g h).reg a = s.reg a := rfl
@[simp] theorem State.line_of_modTask (s : State) (g : Gtid) (h : Task → Task) (a : Nat) : (s.modTask g h).line a = s.line a := rfl
@[simp] theorem State.l1_of_modTask (s : State) (g : Gtid) (h : Task → Task) (row' a : Nat) : (s.modTask g h).l1 row' a = s.l1 row' a := rfl
@[simp] theorem State.curGtid_of_modTask (s : State) (g : Gtid) (h : Task → Task) : (s.modTask g h).curGtid = s.curGtid := rfl
@[simp] theorem State.curCore_of_modTask (s : State) (g : Gtid) (h : Task → Task) : (s.modTask g h).curCore = s.curCore := rfl
@[simp] theorem State.onCore_of_modTask (s : State) (g : Gtid) (h : Task → Task) : (s.modTask g h).onCore = s.onCore := rfl
@[simp] theorem State.onBc_of_modTask (s : State) (g : Gtid) (h : Task → Task) : (s.modTask g h).onBc = s.onBc := rfl

@[simp] theorem State.task_of_setShare (s : State) (g : Gtid) (c : Nat) (x : Share) (g' : Gtid) : (s.setShare g c x).task g' = s.task g' := rfl
@[simp] theorem State.memByte_of_setShare (s : State) (g : Gtid) (c : Nat) (x : Share) (a : Nat) : (s.setShare g c x).memByte a = s.memByte a := rfl
@[simp] theorem State.tag_of_setShare (s : State) (g : Gtid) (c : Nat) (x : Share) (a : Nat) : (s.setShare g c x).tag a = s.tag a := rfl
@[simp] theorem State.reg_of_setShare (s : State) (g : Gtid) (c : Nat) (x : Share) (a : Nat) : (s.setShare g c x).reg a = s.reg a := rfl
@[simp] theorem State.line_of_setShare (s : State) (g : Gtid) (c : Nat) (x : Share) (a : Nat) : (s.setShare g c x).line a = s.line a := rfl
@[simp] theorem State.l1_of_setShare (s : State) (g : Gtid) (c : Nat) (x : Share) (row' a : Nat) : (s.setShare g c x).l1 row' a = s.l1 row' a := rfl
@[simp] theorem State.curGtid_of_setShare (s : State) (g : Gtid) (c : Nat) (x : Share) : (s.setShare g c x).curGtid = s.curGtid := rfl
@[simp] theorem State.curCore_of_setShare (s : State) (g : Gtid) (c : Nat) (x : Share) : (s.setShare g c x).curCore = s.curCore := rfl
@[simp] theorem State.onCore_of_setShare (s : State) (g : Gtid) (c : Nat) (x : Share) : (s.setShare g c x).onCore = s.onCore := rfl
@[simp] theorem State.onBc_of_setShare (s : State) (g : Gtid) (c : Nat) (x : Share) : (s.setShare g c x).onBc = s.onBc := rfl

@[simp] theorem State.task_of_modShare (s : State) (g : Gtid) (c : Nat) (h : Share → Share) (g' : Gtid) : (s.modShare g c h).task g' = s.task g' := rfl
@[simp] theorem State.memByte_of_modShare (s : State) (g : Gtid) (c : Nat) (h : Share → Share) (a : Nat) : (s.modShare g c h).memByte a = s.memByte a := rfl
@[simp] theorem State.tag_of_modShare (s : State) (g : Gtid) (c : Nat) (h : Share → Share) (a : Nat) : (s.modShare g c h).tag a = s.tag a := rfl
@[simp] theorem State.reg_of_modShare (s : State) (g : Gtid) (c : Nat) (h : Share → Share) (a : Nat) : (s.modShare g c h).reg a = s.reg a := rfl
@[simp] theorem State.line_of_modShare (s : State) (g : Gtid) (c : Nat) (h : Share → Share) (a : Nat) : (s.modShare g c h).line a = s.line a := rfl
@[simp] theorem State.l1_of_modShare (s : State) (g : Gtid) (c : Nat) (h : Share → Share) (row' a : Nat) : (s.modShare g c h).l1 row' a = s.l1 row' a := rfl
@[simp] theorem State.curGtid_of_modShare (s : State) (g : Gtid) (c : Nat) (h : Share → Share) : (s.modShare g c h).curGtid = s.curGtid := rfl
@[simp] theorem State.curCore_of_modShare (s : State) (g : Gtid) (c : Nat) (h : Share → Share) : (s.modShare g c h).curCore = s.curCore := rfl
@[simp] theorem State.onCore_of_modShare (s : State) (g : Gtid) (c : Nat) (h : Share → Share) : (s.modShare g c h).onCore = s.onCore := rfl
@[simp] theorem State.onBc_of_modShare (s : State) (g : Gtid) (c : Nat) (h : Share → Share) : (s.modShare g c h).onBc = s.onBc := rfl

@[simp] theorem State.share_of_modCurTask (s : State) (h : Task → Task) (g' : Gtid) (c' : Nat) : (s.modCurTask h).share g' c' = s.share g' c' := rfl
@[simp] theorem State.memByte_of_modCurTask (s : State) (h : Task → Task) (a : Nat) : (s.modCurTask h).memByte a = s.memByte a := rfl
@[simp] theorem State.tag_of_modCurTask (s : State) (h : Task → Task) (a : Nat) : (s.modCurTask h).tag a = s.tag a := rfl
@[simp] theorem State.reg_of_modCurTask (s : State) (h : Task → Task) (a : Nat) : (s.modCurTask h).reg a = s.reg a := rfl
@[simp] theorem State.line_of_modCurTask (s : State) (h : Task → Task) (a : Nat) : (s.modCurTask h).line a = s.line a := rfl
@[simp] theorem State.l1_of_modCurTask (s : State) (h : Task → Task) (row' a : Nat) : (s.modCurTask h).l1 row' a = s.l1 row' a := rfl
@[simp] theorem State.curGtid_of_modCurTask (s : State) (h : Task → Task) : (s.modCurTask h).curGtid = s.curGtid := rfl
@[simp] theorem State.curCore_of_modCurTask (s : State) (h : Task → Task) : (s.modCurTask h).curCore = s.curCore := rfl
@[simp] theorem State.onCore_of_modCurTask (s : State) (h : Task → Task) : (s.modCurTask h).onCore = s.onCore := rfl
@[simp] theorem State.onBc_of_modCurTask (s : State) (h : Task → Task) : (s.modCurTask h).onBc = s.onBc := rfl

@[simp] theorem State.task_of_modCurShare (s : State) (h : Share → Share) (g' : Gtid) : (s.modCurShare h).task g' = s.task g' := rfl
@[simp] theorem State.memByte_of_modCurShare (s : State) (h : Share → Share) (a : Nat) : (s.modCurShare h).memByte a = s.memByte a := rfl
@[simp] theorem State.tag_of_modCurShare (s : State) (h : Share → Share) (a : Nat) : (s.modCurShare h).tag a = s.tag a := rfl
@[simp] theorem State.reg_of_modCurShare (s : State) (h : Share → Share) (a : Nat) : (s.modCurShare h).reg a = s.reg a := rfl
@[simp] theorem State.line_of_modCurShare (s : State) (h : Share → Share) (a : Nat) : (s.modCurShare h).line a = s.line a := rfl
@[simp] theorem State.l1_of_modCurShare (s : State) (h : Share → Share) (row' a : Nat) : (s.modCurShare h).l1 row' a = s.l1 row' a := rfl
@[simp] theorem State.curGtid_of_modCurShare (s : State) (h : Share → Share) : (s.modCurShare h).curGtid = s.curGtid := rfl
@[simp] theorem State.curCore_of_modCurShare (s : State) (h : Share → Share) : (s.modCurShare h).curCore = s.curCore := rfl
@[simp] theorem State.onCore_of_modCurShare (s : State) (h : Share → Share) : (s.modCurShare h).onCore = s.onCore := rfl
@[simp] theorem State.onBc_of_modCurShare (s : State) (h : Share → Share) : (s.modCurShare h).onBc = s.onBc := rfl

@[simp] theorem State.task_of_raise (s : State) (r : Raised) (g' : Gtid) : (s.raise r).task g' = s.task g' := rfl
@[simp] theorem State.share_of_raise (s : State) (r : Raised) (g' : Gtid) (c' : Nat) : (s.raise r).share g' c' = s.share g' c' := rfl
@[simp] theorem State.memByte_of_raise (s : State) (r : Raised) (a : Nat) : (s.raise r).memByte a = s.memByte a := rfl
@[simp] theorem State.tag_of_raise (s : State) (r : Raised) (a : Nat) : (s.raise r).tag a = s.tag a := rfl
@[simp] theorem State.reg_of_raise (s : State) (r : Raised) (a : Nat) : (s.raise r).reg a = s.reg a := rfl
@[simp] theorem State.line_of_raise (s : State) (r : Raised) (a : Nat) : (s.raise r).line a = s.line a := rfl
@[simp] theorem State.l1_of_raise (s : State) (r : Raised) (row' a : Nat) : (s.raise r).l1 row' a = s.l1 row' a := rfl
@[simp] theorem State.curGtid_of_raise (s : State) (r : Raised) : (s.raise r).curGtid = s.curGtid := rfl
@[simp] theorem State.curCore_of_raise (s : State) (r : Raised) : (s.raise r).curCore = s.curCore := rfl
@[simp] theorem State.onCore_of_raise (s : State) (r : Raised) : (s.raise r).onCore = s.onCore := rfl
@[simp] theorem State.onBc_of_raise (s : State) (r : Raised) : (s.raise r).onBc = s.onBc := rfl

@[simp] theorem State.task_of_setReg (s : State) (pa : Nat) (v : Word) (g' : Gtid) : (s.setReg pa v).task g' = s.task g' := rfl
@[simp] theorem State.share_of_setReg (s : State) (pa : Nat) (v : Word) (g' : Gtid) (c' : Nat) : (s.setReg pa v).share g' c' = s.share g' c' := rfl
@[simp] theorem State.memByte_of_setReg (s : State) (pa : Nat) (v : Word) (a : Nat) : (s.setReg pa v).memByte a = s.memByte a := rfl
@[simp] theorem State.tag_of_setReg (s : State) (pa : Nat) (v : Word) (a : Nat) : (s.setReg pa v).tag a = s.tag a := rfl
@[simp] theorem State.line_of_setReg (s : State) (pa : Nat) (v : Word) (a : Nat) : (s.setReg pa v).line a = s.line a := rfl
@[simp] theorem State.l1_of_setReg (s : State) (pa : Nat) (v : Word) (row' a : Nat) : (s.setReg pa v).l1 row' a = s.l1 row' a := rfl
@[simp] theorem State.curGtid_of_setReg (s : State) (pa : Nat) (v : Word) : (s.setReg pa v).curGtid = s.curGtid := rfl
@[simp] theorem State.curCore_of_setReg (s : State) (pa : Nat) (v : Word) : (s.setReg pa v).curCore = s.curCore := rfl
@[simp] theorem State.onCore_of_setReg (s : State) (pa : Nat) (v : Word) : (s.setReg pa v).onCore = s.onCore := rfl
@[simp] theorem State.onBc_of_setReg (s : State) (pa : Nat) (v : Word) : (s.setReg pa v).onBc = s.onBc := rfl

@[simp] theorem State.task_of_bumpReg (s : State) (pa : Nat) (g' : Gtid) : (s.bumpReg pa).task g' = s.task g' := rfl
@[simp] theorem State.share_of_bumpReg (s : State) (pa : Nat) (g' : Gtid) (c' : Nat) : (s.bumpReg pa).share g' c' = s.share g' c' := rfl
@[simp] theorem State.memByte_of_bumpReg (s : State) (pa : Nat) (a : Nat) : (s.bumpReg pa).memByte a = s.memByte a := rfl
@[simp] theorem State.tag_of_bumpReg (s : State) (pa : Nat) (a : Nat) : (s.bumpReg pa).tag a = s.tag a := rfl
@[simp] theorem State.line_of_bumpReg (s : State) (pa : Nat) (a : Nat) : (s.bumpReg pa).line a = s.line a := rfl
@[simp] theorem State.l1_of_bumpReg (s : State) (pa : Nat) (row' a : Nat) : (s.bumpReg pa).l1 row' a = s.l1 row' a := rfl
@[simp] theorem State.curGtid_of_bumpReg (s : State) (pa : Nat) : (s.bumpReg pa).curGtid = s.curGtid := rfl
@[simp] theorem State.curCore_of_bumpReg (s : State) (pa : Nat) : (s.bumpReg pa).curCore = s.curCore := rfl
@[simp] theorem State.onCore_of_bumpReg (s : State) (pa : Nat) : (s.bumpReg pa).onCore = s.onCore := rfl
@[simp] theorem State.onBc_of_bumpReg (s : State) (pa : Nat) : (s.bumpReg pa).onBc = s.onBc := rfl

@[simp] theorem State.task_of_setMemByte (s : State) (pa : Nat) (b : Byte) (g' : Gtid) : (s.setMemByte pa b).task g' = s.task g' := rfl
@[simp] theorem State.share_of_setMemByte (s : State) (pa : Nat) (b : Byte) (g' : Gtid) (c' : Nat) : (s.setMemByte pa b).share g' c' = s.share g' c' := rfl
@[simp] theorem State.tag_of_setMemByte (s : State) (pa : Nat) (b : Byte) (a : Nat) : (s.setMemByte pa b).tag a = s.tag a := rfl
@[simp] theorem State.reg_of_setMemByte (s : State) (pa : Nat) (b : Byte) (a : Nat) : (s.setMemByte pa b).reg a = s.reg a := rfl
@[simp] theorem State.line_of_setMemByte (s : State) (pa : Nat) (b : Byte) (a : Nat) : (s.setMemByte pa b).line a = s.line a := rfl
@[simp] theorem State.l1_of_setMemByte (s : State) (pa : Nat) (b : Byte) (row' a : Nat) : (s.setMemByte pa b).l1 row' a = s.l1 row' a := rfl
@[simp] theorem State.curGtid_of_setMemByte (s : State) (pa : Nat) (b : Byte) : (s.setMemByte pa b).curGtid = s.curGtid := rfl
@[simp] theorem State.curCore_of_setMemByte (s : State) (pa : Nat) (b : Byte) : (s.setMemByte pa b).curCore = s.curCore := rfl
@[simp] theorem State.onCore_of_setMemByte (s : State) (pa : Nat) (b : Byte) : (s.setMemByte pa b).onCore = s.onCore := rfl
@[simp] theorem State.onBc_of_setMemByte (s : State) (pa : Nat) (b : Byte) : (s.setMemByte pa b).onBc = s.onBc := rfl

@[simp] theorem State.task_of_setTag (s : State) (pa : Nat) (b : Bool) (g' : Gtid) : (s.setTag pa b).task g' = s.task g' := rfl
@[simp] theorem State.share_of_setTag (s : State) (pa : Nat) (b : Bool) (g' : Gtid) (c' : Nat) : (s.setTag pa b).share g' c' = s.share g' c' := rfl
@[simp] theorem State.memByte_of_setTag (s : State) (pa : Nat) (b : Bool) (a : Nat) : (s.setTag pa b).memByte a = s.memByte a := rfl
@[simp] theorem State.reg_of_setTag (s : State) (pa : Nat) (b : Bool) (a : Nat) : (s.setTag pa b).reg a = s.reg a := rfl
@[simp] theorem State.line_of_setTag (s : State) (pa : Nat) (b : Bool) (a : Nat) : (s.setTag pa b).line a = s.line a := rfl
@[simp] theorem State.l1_of_setTag (s : State) (pa : Nat) (b : Bool) (row' a : Nat) : (s.setTag pa b).l1 row' a = s.l1 row' a := rfl
@[simp] theorem State.curGtid_of_setTag (s : State) (pa : Nat) (b : Bool) : (s.setTag pa b).curGtid = s.curGtid := rfl
@[simp] theorem State.curCore_of_setTag (s : State) (pa : Nat) (b : Bool) : (s.setTag pa b).curCore = s.curCore := rfl
@[simp] theorem State.onCore_of_setTag (s : State) (pa : Nat) (b : Bool) : (s.setTag pa b).onCore = s.onCore := rfl
@[simp] theorem State.onBc_of_setTag (s : State) (pa : Nat) (b : Bool) : (s.setTag pa b).onBc = s.onBc := rfl

@[simp] theorem State.task_of_setLine (s : State) (pa : Nat) (l : Line) (g' : Gtid) : (s.setLine pa l).task g' = s.task g' := rfl
@[simp] theorem State.share_of_setLine (s : State) (pa : Nat) (l : Line) (g' : Gtid) (c' : Nat) : (s.setLine pa l).share g' c' = s.share g' c' := rfl
@[simp] theorem State.memByte_of_setLine (s : State) (pa : Nat) (l : Line) (a : Nat) : (s.setLine pa l).memByte a = s.memByte a := rfl
@[simp] theorem State.tag_of_setLine (s : State) (pa : Nat) (l : Line) (a : Nat) : (s.setLine pa l).tag a = s.tag a := rfl
@[simp] theorem State.reg_of_setLine (s : State) (pa : Nat) (l : Line) (a : Nat) : (s.setLine pa l).reg a = s.reg a := rfl
@[simp] theorem State.l1_of_setLine (s : State) (pa : Nat) (l : Line) (row' a : Nat) : (s.setLine pa l).l1 row' a = s.l1 row' a := rfl
@[simp] theorem State.curGtid_of_setLine (s : State) (pa : Nat) (l : Line) : (s.setLine pa l).curGtid = s.curGtid := rfl
@[simp] theorem State.curCore_of_setLine (s : State) (pa : Nat) (l : Line) : (s.setLine pa l).curCore = s.curCore := rfl
@[simp] theorem State.onCore_of_setLine (s : State) (pa : Nat) (l : Line) : (s.setLine pa l).onCore = s.onCore := rfl
@[simp] theorem State.onBc_of_setLine (s : State) (pa : Nat) (l : Line) : (s.setLine pa l).onBc = s.onBc := rfl

@[simp] theorem State.task_of_setL1 (s : State) (row pa : Nat) (w : L1Word) (g' : Gtid) : (s.setL1 row pa w).task g' = s.task g' := rfl
@[simp] theorem State.share_of_setL1 (s : State) (row pa : Nat) (w : L1Word) (g' : Gtid) (c' : Nat) : (s.setL1 row pa w).share g' c' = s.share g' c' := rfl
@[simp] theorem State.memByte_of_setL1 (s : State) (row pa : Nat) (w : L1Word) (a : Nat) : (s.setL1 row pa w).memByte a = s.memByte a := rfl
@[simp] theorem State.tag_of_setL1 (s : State) (row pa : Nat) (w : L1Word) (a : Nat) : (s.setL1 row pa w).tag a = s.tag a := rfl
@[simp] theorem State.reg_of_setL1 (s : State) (row pa : Nat) (w : L1Word) (a : Nat) : (s.setL1 row pa w).reg a = s.reg a := rfl
@[simp] theorem State.line_of_setL1 (s : State) (row pa : Nat) (w : L1Word) (a : Nat) : (s.setL1 row pa w).line a = s.line a := rfl
@[simp] theorem State.curGtid_of_setL1 (s : State) (row pa : Nat) (w : L1Word) : (s.setL1 row pa w).curGtid = s.curGtid := rfl
@[simp] theorem State.curCore_of_setL1 (s : State) (row pa : Nat) (w : L1Word) : (s.setL1 row pa w).curCore = s.curCore := rfl
@[simp] theorem State.onCore_of_setL1 (s : State) (row pa : Nat) (w : L1Word) : (s.setL1 row pa w).onCore = s.onCore := rfl
@[simp] theorem State.onBc_of_setL1 (s : State) (row pa : Nat) (w : L1Word) : (s.setL1 row pa w).onBc = s.onBc := rfl

@[simp] theorem State.task_of_keepRecord (s : State) (f : FaultRec) (g' : Gtid) : (s.keepRecord f).task g' = s.task g' := rfl
@[simp] theorem State.share_of_keepRecord (s : State) (f : FaultRec) (g' : Gtid) (c' : Nat) : (s.keepRecord f).share g' c' = s.share g' c' := rfl
@[simp] theorem State.memByte_of_keepRecord (s : State) (f : FaultRec) (a : Nat) : (s.keepRecord f).memByte a = s.memByte a := rfl
@[simp] theorem State.tag_of_keepRecord (s : State) (f : FaultRec) (a : Nat) : (s.keepRecord f).tag a = s.tag a := rfl
@[simp] theorem State.reg_of_keepRecord (s : State) (f : FaultRec) (a : Nat) : (s.keepRecord f).reg a = s.reg a := rfl
@[simp] theorem State.line_of_keepRecord (s : State) (f : FaultRec) (a : Nat) : (s.keepRecord f).line a = s.line a := rfl
@[simp] theorem State.l1_of_keepRecord (s : State) (f : FaultRec) (row' a : Nat) : (s.keepRecord f).l1 row' a = s.l1 row' a := rfl
@[simp] theorem State.curGtid_of_keepRecord (s : State) (f : FaultRec) : (s.keepRecord f).curGtid = s.curGtid := rfl
@[simp] theorem State.curCore_of_keepRecord (s : State) (f : FaultRec) : (s.keepRecord f).curCore = s.curCore := rfl
@[simp] theorem State.onCore_of_keepRecord (s : State) (f : FaultRec) : (s.keepRecord f).onCore = s.onCore := rfl
@[simp] theorem State.onBc_of_keepRecord (s : State) (f : FaultRec) : (s.keepRecord f).onBc = s.onBc := rfl

@[simp] theorem State.task_of_push (s : State) (i : Instr) (g' : Gtid) : (s.push i).task g' = s.task g' := rfl
@[simp] theorem State.share_of_push (s : State) (i : Instr) (g' : Gtid) (c' : Nat) : (s.push i).share g' c' = s.share g' c' := rfl
@[simp] theorem State.memByte_of_push (s : State) (i : Instr) (a : Nat) : (s.push i).memByte a = s.memByte a := rfl
@[simp] theorem State.tag_of_push (s : State) (i : Instr) (a : Nat) : (s.push i).tag a = s.tag a := rfl
@[simp] theorem State.reg_of_push (s : State) (i : Instr) (a : Nat) : (s.push i).reg a = s.reg a := rfl
@[simp] theorem State.line_of_push (s : State) (i : Instr) (a : Nat) : (s.push i).line a = s.line a := rfl
@[simp] theorem State.l1_of_push (s : State) (i : Instr) (row' a : Nat) : (s.push i).l1 row' a = s.l1 row' a := rfl
@[simp] theorem State.curGtid_of_push (s : State) (i : Instr) : (s.push i).curGtid = s.curGtid := rfl
@[simp] theorem State.curCore_of_push (s : State) (i : Instr) : (s.push i).curCore = s.curCore := rfl
@[simp] theorem State.onCore_of_push (s : State) (i : Instr) : (s.push i).onCore = s.onCore := rfl
@[simp] theorem State.onBc_of_push (s : State) (i : Instr) : (s.push i).onBc = s.onBc := rfl

end Sys2Proof.Machine
end

