-- ==== Sys2Proof/Laws/Memory.lean ====
section
/-! SUPPORT. Memory: what reads give after writes, which bytes and tags a write leaves alone, and that every operation
that changes memory or tags keeps their canonical form. -/

namespace Sys2Proof.Machine

/-! ### Bytes after a write -/

/-- Writing `n` bytes leaves every byte outside them. -/
theorem State.memByte_memWrite_out (n : Nat) : ∀ (s : State) (pa v a : Nat), (a < pa ∨ pa + n ≤ a) →
    (s.memWrite pa n v).memByte a = s.memByte a := by
  induction n with
  | zero => intro s pa v a _; rfl
  | succ n ih =>
    intro s pa v a h
    rw [State.memWrite, ih _ _ _ _ (by omega), State.memByte_setMemByte_ne]
    omega

/-- The bytes written are the bytes of the value, least significant first (R6). -/
theorem State.memByte_memWrite_in (n : Nat) : ∀ (s : State) (pa v k : Nat), k < n →
    (s.memWrite pa n v).memByte (pa + k) = BitVec.ofNat 8 (v / 256 ^ k) := by
  induction n with
  | zero => intro s pa v k h; omega
  | succ n ih =>
    intro s pa v k h
    rw [State.memWrite]
    cases k with
    | zero => rw [State.memByte_memWrite_out _ _ _ _ _ (by omega)]; simp
    | succ k =>
      rw [show pa + (k + 1) = pa + 1 + k by omega, ih _ _ _ _ (by omega), Nat.div_div_eq_div_mul, Nat.pow_succ, Nat.mul_comm]

/-- Reading `n` bytes depends on those bytes alone. -/
theorem State.memRead_congr {s t : State} (n : Nat) : ∀ pa : Nat, (∀ k, k < n → s.memByte (pa + k) = t.memByte (pa + k)) →
    s.memRead pa n = t.memRead pa n := by
  induction n with
  | zero => intro pa _; rfl
  | succ n ih =>
    intro pa h
    have h0 : s.memByte pa = t.memByte pa := h 0 (by omega)
    rw [State.memRead, State.memRead, h0, ih (pa + 1) fun k hk => by rw [Nat.add_right_comm]; exact h (k + 1) (by omega)]

/-- A read of what was written gives the value, modulo its width. -/
theorem State.memRead_memWrite (n : Nat) : ∀ (s : State) (pa v : Nat), (s.memWrite pa n v).memRead pa n = v % 256 ^ n := by
  induction n with
  | zero => intro s pa v; simp [State.memRead, Nat.mod_one]
  | succ n ih =>
    intro s pa v
    rw [State.memRead]
    have h0 : (s.memWrite pa (n + 1) v).memByte pa = BitVec.ofNat 8 v := by
      simpa using s.memByte_memWrite_in (n + 1) pa v 0 (by omega)
    rw [h0, State.memWrite, ih, BitVec.toNat_ofNat, show 256 ^ (n + 1) = 256 * 256 ^ n by rw [Nat.pow_succ, Nat.mul_comm]]
    exact Nat.mod_mul.symm

theorem State.memRead_memWrite_out (s : State) (pa n v a m : Nat) (h : a + m ≤ pa ∨ pa + n ≤ a) :
    (s.memWrite pa n v).memRead a m = s.memRead a m :=
  State.memRead_congr m a fun k hk => State.memByte_memWrite_out n s pa v (a + k) (by omega)

/-- An aligned word after it is written. -/
theorem State.memWord_setMemWord (s : State) (pa : Nat) (w : Word) : (s.setMemWord pa w).memWord pa = w := by
  rw [State.memWord, State.setMemWord, State.memRead_memWrite]
  apply BitVec.eq_of_toNat_eq
  have := w.isLt
  simp
  omega

theorem State.memWord_setMemWord_ne (s : State) {pa a : Nat} (w : Word) (h : wordAddr a ≠ wordAddr pa) :
    (s.setMemWord pa w).memWord a = s.memWord a := by
  rw [State.memWord, State.setMemWord, State.memRead_memWrite_out]
  · rfl
  · simp only [wordAddr] at *; omega

/-! ### The canonical form -/

theorem State.wf_setMemByte {s : State} (pa : Nat) (b : Byte) (h : Memory.wf s.mem = true) : Memory.wf (s.setMemByte pa b).mem = true :=
  Tbl.wf_set pa b h

/-- A write of bytes changes memory alone, and keeps its form. -/
theorem State.memWrite_keeps (n : Nat) : ∀ (s : State) (pa v : Nat),
    (∃ m, s.memWrite pa n v = { s with mem := m }) ∧ (Memory.wf s.mem = true → Memory.wf (s.memWrite pa n v).mem = true) := by
  induction n with
  | zero => intro s pa v; exact ⟨⟨s.mem, rfl⟩, id⟩
  | succ n ih =>
    intro s pa v
    obtain ⟨⟨m, hm⟩, hw⟩ := ih (s.setMemByte pa (BitVec.ofNat 8 v)) (pa + 1) (v / 256)
    exact ⟨⟨m, hm.trans rfl⟩, fun h => hw (s.wf_setMemByte _ _ h)⟩

theorem State.memWrite_tags (s : State) (pa n v : Nat) : (s.memWrite pa n v).tags = s.tags := by
  obtain ⟨⟨m, hm⟩, _⟩ := State.memWrite_keeps n s pa v
  rw [hm]

end Sys2Proof.Machine

namespace Sys2Proof

open Sys2Proof.Machine

/-- What neither memory nor tags see keeps their form. -/
theorem canonicalMem_of_eq {s t : State} (hm : t.mem = s.mem) (ht : t.tags = s.tags) (h : canonicalMem s) : canonicalMem t := by
  rw [canonicalMem, hm, ht]
  exact h

theorem canonicalMem_memWrite {s : State} (pa n v : Nat) (h : canonicalMem s) : canonicalMem (s.memWrite pa n v) :=
  ⟨(State.memWrite_keeps n s pa v).2 h.1, by rw [s.memWrite_tags]; exact h.2⟩

theorem canonicalMem_setMemByte {s : State} (pa : Nat) (b : Byte) (h : canonicalMem s) : canonicalMem (s.setMemByte pa b) :=
  ⟨s.wf_setMemByte pa b h.1, h.2⟩

theorem canonicalMem_setMemWord {s : State} (pa : Nat) (w : Word) (h : canonicalMem s) : canonicalMem (s.setMemWord pa w) :=
  canonicalMem_memWrite _ _ _ h

theorem canonicalMem_setTag {s : State} (pa : Nat) (b : Bool) (h : canonicalMem s) : canonicalMem (s.setTag pa b) :=
  ⟨h.1, Tbl.wf_set _ b h.2⟩

/-- Memory and tags from which entries are taken, as for a fresh unit or a zeroed frame, keep their form. -/
theorem canonicalMem_filter {s : State} (p : Nat × Byte → Bool) (q : Nat × Bool → Bool) (h : canonicalMem s) :
    canonicalMem { s with mem := s.mem.filter p, tags := s.tags.filter q } :=
  ⟨Tbl.wf_filter p h.1, Tbl.wf_filter q h.2⟩

theorem canonicalMem_filterTags {s : State} (q : Nat × Bool → Bool) (h : canonicalMem s) :
    canonicalMem { s with tags := s.tags.filter q } :=
  ⟨h.1, Tbl.wf_filter q h.2⟩

/-- A loop of which every turn keeps the form keeps it. -/
theorem canonicalMem_foldl {α : Type} (f : State → α → State) (l : List α) (hf : ∀ s, ∀ a ∈ l, canonicalMem s → canonicalMem (f s a)) :
    ∀ s, canonicalMem s → canonicalMem (l.foldl f s) := by
  induction l with
  | nil => intro s h; exact h
  | cons a l ih =>
    intro s h
    exact ih (fun s b hb => hf s b (List.mem_cons_of_mem _ hb)) _ (hf s a List.mem_cons_self h)

end Sys2Proof
end

