-- ==== Sys2Proof/Laws/Registers.lean ====
section
/-! SUPPORT. What the shared operations on registers do: an integer register, a predicate and the sticky flags of the
executing unit are written, and nothing else changes; a guarded syllable runs or has no effect. -/

namespace Sys2Proof.Machine

@[simp] theorem State.modCurTask_task (s : State) (h : Task → Task) :
    (s.modCurTask h).task s.curGtid = h (s.task s.curGtid) := s.task_modTask_self _ h

@[simp] theorem State.modCurShare_share (s : State) (h : Share → Share) :
    (s.modCurShare h).share s.curGtid s.curCore = h (s.share s.curGtid s.curCore) := s.share_modShare_self _ _ h

/-- R61: what a guarded syllable answers. -/
theorem State.guarded_true (s : State) {g : Guard} (h : State → State) (hg : s.guardTrue g = true) :
    s.guarded g h = .next (h s) := by
  rw [State.guarded, if_pos hg]

theorem State.guarded_false (s : State) {g : Guard} (h : State → State) (hg : s.guardTrue g = false) :
    s.guarded g h = .next s := by
  simp [State.guarded, hg]

end Sys2Proof.Machine

namespace Sys2Proof

open Sys2Proof.Machine

/-- What writing an integer register of the executing unit does. -/
theorem wrInt_writes (s : State) (d : BitVec 6) (v : Word) :
    liveInt (s.wrInt d v) d = (if keptByV s d.toNat then liveInt s d else v) ∧ onlyInt s (s.wrInt d v) d := by
  have ne (n : BitVec 6) (h : n ≠ d) : n.toNat ≠ d.toNat := fun e => h (BitVec.eq_of_toNat_eq e)
  unfold State.wrInt keptByV onlyInt unitFrame
  cases hc : s.onCore with
  | true =>
    have hb : s.onBc = false := by cases h : s.cur <;> simp_all [State.onCore, State.onBc]
    refine ⟨by simp [liveInt, curShare, hc, hb], ⟨?_, ?_, ?_, ?_, ?_⟩, ?_⟩ <;> simp only [if_true]
    · simp [State.modCurShare, State.modShare, State.setShare]
    · simp
    · exact fun g c h => s.share_modShare_ne _ h
    · rfl
    · simp [curShare]
    · intro n h
      simp [liveInt, curShare, hc, Tbl.get_set_ne _ _ _ (ne n h)]
  | false =>
    simp only [Bool.false_eq_true, if_false]
    split
    · next hk =>
      simp
      refine ⟨rfl, ?_⟩
      simp [curShare]
    · next hk =>
      have key (l : List Nat) : ∀ u : State, u = { s with vDests := l } →
          liveInt (u.modCurTask fun t => { t with r := Tbl.set 0 t.r d.toNat v }) d = v ∧
          unitFrame (fun s t => { t with tasks := s.tasks, shares := s.shares, vDests := s.vDests })
            (fun a b => { b with r := a.r }) (fun _ b => b) s
              (u.modCurTask fun t => { t with r := Tbl.set 0 t.r d.toNat v }) ∧
          ∀ n, n ≠ d → liveInt (u.modCurTask fun t => { t with r := Tbl.set 0 t.r d.toNat v }) n = liveInt s n := by
        rintro u rfl
        have hc' : State.onCore { s with vDests := l } = false := hc
        refine ⟨by simp [liveInt, curTask, hc'], ⟨rfl, ?_, fun g c _ => rfl, ?_, rfl⟩, ?_⟩
        · exact fun g h => State.task_modTask_ne { s with vDests := l } _ h
        · have := State.modCurTask_task { s with vDests := l } fun t => { t with r := Tbl.set 0 t.r d.toNat v }
          exact congrArg (fun b : Task => { b with r := (curTask s).r }) this
        · intro n h
          simp [liveInt, curTask, hc, hc', Tbl.get_set_ne _ _ _ (ne n h)]; rfl
      split
      · exact key _ _ rfl
      · exact key s.vDests _ rfl

end Sys2Proof
end

