-- ==== Sys2Proof/Laws/Ops.lean ====
section
/-! SUPPORT. What the other shared operations do: a predicate is written, sticky flags are gathered, a fault is raised and
taken, and nothing else changes. -/

namespace Sys2Proof

open Sys2Proof.Machine

theorem setPred_get (p : BitVec 32) (d n : Nat) (b : Bool) (hd : d < 32) (hn : n < 32) :
    (setPred p d b ||| 1).getLsbD n = if n = 0 then true else if n = d then b else p.getLsbD n := by
  have h1 : (1 : BitVec 32).getLsbD n = decide (n = 0) := by
    rw [show (1 : BitVec 32) = BitVec.twoPow 32 0 from rfl, BitVec.getLsbD_twoPow]
    by_cases h : n = 0 <;> simp [h, eq_comm]
  have ht : (BitVec.twoPow 32 d).getLsbD n = decide (n = d) := by
    rw [BitVec.getLsbD_twoPow]
    by_cases h : n = d
    · simp [h, hd]
    · have h' : ¬ d = n := fun e => h e.symm
      simp [h, h']
  unfold setPred
  by_cases h0 : n = 0
  · simp [h0]
  · cases b
    · simp only [Bool.false_eq_true, if_false, BitVec.getLsbD_or, BitVec.getLsbD_and, BitVec.getLsbD_not, h1, ht, hn, decide_true,
        Bool.true_and, h0, decide_false, Bool.or_false]
      by_cases h : n = d <;> simp [h]
    · simp only [if_true, BitVec.getLsbD_or, h1, ht, h0, decide_false, Bool.or_false, if_false]
      by_cases h : n = d <;> simp [h]

/-- What writing a predicate of the executing unit does: p0 keeps reading 1 (R27). -/
theorem wrPred_writes (s : State) (d : BitVec 6) (b : Bool) (hd : d.toNat < 32) :
    livePred (s.wrPred d.toNat b) d.toNat = (d = 0 || b) ∧ onlyPred s (s.wrPred d.toNat b) d := by
  have key (p : BitVec 32) : (setPred p d.toNat b ||| 1).getLsbD d.toNat = (d = 0 || b) := by
    rw [setPred_get _ _ _ _ hd hd]
    by_cases h : d = 0
    · rw [h]; rfl
    · have : d.toNat ≠ 0 := fun e => h (BitVec.eq_of_toNat_eq e)
      rw [if_neg this, if_pos rfl, decide_eq_false h, Bool.false_or]
  unfold State.wrPred onlyPred unitFrame
  cases hc : s.onCore with
  | true =>
    simp only [if_true]
    have ho : (s.modCurShare fun h => { h with p := setPred h.p d.toNat b }).onCore = true := hc
    refine ⟨?_, ⟨rfl, fun g _ => rfl, fun g c h => s.share_modShare_ne _ h, rfl, ?_⟩, ?_⟩
    · simp only [livePred, ho, if_true, curShare]
      rw [show (s.modCurShare fun h => { h with p := setPred h.p d.toNat b }).curGtid = s.curGtid from rfl,
        show (s.modCurShare fun h => { h with p := setPred h.p d.toNat b }).curCore = s.curCore from rfl,
        State.modCurShare_share]
      exact key _
    · have := State.modCurShare_share s fun h => { h with p := setPred h.p d.toNat b }
      exact congrArg (fun x : Share => { x with p := (curShare s).p }) this
    · intro n hn hne
      simp only [livePred, hc, ho, if_true, curShare]
      rw [show (s.modCurShare fun h => { h with p := setPred h.p d.toNat b }).curGtid = s.curGtid from rfl,
        show (s.modCurShare fun h => { h with p := setPred h.p d.toNat b }).curCore = s.curCore from rfl,
        State.modCurShare_share, setPred_get _ _ _ _ hd hn]
      by_cases h0 : n = 0 <;> simp [h0, hne]
  | false =>
    simp only [Bool.false_eq_true, if_false]
    have ho : (s.modCurTask fun t => { t with p := setPred t.p d.toNat b }).onCore = false := hc
    refine ⟨?_, ⟨rfl, fun g h => s.task_modTask_ne _ h, fun g c _ => rfl, ?_, rfl⟩, ?_⟩
    · simp only [livePred, ho, Bool.false_eq_true, if_false, curTask]
      rw [show (s.modCurTask fun t => { t with p := setPred t.p d.toNat b }).curGtid = s.curGtid from rfl,
        State.modCurTask_task]
      exact key _
    · have := State.modCurTask_task s fun t => { t with p := setPred t.p d.toNat b }
      exact congrArg (fun x : Task => { x with p := (curTask s).p }) this
    · intro n hn hne
      simp only [livePred, hc, ho, Bool.false_eq_true, if_false, curTask]
      rw [show (s.modCurTask fun t => { t with p := setPred t.p d.toNat b }).curGtid = s.curGtid from rfl,
        State.modCurTask_task, setPred_get _ _ _ _ hd hn]
      by_cases h0 : n = 0 <;> simp [h0, hne]

/-- Gathering sticky flags changes the fmode of the executing context alone (R174). -/
theorem orFlags_gathers (s : State) (w : Word) :
    liveFmode (s.orFlags w) = liveFmode s ||| w ∧ (s.orFlags w).flagAcc = s.flagAcc ||| w ∧
      ∀ n, liveInt (s.orFlags w) n = liveInt s n := by
  unfold State.orFlags
  cases hc : s.onCore with
  | true =>
    have ho : State.onCore { s with flagAcc := s.flagAcc ||| w } = true := hc
    simp only [ho, if_true]
    have hs := State.modCurShare_share { s with flagAcc := s.flagAcc ||| w } fun h => { h with fmode := h.fmode ||| w }
    have ho' : (State.modCurShare { s with flagAcc := s.flagAcc ||| w } fun h => { h with fmode := h.fmode ||| w }).onCore = true := hc
    refine ⟨?_, rfl, fun n => ?_⟩
    · simp only [liveFmode, ho', hc, if_true]
      have h2 := congrArg Share.fmode hs
      exact h2
    · simp only [liveInt, ho', hc, if_true]
      have h2 := congrArg (fun h : Share => Tbl.get 0 h.a n.toNat) hs
      exact h2
  | false =>
    have ho : State.onCore { s with flagAcc := s.flagAcc ||| w } = false := hc
    simp only [ho, Bool.false_eq_true, if_false]
    have hs := State.modCurTask_task { s with flagAcc := s.flagAcc ||| w } fun t => { t with fmode := t.fmode ||| w }
    have ho' : (State.modCurTask { s with flagAcc := s.flagAcc ||| w } fun t => { t with fmode := t.fmode ||| w }).onCore = false := hc
    refine ⟨?_, rfl, fun n => ?_⟩
    · simp only [liveFmode, ho', hc, Bool.false_eq_true, if_false]
      have h2 := congrArg Task.fmode hs
      exact h2
    · simp only [liveInt, ho', hc, Bool.false_eq_true, if_false]
      have h2 := congrArg (fun t : Task => Tbl.get 0 t.r n.toNat) hs
      exact h2

/-- Raising a fault notes it, and changes nothing else. -/
@[simp] theorem raise_notes (s : State) (r : Raised) : s.raise r = { s with raised := s.raised ++ [r] } := rfl

/-- Taking a fault on a binning thread holds its task and keeps the record; every other task and every byte stays (R322, R335). -/
theorem takeBcFault_holds (s : State) (g : Gtid) (r : Raised) (a : Word) (tr : Bool) :
    (s.takeBcFault g r a tr).task g = (s.task g).hold (if tr then .translation else .fault) ∧
      (s.takeBcFault g r a tr).faultPend = s.faultPend ++ [{ s.recordOf g r 0 a false with wakes := tr }] ∧
      (∀ g', g' ≠ g → (s.takeBcFault g r a tr).task g' = s.task g') ∧ (s.takeBcFault g r a tr).mem = s.mem :=
  ⟨s.task_modTask_self g fun t => t.hold (if tr then .translation else .fault), rfl,
    fun _ h => s.task_modTask_ne (fun t => t.hold (if tr then .translation else .fault)) h, rfl⟩

end Sys2Proof
end

