-- ==== Sys2Proof/Laws/PerInstr.lean ====
section
/-! SUPPORT. Per instruction: a well-formed syllable, encoded, is cut and named again as it was (R60 to R73, R79 to R82). -/

namespace Sys2Proof.Laws

/-- What the encoder writes of `i`, where some unit finds `i` well-formed, is neither the all-zero nor the all-one word
(but for NOP), is cut into fields again, and names `i`, with the format's reserved bits zero. -/
def Encoding.Statement (i : Instr) : Prop :=
  ∀ (u : UnitKind) (w lit : Word), i.wellFormed u = true → encode i = some (w, lit) →
    i = .nop ∨ (w ≠ 0 ∧ w ≠ BitVec.allOnes 64 ∧ ∃ e, parse w lit = some e ∧ e.instr? = some i ∧ e.rsvZero = true)

/-- A step that is no syllable has no encoding. -/
theorem Encoding.of_none {i : Instr} (hn : i ≠ .nop) (he : i.enc = none) : Encoding.Statement i := by
  intro u w lit _ h
  unfold encode at h
  split at h
  · exact absurd rfl hn
  · simp [he] at h

theorem Encoding.of_a {i : Instr} {maj : BitVec 7} {min : BitVec 8} {f : FmtA} (he : i.enc = some (.a maj min 0 f))
    (hf : formatOf maj.toNat = some .a) (hi : ∀ u, i.wellFormed u = true → (Enc.a maj min 0 f).instr? = some i)
    (ho : maj ≠ BitVec.allOnes 7) (hz : maj ≠ 0 ∨ min ≠ 0) : Encoding.Statement i := by
  intro u w lit hw h
  unfold encode at h
  split at h
  · exact .inl rfl
  · simp only [he, Option.some.injEq, Prod.mk.injEq] at h
    obtain ⟨rfl, rfl⟩ := h
    refine .inr ⟨?_, word_ne_ones (bits_a_maj maj min 0 f) ho, _, parse_a maj min 0 f 0 hf, hi u hw, rfl⟩
    rcases hz with hz | hz
    · exact word_ne_zero (bits_a_maj maj min 0 f) hz
    · exact word_ne_zero (bits_a_min maj min 0 f) hz

theorem Encoding.of_i {i : Instr} {maj : BitVec 7} {min : BitVec 4} {f : FmtI} (he : i.enc = some (.i maj min 0 f))
    (hf : formatOf maj.toNat = some .i) (hi : ∀ u, i.wellFormed u = true → (Enc.i maj min 0 f).instr? = some i)
    (ho : maj ≠ BitVec.allOnes 7) (hz : maj ≠ 0 ∨ min ≠ 0) : Encoding.Statement i := by
  intro u w lit hw h
  unfold encode at h
  split at h
  · exact .inl rfl
  · simp only [he, Option.some.injEq, Prod.mk.injEq] at h
    obtain ⟨rfl, rfl⟩ := h
    refine .inr ⟨?_, word_ne_ones (bits_i_maj maj min 0 f) ho, _, parse_i maj min 0 f 0 hf, hi u hw, rfl⟩
    rcases hz with hz | hz
    · exact word_ne_zero (bits_i_maj maj min 0 f) hz
    · exact word_ne_zero (bits_i_min maj min 0 f) hz

theorem Encoding.of_b {i : Instr} {maj : BitVec 7} {min : BitVec 4} {f : FmtB} (he : i.enc = some (.b maj min f))
    (hf : formatOf maj.toNat = some .b) (hi : ∀ u, i.wellFormed u = true → (Enc.b maj min f).instr? = some i)
    (ho : maj ≠ BitVec.allOnes 7) (hz : maj ≠ 0 ∨ min ≠ 0) : Encoding.Statement i := by
  intro u w lit hw h
  unfold encode at h
  split at h
  · exact .inl rfl
  · simp only [he, Option.some.injEq, Prod.mk.injEq] at h
    obtain ⟨rfl, rfl⟩ := h
    refine .inr ⟨?_, word_ne_ones (bits_b_maj maj min f) ho, _, parse_b maj min f 0 hf, hi u hw, rfl⟩
    rcases hz with hz | hz
    · exact word_ne_zero (bits_b_maj maj min f) hz
    · exact word_ne_zero (bits_b_min maj min f) hz

theorem Encoding.of_m {i : Instr} {maj : BitVec 7} {min : BitVec 5} {f : FmtM} (he : i.enc = some (.m maj min f))
    (hf : formatOf maj.toNat = some .m) (hi : ∀ u, i.wellFormed u = true → (Enc.m maj min f).instr? = some i)
    (ho : maj ≠ BitVec.allOnes 7) (hz : maj ≠ 0 ∨ min ≠ 0) : Encoding.Statement i := by
  intro u w lit hw h
  unfold encode at h
  split at h
  · exact .inl rfl
  · simp only [he, Option.some.injEq, Prod.mk.injEq] at h
    obtain ⟨rfl, rfl⟩ := h
    refine .inr ⟨?_, word_ne_ones (bits_m_maj maj min f) ho, _, parse_m maj min f 0 hf, hi u hw, rfl⟩
    rcases hz with hz | hz
    · exact word_ne_zero (bits_m_maj maj min f) hz
    · exact word_ne_zero (bits_m_min maj min f) hz

theorem Encoding.of_v {i : Instr} {maj : BitVec 7} {min : BitVec 8} {f : FmtV} (he : i.enc = some (.v maj min f))
    (hf : formatOf maj.toNat = some .v) (hi : ∀ u, i.wellFormed u = true → (Enc.v maj min f).instr? = some i)
    (ho : maj ≠ BitVec.allOnes 7) (hz : maj ≠ 0 ∨ min ≠ 0) : Encoding.Statement i := by
  intro u w lit hw h
  unfold encode at h
  split at h
  · exact .inl rfl
  · simp only [he, Option.some.injEq, Prod.mk.injEq] at h
    obtain ⟨rfl, rfl⟩ := h
    refine .inr ⟨?_, word_ne_ones (bits_v_maj maj min f) ho, _, parse_v maj min f 0 hf, hi u hw, rfl⟩
    rcases hz with hz | hz
    · exact word_ne_zero (bits_v_maj maj min f) hz
    · exact word_ne_zero (bits_v_min maj min f) hz

theorem Encoding.of_e {i : Instr} {maj : BitVec 7} {min : BitVec 7} {f : FmtE} (he : i.enc = some (.e maj min f))
    (hf : formatOf maj.toNat = some .e) (hi : ∀ u, i.wellFormed u = true → (Enc.e maj min f).instr? = some i)
    (ho : maj ≠ BitVec.allOnes 7) (hz : maj ≠ 0 ∨ min ≠ 0) : Encoding.Statement i := by
  intro u w lit hw h
  unfold encode at h
  split at h
  · exact .inl rfl
  · simp only [he, Option.some.injEq, Prod.mk.injEq] at h
    obtain ⟨rfl, rfl⟩ := h
    refine .inr ⟨?_, word_ne_ones (bits_e_maj maj min f) ho, _, parse_e maj min f 0 hf, hi u hw, rfl⟩
    rcases hz with hz | hz
    · exact word_ne_zero (bits_e_maj maj min f) hz
    · exact word_ne_zero (bits_e_min maj min f) hz

theorem Encoding.of_l {i : Instr} {maj : BitVec 7} {min : BitVec 4} {f : FmtL} (he : i.enc = some (.l maj min 0 f))
    (hf : formatOf maj.toNat = some .l) (hi : ∀ u, i.wellFormed u = true → (Enc.l maj min 0 f).instr? = some i)
    (ho : maj ≠ BitVec.allOnes 7) (hz : maj ≠ 0 ∨ min ≠ 0) : Encoding.Statement i := by
  intro u w lit hw h
  unfold encode at h
  split at h
  · exact .inl rfl
  · simp only [he, Option.some.injEq, Prod.mk.injEq] at h
    obtain ⟨rfl, rfl⟩ := h
    refine .inr ⟨?_, word_ne_ones (bits_l_maj maj min 0 f) ho, _, parse_l maj min 0 f hf, hi u hw, rfl⟩
    rcases hz with hz | hz
    · exact word_ne_zero (bits_l_maj maj min 0 f) hz
    · exact word_ne_zero (bits_l_min maj min 0 f) hz

theorem Encoding.nop : Encoding.Statement .nop := fun _ _ _ _ _ => .inl rfl
theorem Encoding.yield (f : FmtA) : Encoding.Statement (.yield f) := Encoding.of_a rfl rfl (fun _ _ => rfl) (by decide) (by decide)
theorem Encoding.exit (f : FmtA) : Encoding.Statement (.exit f) := Encoding.of_a rfl rfl (fun _ _ => rfl) (by decide) (by decide)
theorem Encoding.add (f : FmtA) : Encoding.Statement (.add f) := Encoding.of_a rfl rfl (fun _ _ => rfl) (by decide) (by decide)
theorem Encoding.sub (f : FmtA) : Encoding.Statement (.sub f) := Encoding.of_a rfl rfl (fun _ _ => rfl) (by decide) (by decide)
theorem Encoding.mul (f : FmtA) : Encoding.Statement (.mul f) := Encoding.of_a rfl rfl (fun _ _ => rfl) (by decide) (by decide)
theorem Encoding.mulh (f : FmtA) : Encoding.Statement (.mulh f) := Encoding.of_a rfl rfl (fun _ _ => rfl) (by decide) (by decide)
theorem Encoding.mulhu (f : FmtA) : Encoding.Statement (.mulhu f) := Encoding.of_a rfl rfl (fun _ _ => rfl) (by decide) (by decide)
theorem Encoding.div (f : FmtA) : Encoding.Statement (.div f) := Encoding.of_a rfl rfl (fun _ _ => rfl) (by decide) (by decide)
theorem Encoding.divu (f : FmtA) : Encoding.Statement (.divu f) := Encoding.of_a rfl rfl (fun _ _ => rfl) (by decide) (by decide)
theorem Encoding.rem (f : FmtA) : Encoding.Statement (.rem f) := Encoding.of_a rfl rfl (fun _ _ => rfl) (by decide) (by decide)
theorem Encoding.remu (f : FmtA) : Encoding.Statement (.remu f) := Encoding.of_a rfl rfl (fun _ _ => rfl) (by decide) (by decide)
theorem Encoding.and (f : FmtA) : Encoding.Statement (.and f) := Encoding.of_a rfl rfl (fun _ _ => rfl) (by decide) (by decide)
theorem Encoding.or (f : FmtA) : Encoding.Statement (.or f) := Encoding.of_a rfl rfl (fun _ _ => rfl) (by decide) (by decide)
theorem Encoding.xor (f : FmtA) : Encoding.Statement (.xor f) := Encoding.of_a rfl rfl (fun _ _ => rfl) (by decide) (by decide)
theorem Encoding.andn (f : FmtA) : Encoding.Statement (.andn f) := Encoding.of_a rfl rfl (fun _ _ => rfl) (by decide) (by decide)
theorem Encoding.shl (f : FmtA) : Encoding.Statement (.shl f) := Encoding.of_a rfl rfl (fun _ _ => rfl) (by decide) (by decide)
theorem Encoding.shr (f : FmtA) : Encoding.Statement (.shr f) := Encoding.of_a rfl rfl (fun _ _ => rfl) (by decide) (by decide)
theorem Encoding.sra (f : FmtA) : Encoding.Statement (.sra f) := Encoding.of_a rfl rfl (fun _ _ => rfl) (by decide) (by decide)
theorem Encoding.rot (f : FmtA) : Encoding.Statement (.rot f) := Encoding.of_a rfl rfl (fun _ _ => rfl) (by decide) (by decide)
theorem Encoding.min (f : FmtA) : Encoding.Statement (.min f) := Encoding.of_a rfl rfl (fun _ _ => rfl) (by decide) (by decide)
theorem Encoding.max (f : FmtA) : Encoding.Statement (.max f) := Encoding.of_a rfl rfl (fun _ _ => rfl) (by decide) (by decide)
theorem Encoding.minu (f : FmtA) : Encoding.Statement (.minu f) := Encoding.of_a rfl rfl (fun _ _ => rfl) (by decide) (by decide)
theorem Encoding.maxu (f : FmtA) : Encoding.Statement (.maxu f) := Encoding.of_a rfl rfl (fun _ _ => rfl) (by decide) (by decide)
theorem Encoding.clz (f : FmtA) : Encoding.Statement (.clz f) := Encoding.of_a rfl rfl (fun _ _ => rfl) (by decide) (by decide)
theorem Encoding.popc (f : FmtA) : Encoding.Statement (.popc f) := Encoding.of_a rfl rfl (fun _ _ => rfl) (by decide) (by decide)
theorem Encoding.sel (f : FmtA) : Encoding.Statement (.sel f) := Encoding.of_a rfl rfl (fun _ _ => rfl) (by decide) (by decide)
theorem Encoding.mov (f : FmtA) : Encoding.Statement (.mov f) := Encoding.of_a rfl rfl (fun _ _ => rfl) (by decide) (by decide)
theorem Encoding.sext (f : FmtA) : Encoding.Statement (.sext f) := Encoding.of_a rfl rfl (fun _ _ => rfl) (by decide) (by decide)
theorem Encoding.zext (f : FmtA) : Encoding.Statement (.zext f) := Encoding.of_a rfl rfl (fun _ _ => rfl) (by decide) (by decide)
theorem Encoding.addImm (f : FmtI) : Encoding.Statement (.addImm f) := Encoding.of_i rfl rfl (fun _ _ => rfl) (by decide) (by decide)
theorem Encoding.mulImm (f : FmtI) : Encoding.Statement (.mulImm f) := Encoding.of_i rfl rfl (fun _ _ => rfl) (by decide) (by decide)
theorem Encoding.andImm (f : FmtI) : Encoding.Statement (.andImm f) := Encoding.of_i rfl rfl (fun _ _ => rfl) (by decide) (by decide)
theorem Encoding.orImm (f : FmtI) : Encoding.Statement (.orImm f) := Encoding.of_i rfl rfl (fun _ _ => rfl) (by decide) (by decide)
theorem Encoding.xorImm (f : FmtI) : Encoding.Statement (.xorImm f) := Encoding.of_i rfl rfl (fun _ _ => rfl) (by decide) (by decide)
theorem Encoding.shlImm (f : FmtI) : Encoding.Statement (.shlImm f) := Encoding.of_i rfl rfl (fun _ _ => rfl) (by decide) (by decide)
theorem Encoding.shrImm (f : FmtI) : Encoding.Statement (.shrImm f) := Encoding.of_i rfl rfl (fun _ _ => rfl) (by decide) (by decide)
theorem Encoding.sraImm (f : FmtI) : Encoding.Statement (.sraImm f) := Encoding.of_i rfl rfl (fun _ _ => rfl) (by decide) (by decide)
theorem Encoding.rotImm (f : FmtI) : Encoding.Statement (.rotImm f) := Encoding.of_i rfl rfl (fun _ _ => rfl) (by decide) (by decide)
theorem Encoding.minImm (f : FmtI) : Encoding.Statement (.minImm f) := Encoding.of_i rfl rfl (fun _ _ => rfl) (by decide) (by decide)
theorem Encoding.maxImm (f : FmtI) : Encoding.Statement (.maxImm f) := Encoding.of_i rfl rfl (fun _ _ => rfl) (by decide) (by decide)
theorem Encoding.minuImm (f : FmtI) : Encoding.Statement (.minuImm f) := Encoding.of_i rfl rfl (fun _ _ => rfl) (by decide) (by decide)
theorem Encoding.maxuImm (f : FmtI) : Encoding.Statement (.maxuImm f) := Encoding.of_i rfl rfl (fun _ _ => rfl) (by decide) (by decide)
theorem Encoding.movImm (f : FmtI) : Encoding.Statement (.movImm f) := Encoding.of_i rfl rfl (fun _ _ => rfl) (by decide) (by decide)
theorem Encoding.movh (f : FmtI) : Encoding.Statement (.movh f) := Encoding.of_i rfl rfl (fun _ _ => rfl) (by decide) (by decide)
theorem Encoding.movl (f : FmtL) : Encoding.Statement (.movl f) := Encoding.of_l rfl rfl (fun _ _ => rfl) (by decide) (by decide)
theorem Encoding.cmpEq (f : FmtA) : Encoding.Statement (.cmpEq f) := Encoding.of_a rfl rfl (fun _ _ => rfl) (by decide) (by decide)
theorem Encoding.cmpNe (f : FmtA) : Encoding.Statement (.cmpNe f) := Encoding.of_a rfl rfl (fun _ _ => rfl) (by decide) (by decide)
theorem Encoding.cmpLt (f : FmtA) : Encoding.Statement (.cmpLt f) := Encoding.of_a rfl rfl (fun _ _ => rfl) (by decide) (by decide)
theorem Encoding.cmpGe (f : FmtA) : Encoding.Statement (.cmpGe f) := Encoding.of_a rfl rfl (fun _ _ => rfl) (by decide) (by decide)
theorem Encoding.cmpLtu (f : FmtA) : Encoding.Statement (.cmpLtu f) := Encoding.of_a rfl rfl (fun _ _ => rfl) (by decide) (by decide)
theorem Encoding.cmpGeu (f : FmtA) : Encoding.Statement (.cmpGeu f) := Encoding.of_a rfl rfl (fun _ _ => rfl) (by decide) (by decide)
theorem Encoding.cmpiEq (f : FmtI) : Encoding.Statement (.cmpiEq f) := Encoding.of_i rfl rfl (fun _ _ => rfl) (by decide) (by decide)
theorem Encoding.cmpiNe (f : FmtI) : Encoding.Statement (.cmpiNe f) := Encoding.of_i rfl rfl (fun _ _ => rfl) (by decide) (by decide)
theorem Encoding.cmpiLt (f : FmtI) : Encoding.Statement (.cmpiLt f) := Encoding.of_i rfl rfl (fun _ _ => rfl) (by decide) (by decide)
theorem Encoding.cmpiGe (f : FmtI) : Encoding.Statement (.cmpiGe f) := Encoding.of_i rfl rfl (fun _ _ => rfl) (by decide) (by decide)
theorem Encoding.cmpiLtu (f : FmtI) : Encoding.Statement (.cmpiLtu f) := Encoding.of_i rfl rfl (fun _ _ => rfl) (by decide) (by decide)
theorem Encoding.cmpiGeu (f : FmtI) : Encoding.Statement (.cmpiGeu f) := Encoding.of_i rfl rfl (fun _ _ => rfl) (by decide) (by decide)
theorem Encoding.pand (f : FmtA) : Encoding.Statement (.pand f) := Encoding.of_a rfl rfl (fun _ _ => rfl) (by decide) (by decide)
theorem Encoding.por (f : FmtA) : Encoding.Statement (.por f) := Encoding.of_a rfl rfl (fun _ _ => rfl) (by decide) (by decide)
theorem Encoding.pxor (f : FmtA) : Encoding.Statement (.pxor f) := Encoding.of_a rfl rfl (fun _ _ => rfl) (by decide) (by decide)
theorem Encoding.pandn (f : FmtA) : Encoding.Statement (.pandn f) := Encoding.of_a rfl rfl (fun _ _ => rfl) (by decide) (by decide)
theorem Encoding.pnot (f : FmtA) : Encoding.Statement (.pnot f) := Encoding.of_a rfl rfl (fun _ _ => rfl) (by decide) (by decide)
theorem Encoding.pmov (f : FmtA) : Encoding.Statement (.pmov f) := Encoding.of_a rfl rfl (fun _ _ => rfl) (by decide) (by decide)
theorem Encoding.pget (f : FmtA) : Encoding.Statement (.pget f) := Encoding.of_a rfl rfl (fun _ _ => rfl) (by decide) (by decide)
theorem Encoding.fadd (f : FmtA) : Encoding.Statement (.fadd f) := Encoding.of_a rfl rfl (fun _ _ => rfl) (by decide) (by decide)
theorem Encoding.fsub (f : FmtA) : Encoding.Statement (.fsub f) := Encoding.of_a rfl rfl (fun _ _ => rfl) (by decide) (by decide)
theorem Encoding.fmul (f : FmtA) : Encoding.Statement (.fmul f) := Encoding.of_a rfl rfl (fun _ _ => rfl) (by decide) (by decide)
theorem Encoding.fdiv (f : FmtA) : Encoding.Statement (.fdiv f) := Encoding.of_a rfl rfl (fun _ _ => rfl) (by decide) (by decide)
theorem Encoding.fsqrt (f : FmtA) : Encoding.Statement (.fsqrt f) := Encoding.of_a rfl rfl (fun _ _ => rfl) (by decide) (by decide)
theorem Encoding.fma (f : FmtA) : Encoding.Statement (.fma f) := Encoding.of_a rfl rfl (fun _ _ => rfl) (by decide) (by decide)
theorem Encoding.fmin (f : FmtA) : Encoding.Statement (.fmin f) := Encoding.of_a rfl rfl (fun _ _ => rfl) (by decide) (by decide)
theorem Encoding.fmax (f : FmtA) : Encoding.Statement (.fmax f) := Encoding.of_a rfl rfl (fun _ _ => rfl) (by decide) (by decide)
theorem Encoding.fcmp (f : FmtA) : Encoding.Statement (.fcmp f) := Encoding.of_a rfl rfl (fun _ _ => rfl) (by decide) (by decide)
theorem Encoding.fcvt (f : FmtA) : Encoding.Statement (.fcvt f) := Encoding.of_a rfl rfl (fun _ _ => rfl) (by decide) (by decide)
theorem Encoding.fcvti (f : FmtA) : Encoding.Statement (.fcvti f) := Encoding.of_a rfl rfl (fun _ _ => rfl) (by decide) (by decide)
theorem Encoding.fcvtf (f : FmtA) : Encoding.Statement (.fcvtf f) := Encoding.of_a rfl rfl (fun _ _ => rfl) (by decide) (by decide)
theorem Encoding.br (f : FmtB) : Encoding.Statement (.br f) := Encoding.of_b rfl rfl (fun _ _ => rfl) (by decide) (by decide)
theorem Encoding.brp (f : FmtB) : Encoding.Statement (.brp f) := Encoding.of_b rfl rfl (fun _ _ => rfl) (by decide) (by decide)
theorem Encoding.call (f : FmtB) : Encoding.Statement (.call f) := Encoding.of_b rfl rfl (fun _ _ => rfl) (by decide) (by decide)
theorem Encoding.ret (f : FmtB) : Encoding.Statement (.ret f) := Encoding.of_b rfl rfl (fun _ _ => rfl) (by decide) (by decide)
theorem Encoding.jmpr (f : FmtB) : Encoding.Statement (.jmpr f) := Encoding.of_b rfl rfl (fun _ _ => rfl) (by decide) (by decide)
theorem Encoding.loop (f : FmtB) : Encoding.Statement (.loop f) := Encoding.of_b rfl rfl (fun _ _ => rfl) (by decide) (by decide)
theorem Encoding.nexttile (f : FmtB) : Encoding.Statement (.nexttile f) := Encoding.of_b rfl rfl (fun _ _ => rfl) (by decide) (by decide)
theorem Encoding.ld8 (f : FmtM) : Encoding.Statement (.ld8 f) := Encoding.of_m rfl rfl (fun _ _ => rfl) (by decide) (by decide)
theorem Encoding.ld8sx (f : FmtM) : Encoding.Statement (.ld8sx f) := Encoding.of_m rfl rfl (fun _ _ => rfl) (by decide) (by decide)
theorem Encoding.ld16 (f : FmtM) : Encoding.Statement (.ld16 f) := Encoding.of_m rfl rfl (fun _ _ => rfl) (by decide) (by decide)
theorem Encoding.ld16sx (f : FmtM) : Encoding.Statement (.ld16sx f) := Encoding.of_m rfl rfl (fun _ _ => rfl) (by decide) (by decide)
theorem Encoding.ld32 (f : FmtM) : Encoding.Statement (.ld32 f) := Encoding.of_m rfl rfl (fun _ _ => rfl) (by decide) (by decide)
theorem Encoding.ld32sx (f : FmtM) : Encoding.Statement (.ld32sx f) := Encoding.of_m rfl rfl (fun _ _ => rfl) (by decide) (by decide)
theorem Encoding.ld64 (f : FmtM) : Encoding.Statement (.ld64 f) := Encoding.of_m rfl rfl (fun _ _ => rfl) (by decide) (by decide)
theorem Encoding.st8 (f : FmtM) : Encoding.Statement (.st8 f) := Encoding.of_m rfl rfl (fun _ _ => rfl) (by decide) (by decide)
theorem Encoding.st16 (f : FmtM) : Encoding.Statement (.st16 f) := Encoding.of_m rfl rfl (fun _ _ => rfl) (by decide) (by decide)
theorem Encoding.st32 (f : FmtM) : Encoding.Statement (.st32 f) := Encoding.of_m rfl rfl (fun _ _ => rfl) (by decide) (by decide)
theorem Encoding.st64 (f : FmtM) : Encoding.Statement (.st64 f) := Encoding.of_m rfl rfl (fun _ _ => rfl) (by decide) (by decide)
theorem Encoding.lda (f : FmtM) : Encoding.Statement (.lda f) := Encoding.of_m rfl rfl (fun _ _ => rfl) (by decide) (by decide)
theorem Encoding.stl (f : FmtM) : Encoding.Statement (.stl f) := Encoding.of_m rfl rfl (fun _ _ => rfl) (by decide) (by decide)
theorem Encoding.lea (f : FmtM) : Encoding.Statement (.lea f) := Encoding.of_m rfl rfl (fun _ _ => rfl) (by decide) (by decide)
theorem Encoding.amoFadd (f : FmtM) : Encoding.Statement (.amoFadd f) := Encoding.of_m rfl rfl (fun _ _ => rfl) (by decide) (by decide)
theorem Encoding.amoSwap (f : FmtM) : Encoding.Statement (.amoSwap f) := Encoding.of_m rfl rfl (fun _ _ => rfl) (by decide) (by decide)
theorem Encoding.amoCas (f : FmtM) : Encoding.Statement (.amoCas f) := Encoding.of_m rfl rfl (fun _ _ => rfl) (by decide) (by decide)
theorem Encoding.amoMin (f : FmtM) : Encoding.Statement (.amoMin f) := Encoding.of_m rfl rfl (fun _ _ => rfl) (by decide) (by decide)
theorem Encoding.amoMax (f : FmtM) : Encoding.Statement (.amoMax f) := Encoding.of_m rfl rfl (fun _ _ => rfl) (by decide) (by decide)
theorem Encoding.amoMinu (f : FmtM) : Encoding.Statement (.amoMinu f) := Encoding.of_m rfl rfl (fun _ _ => rfl) (by decide) (by decide)
theorem Encoding.amoMaxu (f : FmtM) : Encoding.Statement (.amoMaxu f) := Encoding.of_m rfl rfl (fun _ _ => rfl) (by decide) (by decide)
theorem Encoding.amoAnd (f : FmtM) : Encoding.Statement (.amoAnd f) := Encoding.of_m rfl rfl (fun _ _ => rfl) (by decide) (by decide)
theorem Encoding.amoOr (f : FmtM) : Encoding.Statement (.amoOr f) := Encoding.of_m rfl rfl (fun _ _ => rfl) (by decide) (by decide)
theorem Encoding.amoXor (f : FmtM) : Encoding.Statement (.amoXor f) := Encoding.of_m rfl rfl (fun _ _ => rfl) (by decide) (by decide)
theorem Encoding.fence (f : FmtA) : Encoding.Statement (.fence f) := Encoding.of_a rfl rfl (fun _ _ => rfl) (by decide) (by decide)
theorem Encoding.fenceAcq (f : FmtA) : Encoding.Statement (.fenceAcq f) := Encoding.of_a rfl rfl (fun _ _ => rfl) (by decide) (by decide)
theorem Encoding.fenceRel (f : FmtA) : Encoding.Statement (.fenceRel f) := Encoding.of_a rfl rfl (fun _ _ => rfl) (by decide) (by decide)
theorem Encoding.pin (f : FmtA) : Encoding.Statement (.pin f) := Encoding.of_a rfl rfl (fun _ _ => rfl) (by decide) (by decide)
theorem Encoding.unpin (f : FmtA) : Encoding.Statement (.unpin f) := Encoding.of_a rfl rfl (fun _ _ => rfl) (by decide) (by decide)
theorem Encoding.ldfe (f : FmtM) : Encoding.Statement (.ldfe f) := Encoding.of_m rfl rfl (fun _ _ => rfl) (by decide) (by decide)
theorem Encoding.ldff (f : FmtM) : Encoding.Statement (.ldff f) := Encoding.of_m rfl rfl (fun _ _ => rfl) (by decide) (by decide)
theorem Encoding.stef (f : FmtM) : Encoding.Statement (.stef f) := Encoding.of_m rfl rfl (fun _ _ => rfl) (by decide) (by decide)
theorem Encoding.stff (f : FmtM) : Encoding.Statement (.stff f) := Encoding.of_m rfl rfl (fun _ _ => rfl) (by decide) (by decide)
theorem Encoding.sete (f : FmtM) : Encoding.Statement (.sete f) := Encoding.of_m rfl rfl (fun _ _ => rfl) (by decide) (by decide)
theorem Encoding.setf (f : FmtM) : Encoding.Statement (.setf f) := Encoding.of_m rfl rfl (fun _ _ => rfl) (by decide) (by decide)
theorem Encoding.csrr (f : FmtA) : Encoding.Statement (.csrr f) := Encoding.of_a rfl rfl (fun _ _ => rfl) (by decide) (by decide)
theorem Encoding.csrw (f : FmtA) : Encoding.Statement (.csrw f) := Encoding.of_a rfl rfl (fun _ _ => rfl) (by decide) (by decide)
theorem Encoding.csrs (f : FmtA) : Encoding.Statement (.csrs f) := Encoding.of_a rfl rfl (fun _ _ => rfl) (by decide) (by decide)
theorem Encoding.csrc (f : FmtA) : Encoding.Statement (.csrc f) := Encoding.of_a rfl rfl (fun _ _ => rfl) (by decide) (by decide)
theorem Encoding.time (f : FmtA) : Encoding.Statement (.time f) := Encoding.of_a rfl rfl (fun _ _ => rfl) (by decide) (by decide)
theorem Encoding.trap (f : FmtI) : Encoding.Statement (.trap f) := Encoding.of_i rfl rfl (fun _ _ => rfl) (by decide) (by decide)
theorem Encoding.sysc (f : FmtI) : Encoding.Statement (.sysc f) := Encoding.of_i rfl rfl (fun _ _ => rfl) (by decide) (by decide)
theorem Encoding.dbg (f : FmtI) : Encoding.Statement (.dbg f) := Encoding.of_i rfl rfl (fun _ _ => rfl) (by decide) (by decide)
theorem Encoding.route (f : FmtA) : Encoding.Statement (.route f) := by
  refine Encoding.of_a rfl rfl (fun u hw => ?_) (by decide) (by decide)
  have hs : Sig.ok u (.a .int .int .none 0 false f) = true := (Bool.and_eq_true_iff.mp hw).1
  have hc : f.mod.getLsbD 0 = false := by
    have hm : f.mod &&& 65535#16 = 0 := by simpa [Sig.ok] using (Bool.and_eq_true_iff.mp hs).2
    have h0 := congrArg (BitVec.getLsbD · 0) hm
    simpa using h0
  change minor0F 0 f = _
  simp only [minor0F, hc]; rfl
theorem Encoding.routeCancel (f : FmtA) : Encoding.Statement (.routeCancel f) := by
  refine Encoding.of_a rfl rfl (fun u hw => ?_) (by decide) (by decide)
  have hc : f.mod.getLsbD 0 = true := (Bool.and_eq_true_iff.mp hw).2
  change minor0F 0 f = _
  simp only [minor0F, hc]; rfl
theorem Encoding.rstat (f : FmtA) : Encoding.Statement (.rstat f) := Encoding.of_a rfl rfl (fun _ _ => rfl) (by decide) (by decide)
theorem Encoding.spawn (f : FmtA) : Encoding.Statement (.spawn f) := Encoding.of_a rfl rfl (fun _ _ => rfl) (by decide) (by decide)
theorem Encoding.binapp (f : FmtA) : Encoding.Statement (.binapp f) := Encoding.of_a rfl rfl (fun _ _ => rfl) (by decide) (by decide)
theorem Encoding.binclr (f : FmtA) : Encoding.Statement (.binclr f) := Encoding.of_a rfl rfl (fun _ _ => rfl) (by decide) (by decide)
theorem Encoding.xresv (f : FmtA) : Encoding.Statement (.xresv f) := by
  refine Encoding.of_a rfl rfl (fun u hw => ?_) (by decide) (by decide)
  have hc : f.mod.extractLsb' 0 2 = 0 := of_decide_eq_true (Bool.and_eq_true_iff.mp hw).2
  change minor10 0 f = _
  simp only [minor10, hc]; rfl
theorem Encoding.xresvCfg (f : FmtA) : Encoding.Statement (.xresvCfg f) := by
  refine Encoding.of_a rfl rfl (fun u hw => ?_) (by decide) (by decide)
  have hc : f.mod.extractLsb' 0 2 = 1 := of_decide_eq_true (Bool.and_eq_true_iff.mp hw).2
  change minor10 0 f = _
  simp only [minor10, hc]; rfl
theorem Encoding.xresvEnd (f : FmtA) : Encoding.Statement (.xresvEnd f) := by
  refine Encoding.of_a rfl rfl (fun u hw => ?_) (by decide) (by decide)
  have hc : f.mod.extractLsb' 0 2 = 2 := of_decide_eq_true (Bool.and_eq_true_iff.mp hw).2
  change minor10 0 f = _
  simp only [minor10, hc]; rfl
theorem Encoding.xdisp (f : FmtA) : Encoding.Statement (.xdisp f) := Encoding.of_a rfl rfl (fun _ _ => rfl) (by decide) (by decide)
theorem Encoding.xcomb (f : FmtA) : Encoding.Statement (.xcomb f) := Encoding.of_a rfl rfl (fun _ _ => rfl) (by decide) (by decide)
theorem Encoding.ldvBc (f : FmtM) : Encoding.Statement (.ldvBc f) := Encoding.of_m rfl rfl (fun _ _ => rfl) (by decide) (by decide)
theorem Encoding.stvBc (f : FmtM) : Encoding.Statement (.stvBc f) := Encoding.of_m rfl rfl (fun _ _ => rfl) (by decide) (by decide)
theorem Encoding.ldvtBc (f : FmtM) : Encoding.Statement (.ldvtBc f) := Encoding.of_m rfl rfl (fun _ _ => rfl) (by decide) (by decide)
theorem Encoding.mAdd (f : FmtA) : Encoding.Statement (.mAdd f) := Encoding.of_a rfl rfl (fun _ _ => rfl) (by decide) (by decide)
theorem Encoding.mSub (f : FmtA) : Encoding.Statement (.mSub f) := Encoding.of_a rfl rfl (fun _ _ => rfl) (by decide) (by decide)
theorem Encoding.mMul (f : FmtA) : Encoding.Statement (.mMul f) := Encoding.of_a rfl rfl (fun _ _ => rfl) (by decide) (by decide)
theorem Encoding.mMulh (f : FmtA) : Encoding.Statement (.mMulh f) := Encoding.of_a rfl rfl (fun _ _ => rfl) (by decide) (by decide)
theorem Encoding.mMulhu (f : FmtA) : Encoding.Statement (.mMulhu f) := Encoding.of_a rfl rfl (fun _ _ => rfl) (by decide) (by decide)
theorem Encoding.mDiv (f : FmtA) : Encoding.Statement (.mDiv f) := Encoding.of_a rfl rfl (fun _ _ => rfl) (by decide) (by decide)
theorem Encoding.mDivu (f : FmtA) : Encoding.Statement (.mDivu f) := Encoding.of_a rfl rfl (fun _ _ => rfl) (by decide) (by decide)
theorem Encoding.mRem (f : FmtA) : Encoding.Statement (.mRem f) := Encoding.of_a rfl rfl (fun _ _ => rfl) (by decide) (by decide)
theorem Encoding.mRemu (f : FmtA) : Encoding.Statement (.mRemu f) := Encoding.of_a rfl rfl (fun _ _ => rfl) (by decide) (by decide)
theorem Encoding.mAnd (f : FmtA) : Encoding.Statement (.mAnd f) := Encoding.of_a rfl rfl (fun _ _ => rfl) (by decide) (by decide)
theorem Encoding.mOr (f : FmtA) : Encoding.Statement (.mOr f) := Encoding.of_a rfl rfl (fun _ _ => rfl) (by decide) (by decide)
theorem Encoding.mXor (f : FmtA) : Encoding.Statement (.mXor f) := Encoding.of_a rfl rfl (fun _ _ => rfl) (by decide) (by decide)
theorem Encoding.mAndn (f : FmtA) : Encoding.Statement (.mAndn f) := Encoding.of_a rfl rfl (fun _ _ => rfl) (by decide) (by decide)
theorem Encoding.mShl (f : FmtA) : Encoding.Statement (.mShl f) := Encoding.of_a rfl rfl (fun _ _ => rfl) (by decide) (by decide)
theorem Encoding.mShr (f : FmtA) : Encoding.Statement (.mShr f) := Encoding.of_a rfl rfl (fun _ _ => rfl) (by decide) (by decide)
theorem Encoding.mSra (f : FmtA) : Encoding.Statement (.mSra f) := Encoding.of_a rfl rfl (fun _ _ => rfl) (by decide) (by decide)
theorem Encoding.mRot (f : FmtA) : Encoding.Statement (.mRot f) := Encoding.of_a rfl rfl (fun _ _ => rfl) (by decide) (by decide)
theorem Encoding.mMin (f : FmtA) : Encoding.Statement (.mMin f) := Encoding.of_a rfl rfl (fun _ _ => rfl) (by decide) (by decide)
theorem Encoding.mMax (f : FmtA) : Encoding.Statement (.mMax f) := Encoding.of_a rfl rfl (fun _ _ => rfl) (by decide) (by decide)
theorem Encoding.mMinu (f : FmtA) : Encoding.Statement (.mMinu f) := Encoding.of_a rfl rfl (fun _ _ => rfl) (by decide) (by decide)
theorem Encoding.mMaxu (f : FmtA) : Encoding.Statement (.mMaxu f) := Encoding.of_a rfl rfl (fun _ _ => rfl) (by decide) (by decide)
theorem Encoding.mClz (f : FmtA) : Encoding.Statement (.mClz f) := Encoding.of_a rfl rfl (fun _ _ => rfl) (by decide) (by decide)
theorem Encoding.mPopc (f : FmtA) : Encoding.Statement (.mPopc f) := Encoding.of_a rfl rfl (fun _ _ => rfl) (by decide) (by decide)
theorem Encoding.mSel (f : FmtA) : Encoding.Statement (.mSel f) := Encoding.of_a rfl rfl (fun _ _ => rfl) (by decide) (by decide)
theorem Encoding.mMov (f : FmtA) : Encoding.Statement (.mMov f) := Encoding.of_a rfl rfl (fun _ _ => rfl) (by decide) (by decide)
theorem Encoding.mSext (f : FmtA) : Encoding.Statement (.mSext f) := Encoding.of_a rfl rfl (fun _ _ => rfl) (by decide) (by decide)
theorem Encoding.mZext (f : FmtA) : Encoding.Statement (.mZext f) := Encoding.of_a rfl rfl (fun _ _ => rfl) (by decide) (by decide)
theorem Encoding.mAddImm (f : FmtI) : Encoding.Statement (.mAddImm f) := Encoding.of_i rfl rfl (fun _ _ => rfl) (by decide) (by decide)
theorem Encoding.mMulImm (f : FmtI) : Encoding.Statement (.mMulImm f) := Encoding.of_i rfl rfl (fun _ _ => rfl) (by decide) (by decide)
theorem Encoding.mAndImm (f : FmtI) : Encoding.Statement (.mAndImm f) := Encoding.of_i rfl rfl (fun _ _ => rfl) (by decide) (by decide)
theorem Encoding.mOrImm (f : FmtI) : Encoding.Statement (.mOrImm f) := Encoding.of_i rfl rfl (fun _ _ => rfl) (by decide) (by decide)
theorem Encoding.mXorImm (f : FmtI) : Encoding.Statement (.mXorImm f) := Encoding.of_i rfl rfl (fun _ _ => rfl) (by decide) (by decide)
theorem Encoding.mShlImm (f : FmtI) : Encoding.Statement (.mShlImm f) := Encoding.of_i rfl rfl (fun _ _ => rfl) (by decide) (by decide)
theorem Encoding.mShrImm (f : FmtI) : Encoding.Statement (.mShrImm f) := Encoding.of_i rfl rfl (fun _ _ => rfl) (by decide) (by decide)
theorem Encoding.mSraImm (f : FmtI) : Encoding.Statement (.mSraImm f) := Encoding.of_i rfl rfl (fun _ _ => rfl) (by decide) (by decide)
theorem Encoding.mRotImm (f : FmtI) : Encoding.Statement (.mRotImm f) := Encoding.of_i rfl rfl (fun _ _ => rfl) (by decide) (by decide)
theorem Encoding.mMinImm (f : FmtI) : Encoding.Statement (.mMinImm f) := Encoding.of_i rfl rfl (fun _ _ => rfl) (by decide) (by decide)
theorem Encoding.mMaxImm (f : FmtI) : Encoding.Statement (.mMaxImm f) := Encoding.of_i rfl rfl (fun _ _ => rfl) (by decide) (by decide)
theorem Encoding.mMinuImm (f : FmtI) : Encoding.Statement (.mMinuImm f) := Encoding.of_i rfl rfl (fun _ _ => rfl) (by decide) (by decide)
theorem Encoding.mMaxuImm (f : FmtI) : Encoding.Statement (.mMaxuImm f) := Encoding.of_i rfl rfl (fun _ _ => rfl) (by decide) (by decide)
theorem Encoding.mMovImm (f : FmtI) : Encoding.Statement (.mMovImm f) := Encoding.of_i rfl rfl (fun _ _ => rfl) (by decide) (by decide)
theorem Encoding.mMovh (f : FmtI) : Encoding.Statement (.mMovh f) := Encoding.of_i rfl rfl (fun _ _ => rfl) (by decide) (by decide)
theorem Encoding.mcmpEq (f : FmtA) : Encoding.Statement (.mcmpEq f) := Encoding.of_a rfl rfl (fun _ _ => rfl) (by decide) (by decide)
theorem Encoding.mcmpNe (f : FmtA) : Encoding.Statement (.mcmpNe f) := Encoding.of_a rfl rfl (fun _ _ => rfl) (by decide) (by decide)
theorem Encoding.mcmpLt (f : FmtA) : Encoding.Statement (.mcmpLt f) := Encoding.of_a rfl rfl (fun _ _ => rfl) (by decide) (by decide)
theorem Encoding.mcmpGe (f : FmtA) : Encoding.Statement (.mcmpGe f) := Encoding.of_a rfl rfl (fun _ _ => rfl) (by decide) (by decide)
theorem Encoding.mcmpLtu (f : FmtA) : Encoding.Statement (.mcmpLtu f) := Encoding.of_a rfl rfl (fun _ _ => rfl) (by decide) (by decide)
theorem Encoding.mcmpGeu (f : FmtA) : Encoding.Statement (.mcmpGeu f) := Encoding.of_a rfl rfl (fun _ _ => rfl) (by decide) (by decide)
theorem Encoding.mcmpiEq (f : FmtI) : Encoding.Statement (.mcmpiEq f) := Encoding.of_i rfl rfl (fun _ _ => rfl) (by decide) (by decide)
theorem Encoding.mcmpiNe (f : FmtI) : Encoding.Statement (.mcmpiNe f) := Encoding.of_i rfl rfl (fun _ _ => rfl) (by decide) (by decide)
theorem Encoding.mcmpiLt (f : FmtI) : Encoding.Statement (.mcmpiLt f) := Encoding.of_i rfl rfl (fun _ _ => rfl) (by decide) (by decide)
theorem Encoding.mcmpiGe (f : FmtI) : Encoding.Statement (.mcmpiGe f) := Encoding.of_i rfl rfl (fun _ _ => rfl) (by decide) (by decide)
theorem Encoding.mcmpiLtu (f : FmtI) : Encoding.Statement (.mcmpiLtu f) := Encoding.of_i rfl rfl (fun _ _ => rfl) (by decide) (by decide)
theorem Encoding.mcmpiGeu (f : FmtI) : Encoding.Statement (.mcmpiGeu f) := Encoding.of_i rfl rfl (fun _ _ => rfl) (by decide) (by decide)
theorem Encoding.mPand (f : FmtA) : Encoding.Statement (.mPand f) := Encoding.of_a rfl rfl (fun _ _ => rfl) (by decide) (by decide)
theorem Encoding.mPor (f : FmtA) : Encoding.Statement (.mPor f) := Encoding.of_a rfl rfl (fun _ _ => rfl) (by decide) (by decide)
theorem Encoding.mPxor (f : FmtA) : Encoding.Statement (.mPxor f) := Encoding.of_a rfl rfl (fun _ _ => rfl) (by decide) (by decide)
theorem Encoding.mPandn (f : FmtA) : Encoding.Statement (.mPandn f) := Encoding.of_a rfl rfl (fun _ _ => rfl) (by decide) (by decide)
theorem Encoding.mPnot (f : FmtA) : Encoding.Statement (.mPnot f) := Encoding.of_a rfl rfl (fun _ _ => rfl) (by decide) (by decide)
theorem Encoding.mPmov (f : FmtA) : Encoding.Statement (.mPmov f) := Encoding.of_a rfl rfl (fun _ _ => rfl) (by decide) (by decide)
theorem Encoding.mPget (f : FmtA) : Encoding.Statement (.mPget f) := Encoding.of_a rfl rfl (fun _ _ => rfl) (by decide) (by decide)
theorem Encoding.mMovl (f : FmtL) : Encoding.Statement (.mMovl f) := Encoding.of_l rfl rfl (fun _ _ => rfl) (by decide) (by decide)
theorem Encoding.mLea (f : FmtM) : Encoding.Statement (.mLea f) := Encoding.of_m rfl rfl (fun _ _ => rfl) (by decide) (by decide)
theorem Encoding.colid (f : FmtA) : Encoding.Statement (.colid f) := Encoding.of_a rfl rfl (fun _ _ => rfl) (by decide) (by decide)
theorem Encoding.rowid (f : FmtA) : Encoding.Statement (.rowid f) := Encoding.of_a rfl rfl (fun _ _ => rfl) (by decide) (by decide)
theorem Encoding.lds (f : FmtM) : Encoding.Statement (.lds f) := Encoding.of_m rfl rfl (fun _ _ => rfl) (by decide) (by decide)
theorem Encoding.sts (f : FmtM) : Encoding.Statement (.sts f) := Encoding.of_m rfl rfl (fun _ _ => rfl) (by decide) (by decide)
theorem Encoding.ldv (f : FmtM) : Encoding.Statement (.ldv f) := Encoding.of_m rfl rfl (fun _ _ => rfl) (by decide) (by decide)
theorem Encoding.stv (f : FmtM) : Encoding.Statement (.stv f) := Encoding.of_m rfl rfl (fun _ _ => rfl) (by decide) (by decide)
theorem Encoding.ldvt (f : FmtM) : Encoding.Statement (.ldvt f) := Encoding.of_m rfl rfl (fun _ _ => rfl) (by decide) (by decide)
theorem Encoding.rput (f : FmtA) : Encoding.Statement (.rput f) := Encoding.of_a rfl rfl (fun _ _ => rfl) (by decide) (by decide)
theorem Encoding.rget (f : FmtA) : Encoding.Statement (.rget f) := Encoding.of_a rfl rfl (fun _ _ => rfl) (by decide) (by decide)
theorem Encoding.vadd (f : FmtV) : Encoding.Statement (.vadd f) := Encoding.of_v rfl rfl (fun _ _ => rfl) (by decide) (by decide)
theorem Encoding.vsub (f : FmtV) : Encoding.Statement (.vsub f) := Encoding.of_v rfl rfl (fun _ _ => rfl) (by decide) (by decide)
theorem Encoding.vmul (f : FmtV) : Encoding.Statement (.vmul f) := Encoding.of_v rfl rfl (fun _ _ => rfl) (by decide) (by decide)
theorem Encoding.vdiv (f : FmtV) : Encoding.Statement (.vdiv f) := Encoding.of_v rfl rfl (fun _ _ => rfl) (by decide) (by decide)
theorem Encoding.vfma (f : FmtV) : Encoding.Statement (.vfma f) := Encoding.of_v rfl rfl (fun _ _ => rfl) (by decide) (by decide)
theorem Encoding.vfms (f : FmtV) : Encoding.Statement (.vfms f) := Encoding.of_v rfl rfl (fun _ _ => rfl) (by decide) (by decide)
theorem Encoding.vmin (f : FmtV) : Encoding.Statement (.vmin f) := Encoding.of_v rfl rfl (fun _ _ => rfl) (by decide) (by decide)
theorem Encoding.vmax (f : FmtV) : Encoding.Statement (.vmax f) := Encoding.of_v rfl rfl (fun _ _ => rfl) (by decide) (by decide)
theorem Encoding.vabs (f : FmtV) : Encoding.Statement (.vabs f) := Encoding.of_v rfl rfl (fun _ _ => rfl) (by decide) (by decide)
theorem Encoding.vneg (f : FmtV) : Encoding.Statement (.vneg f) := Encoding.of_v rfl rfl (fun _ _ => rfl) (by decide) (by decide)
theorem Encoding.vrcp (f : FmtV) : Encoding.Statement (.vrcp f) := Encoding.of_v rfl rfl (fun _ _ => rfl) (by decide) (by decide)
theorem Encoding.vrsq (f : FmtV) : Encoding.Statement (.vrsq f) := Encoding.of_v rfl rfl (fun _ _ => rfl) (by decide) (by decide)
theorem Encoding.vsqrt (f : FmtV) : Encoding.Statement (.vsqrt f) := Encoding.of_v rfl rfl (fun _ _ => rfl) (by decide) (by decide)
theorem Encoding.vexp2 (f : FmtV) : Encoding.Statement (.vexp2 f) := Encoding.of_v rfl rfl (fun _ _ => rfl) (by decide) (by decide)
theorem Encoding.vlog2 (f : FmtV) : Encoding.Statement (.vlog2 f) := Encoding.of_v rfl rfl (fun _ _ => rfl) (by decide) (by decide)
theorem Encoding.vsig (f : FmtV) : Encoding.Statement (.vsig f) := Encoding.of_v rfl rfl (fun _ _ => rfl) (by decide) (by decide)
theorem Encoding.vtanh (f : FmtV) : Encoding.Statement (.vtanh f) := Encoding.of_v rfl rfl (fun _ _ => rfl) (by decide) (by decide)
theorem Encoding.vaddInt (f : FmtV) : Encoding.Statement (.vaddInt f) := Encoding.of_v rfl rfl (fun _ _ => rfl) (by decide) (by decide)
theorem Encoding.vsubInt (f : FmtV) : Encoding.Statement (.vsubInt f) := Encoding.of_v rfl rfl (fun _ _ => rfl) (by decide) (by decide)
theorem Encoding.vmulInt (f : FmtV) : Encoding.Statement (.vmulInt f) := Encoding.of_v rfl rfl (fun _ _ => rfl) (by decide) (by decide)
theorem Encoding.vminInt (f : FmtV) : Encoding.Statement (.vminInt f) := Encoding.of_v rfl rfl (fun _ _ => rfl) (by decide) (by decide)
theorem Encoding.vmaxInt (f : FmtV) : Encoding.Statement (.vmaxInt f) := Encoding.of_v rfl rfl (fun _ _ => rfl) (by decide) (by decide)
theorem Encoding.vand (f : FmtV) : Encoding.Statement (.vand f) := Encoding.of_v rfl rfl (fun _ _ => rfl) (by decide) (by decide)
theorem Encoding.vor (f : FmtV) : Encoding.Statement (.vor f) := Encoding.of_v rfl rfl (fun _ _ => rfl) (by decide) (by decide)
theorem Encoding.vxor (f : FmtV) : Encoding.Statement (.vxor f) := Encoding.of_v rfl rfl (fun _ _ => rfl) (by decide) (by decide)
theorem Encoding.vnot (f : FmtV) : Encoding.Statement (.vnot f) := Encoding.of_v rfl rfl (fun _ _ => rfl) (by decide) (by decide)
theorem Encoding.vshl (f : FmtV) : Encoding.Statement (.vshl f) := Encoding.of_v rfl rfl (fun _ _ => rfl) (by decide) (by decide)
theorem Encoding.vshr (f : FmtV) : Encoding.Statement (.vshr f) := Encoding.of_v rfl rfl (fun _ _ => rfl) (by decide) (by decide)
theorem Encoding.vsra (f : FmtV) : Encoding.Statement (.vsra f) := Encoding.of_v rfl rfl (fun _ _ => rfl) (by decide) (by decide)
theorem Encoding.vpopc (f : FmtV) : Encoding.Statement (.vpopc f) := Encoding.of_v rfl rfl (fun _ _ => rfl) (by decide) (by decide)
theorem Encoding.vclz (f : FmtV) : Encoding.Statement (.vclz f) := Encoding.of_v rfl rfl (fun _ _ => rfl) (by decide) (by decide)
theorem Encoding.vcmp (f : FmtV) : Encoding.Statement (.vcmp f) := Encoding.of_v rfl rfl (fun _ _ => rfl) (by decide) (by decide)
theorem Encoding.vmand (f : FmtV) : Encoding.Statement (.vmand f) := Encoding.of_v rfl rfl (fun _ _ => rfl) (by decide) (by decide)
theorem Encoding.vmor (f : FmtV) : Encoding.Statement (.vmor f) := Encoding.of_v rfl rfl (fun _ _ => rfl) (by decide) (by decide)
theorem Encoding.vmxor (f : FmtV) : Encoding.Statement (.vmxor f) := Encoding.of_v rfl rfl (fun _ _ => rfl) (by decide) (by decide)
theorem Encoding.vmnot (f : FmtV) : Encoding.Statement (.vmnot f) := Encoding.of_v rfl rfl (fun _ _ => rfl) (by decide) (by decide)
theorem Encoding.vmcnt (f : FmtV) : Encoding.Statement (.vmcnt f) := Encoding.of_v rfl rfl (fun _ _ => rfl) (by decide) (by decide)
theorem Encoding.vmfirst (f : FmtV) : Encoding.Statement (.vmfirst f) := Encoding.of_v rfl rfl (fun _ _ => rfl) (by decide) (by decide)
theorem Encoding.vsel (f : FmtV) : Encoding.Statement (.vsel f) := Encoding.of_v rfl rfl (fun _ _ => rfl) (by decide) (by decide)
theorem Encoding.vcvt (f : FmtV) : Encoding.Statement (.vcvt f) := Encoding.of_v rfl rfl (fun _ _ => rfl) (by decide) (by decide)
theorem Encoding.vqnt (f : FmtV) : Encoding.Statement (.vqnt f) := Encoding.of_v rfl rfl (fun _ _ => rfl) (by decide) (by decide)
theorem Encoding.vdeq (f : FmtV) : Encoding.Statement (.vdeq f) := Encoding.of_v rfl rfl (fun _ _ => rfl) (by decide) (by decide)
theorem Encoding.vred (f : FmtV) : Encoding.Statement (.vred f) := Encoding.of_v rfl rfl (fun _ _ => rfl) (by decide) (by decide)
theorem Encoding.vscan (f : FmtV) : Encoding.Statement (.vscan f) := Encoding.of_v rfl rfl (fun _ _ => rfl) (by decide) (by decide)
theorem Encoding.vmov (f : FmtV) : Encoding.Statement (.vmov f) := Encoding.of_v rfl rfl (fun _ _ => rfl) (by decide) (by decide)
theorem Encoding.vbcast (f : FmtV) : Encoding.Statement (.vbcast f) := Encoding.of_v rfl rfl (fun _ _ => rfl) (by decide) (by decide)
theorem Encoding.vtran (f : FmtV) : Encoding.Statement (.vtran f) := Encoding.of_v rfl rfl (fun _ _ => rfl) (by decide) (by decide)
theorem Encoding.vshuf (f : FmtV) : Encoding.Statement (.vshuf f) := Encoding.of_v rfl rfl (fun _ _ => rfl) (by decide) (by decide)
theorem Encoding.vext (f : FmtV) : Encoding.Statement (.vext f) := Encoding.of_v rfl rfl (fun _ _ => rfl) (by decide) (by decide)
theorem Encoding.vins (f : FmtV) : Encoding.Statement (.vins f) := Encoding.of_v rfl rfl (fun _ _ => rfl) (by decide) (by decide)
theorem Encoding.viota (f : FmtV) : Encoding.Statement (.viota f) := Encoding.of_v rfl rfl (fun _ _ => rfl) (by decide) (by decide)
theorem Encoding.nzscan (f : FmtV) : Encoding.Statement (.nzscan f) := Encoding.of_v rfl rfl (fun _ _ => rfl) (by decide) (by decide)
theorem Encoding.vtopk (f : FmtV) : Encoding.Statement (.vtopk f) := Encoding.of_v rfl rfl (fun _ _ => rfl) (by decide) (by decide)
theorem Encoding.vsort (f : FmtV) : Encoding.Statement (.vsort f) := Encoding.of_v rfl rfl (fun _ _ => rfl) (by decide) (by decide)
theorem Encoding.vshape (f : FmtV) : Encoding.Statement (.vshape f) := Encoding.of_v rfl rfl (fun _ _ => rfl) (by decide) (by decide)
theorem Encoding.vtok (f : FmtE) : Encoding.Statement (.vtok f) := Encoding.of_e rfl rfl (fun _ _ => rfl) (by decide) (by decide)
theorem Encoding.mldb (f : FmtE) : Encoding.Statement (.mldb f) := Encoding.of_e rfl rfl (fun _ _ => rfl) (by decide) (by decide)
theorem Encoding.mring (f : FmtE) : Encoding.Statement (.mring f) := Encoding.of_e rfl rfl (fun _ _ => rfl) (by decide) (by decide)
theorem Encoding.mswap (f : FmtE) : Encoding.Statement (.mswap f) := Encoding.of_e rfl rfl (fun _ _ => rfl) (by decide) (by decide)
theorem Encoding.mma (f : FmtE) : Encoding.Statement (.mma f) := Encoding.of_e rfl rfl (fun _ _ => rfl) (by decide) (by decide)
theorem Encoding.mmas (f : FmtE) : Encoding.Statement (.mmas f) := Encoding.of_e rfl rfl (fun _ _ => rfl) (by decide) (by decide)
theorem Encoding.gmma (f : FmtE) : Encoding.Statement (.gmma f) := Encoding.of_e rfl rfl (fun _ _ => rfl) (by decide) (by decide)
theorem Encoding.mzero (f : FmtE) : Encoding.Statement (.mzero f) := Encoding.of_e rfl rfl (fun _ _ => rfl) (by decide) (by decide)
theorem Encoding.mdrain (f : FmtE) : Encoding.Statement (.mdrain f) := Encoding.of_e rfl rfl (fun _ _ => rfl) (by decide) (by decide)
theorem Encoding.mstream (f : FmtE) : Encoding.Statement (.mstream f) := Encoding.of_e rfl rfl (fun _ _ => rfl) (by decide) (by decide)
theorem Encoding.qcfg (f : FmtE) : Encoding.Statement (.qcfg f) := Encoding.of_e rfl rfl (fun _ _ => rfl) (by decide) (by decide)
theorem Encoding.qtri (f : FmtE) : Encoding.Statement (.qtri f) := Encoding.of_e rfl rfl (fun _ _ => rfl) (by decide) (by decide)
theorem Encoding.qapply (f : FmtE) : Encoding.Statement (.qapply f) := Encoding.of_e rfl rfl (fun _ _ => rfl) (by decide) (by decide)
theorem Encoding.qang (f : FmtE) : Encoding.Statement (.qang f) := Encoding.of_e rfl rfl (fun _ _ => rfl) (by decide) (by decide)
theorem Encoding.qrot (f : FmtE) : Encoding.Statement (.qrot f) := Encoding.of_e rfl rfl (fun _ _ => rfl) (by decide) (by decide)
theorem Encoding.qsolve (f : FmtE) : Encoding.Statement (.qsolve f) := Encoding.of_e rfl rfl (fun _ _ => rfl) (by decide) (by decide)
theorem Encoding.qgain (f : FmtE) : Encoding.Statement (.qgain f) := Encoding.of_e rfl rfl (fun _ _ => rfl) (by decide) (by decide)
theorem Encoding.qldt (f : FmtE) : Encoding.Statement (.qldt f) := Encoding.of_e rfl rfl (fun _ _ => rfl) (by decide) (by decide)
theorem Encoding.qstt (f : FmtE) : Encoding.Statement (.qstt f) := Encoding.of_e rfl rfl (fun _ _ => rfl) (by decide) (by decide)
theorem Encoding.cp (f : FmtE) : Encoding.Statement (.cp f) := Encoding.of_e rfl rfl (fun _ _ => rfl) (by decide) (by decide)
theorem Encoding.cpg (f : FmtE) : Encoding.Statement (.cpg f) := Encoding.of_e rfl rfl (fun _ _ => rfl) (by decide) (by decide)
theorem Encoding.cps (f : FmtE) : Encoding.Statement (.cps f) := Encoding.of_e rfl rfl (fun _ _ => rfl) (by decide) (by decide)
theorem Encoding.cpd (f : FmtE) : Encoding.Statement (.cpd f) := Encoding.of_e rfl rfl (fun _ _ => rfl) (by decide) (by decide)
theorem Encoding.cpf (f : FmtE) : Encoding.Statement (.cpf f) := Encoding.of_e rfl rfl (fun _ _ => rfl) (by decide) (by decide)
theorem Encoding.cpw (f : FmtE) : Encoding.Statement (.cpw f) := Encoding.of_e rfl rfl (fun _ _ => rfl) (by decide) (by decide)
theorem Encoding.cpq (f : FmtE) : Encoding.Statement (.cpq f) := Encoding.of_e rfl rfl (fun _ _ => rfl) (by decide) (by decide)
theorem Encoding.arrv (f : FmtE) : Encoding.Statement (.arrv f) := Encoding.of_e rfl rfl (fun _ _ => rfl) (by decide) (by decide)
theorem Encoding.waitb (f : FmtE) : Encoding.Statement (.waitb f) := Encoding.of_e rfl rfl (fun _ _ => rfl) (by decide) (by decide)
theorem Encoding.xput (f : FmtE) : Encoding.Statement (.xput f) := Encoding.of_e rfl rfl (fun _ _ => rfl) (by decide) (by decide)
theorem Encoding.xget (f : FmtE) : Encoding.Statement (.xget f) := Encoding.of_e rfl rfl (fun _ _ => rfl) (by decide) (by decide)
theorem Encoding.xamo (f : FmtE) : Encoding.Statement (.xamo f) := Encoding.of_e rfl rfl (fun _ _ => rfl) (by decide) (by decide)
theorem Encoding.xsend (f : FmtE) : Encoding.Statement (.xsend f) := Encoding.of_e rfl rfl (fun _ _ => rfl) (by decide) (by decide)
theorem Encoding.xtrig (f : FmtE) : Encoding.Statement (.xtrig f) := Encoding.of_e rfl rfl (fun _ _ => rfl) (by decide) (by decide)
theorem Encoding.xcntRead (f : FmtE) : Encoding.Statement (.xcntRead f) := by
  refine Encoding.of_e rfl rfl (fun u hw => ?_) (by decide) (by decide)
  have hc : f.mod.extractLsb' 0 2 = 0 := of_decide_eq_true (Bool.and_eq_true_iff.mp hw).2
  change minor63 5 f = _
  simp only [minor63, hc]; rfl
theorem Encoding.xcntSet (f : FmtE) : Encoding.Statement (.xcntSet f) := by
  refine Encoding.of_e rfl rfl (fun u hw => ?_) (by decide) (by decide)
  have hc : f.mod.extractLsb' 0 2 = 1 := of_decide_eq_true (Bool.and_eq_true_iff.mp hw).2
  change minor63 5 f = _
  simp only [minor63, hc]; rfl
theorem Encoding.xcntAdd (f : FmtE) : Encoding.Statement (.xcntAdd f) := by
  refine Encoding.of_e rfl rfl (fun u hw => ?_) (by decide) (by decide)
  have hc : f.mod.extractLsb' 0 2 = 2 := of_decide_eq_true (Bool.and_eq_true_iff.mp hw).2
  change minor63 5 f = _
  simp only [minor63, hc]; rfl
theorem Encoding.xcntErr (f : FmtE) : Encoding.Statement (.xcntErr f) := by
  refine Encoding.of_e rfl rfl (fun u hw => ?_) (by decide) (by decide)
  have hc : f.mod.extractLsb' 0 2 = 3 := of_decide_eq_true (Bool.and_eq_true_iff.mp hw).2
  change minor63 5 f = _
  simp only [minor63, hc]; rfl
theorem Encoding.xtile (f : FmtE) : Encoding.Statement (.xtile f) := by
  refine Encoding.of_e rfl rfl (fun u hw => ?_) (by decide) (by decide)
  have hc : f.mod.getLsbD 1 = false := by simpa [Instr.entryOk] using (Bool.and_eq_true_iff.mp hw).2
  change minor63 6 f = _
  simp only [minor63, hc]; rfl
theorem Encoding.xtileFire (f : FmtE) : Encoding.Statement (.xtileFire f) := by
  refine Encoding.of_e rfl rfl (fun u hw => ?_) (by decide) (by decide)
  have hc : f.mod.getLsbD 1 = true := (Bool.and_eq_true_iff.mp hw).2
  change minor63 6 f = _
  simp only [minor63, hc]; rfl
theorem Encoding.xrt (f : FmtE) : Encoding.Statement (.xrt f) := Encoding.of_e rfl rfl (fun _ _ => rfl) (by decide) (by decide)
theorem Encoding.xflush (f : FmtE) : Encoding.Statement (.xflush f) := Encoding.of_e rfl rfl (fun _ _ => rfl) (by decide) (by decide)
theorem Encoding.xwait (f : FmtE) : Encoding.Statement (.xwait f) := by
  refine Encoding.of_e rfl rfl (fun u hw => ?_) (by decide) (by decide)
  have hc : f.mod.getLsbD 0 = false := by simpa [Instr.entryOk] using (Bool.and_eq_true_iff.mp hw).2
  change minor63 9 f = _
  simp only [minor63, hc]; rfl
theorem Encoding.xwaitDrain (f : FmtE) : Encoding.Statement (.xwaitDrain f) := by
  refine Encoding.of_e rfl rfl (fun u hw => ?_) (by decide) (by decide)
  have hc : f.mod.getLsbD 0 = true := (Bool.and_eq_true_iff.mp hw).2
  change minor63 9 f = _
  simp only [minor63, hc]; rfl
theorem Encoding.bundleFetch (g : Gtid) : Encoding.Statement (.bundleFetch g) :=
  Encoding.of_none (by simp) rfl
theorem Encoding.spineIssue (g : Gtid) : Encoding.Statement (.spineIssue g) :=
  Encoding.of_none (by simp) rfl
theorem Encoding.coreExecute (g : Gtid) (c : Nat) : Encoding.Statement (.coreExecute g c) :=
  Encoding.of_none (by simp) rfl
theorem Encoding.bcIssue (g : Gtid) : Encoding.Statement (.bcIssue g) :=
  Encoding.of_none (by simp) rfl
theorem Encoding.bcReply (g : Gtid) : Encoding.Statement (.bcReply g) :=
  Encoding.of_none (by simp) rfl
theorem Encoding.migrationSend (g : Gtid) : Encoding.Statement (.migrationSend g) :=
  Encoding.of_none (by simp) rfl
theorem Encoding.migrationArrive (g : Gtid) : Encoding.Statement (.migrationArrive g) :=
  Encoding.of_none (by simp) rfl
theorem Encoding.waitSatisfied (g : Gtid) : Encoding.Statement (.waitSatisfied g) :=
  Encoding.of_none (by simp) rfl
theorem Encoding.launchAccept : Encoding.Statement (.launchAccept) :=
  Encoding.of_none (by simp) rfl
theorem Encoding.submitDoorbell (q : Nat) (v : Word) : Encoding.Statement (.submitDoorbell q v) :=
  Encoding.of_none (by simp) rfl
theorem Encoding.gangBind (serial gang : Nat) : Encoding.Statement (.gangBind serial gang) :=
  Encoding.of_none (by simp) rfl
theorem Encoding.gangStart (serial gang : Nat) : Encoding.Statement (.gangStart serial gang) :=
  Encoding.of_none (by simp) rfl
theorem Encoding.spawnBind (die : Nat) : Encoding.Statement (.spawnBind die) :=
  Encoding.of_none (by simp) rfl
theorem Encoding.launchAgeing (serial : Nat) : Encoding.Statement (.launchAgeing serial) :=
  Encoding.of_none (by simp) rfl
theorem Encoding.taskRetire (g : Gtid) : Encoding.Statement (.taskRetire g) :=
  Encoding.of_none (by simp) rfl
theorem Encoding.completionRecordPost (ring : Nat) : Encoding.Statement (.completionRecordPost ring) :=
  Encoding.of_none (by simp) rfl
theorem Encoding.preempt (serial gang : Nat) : Encoding.Statement (.preempt serial gang) :=
  Encoding.of_none (by simp) rfl
theorem Encoding.restore (serial gang : Nat) : Encoding.Statement (.restore serial gang) :=
  Encoding.of_none (by simp) rfl
theorem Encoding.watchdogExpiry (g : Gtid) : Encoding.Statement (.watchdogExpiry g) :=
  Encoding.of_none (by simp) rfl
theorem Encoding.faultRecordPost (die : Nat) : Encoding.Statement (.faultRecordPost die) :=
  Encoding.of_none (by simp) rfl
theorem Encoding.faultService (die : Nat) : Encoding.Statement (.faultService die) :=
  Encoding.of_none (by simp) rfl
theorem Encoding.eventRecordPost (die : Nat) : Encoding.Statement (.eventRecordPost die) :=
  Encoding.of_none (by simp) rfl
theorem Encoding.resumeTask (g : Gtid) (n : Nat) : Encoding.Statement (.resumeTask g n) :=
  Encoding.of_none (by simp) rfl
theorem Encoding.bwake (g : Gtid) : Encoding.Statement (.bwake g) :=
  Encoding.of_none (by simp) rfl
theorem Encoding.syscReply (g : Gtid) : Encoding.Statement (.syscReply g) :=
  Encoding.of_none (by simp) rfl
theorem Encoding.fillerSwitch (die row : Nat) : Encoding.Statement (.fillerSwitch die row) :=
  Encoding.of_none (by simp) rfl
theorem Encoding.fillerReturn (die row : Nat) : Encoding.Statement (.fillerReturn die row) :=
  Encoding.of_none (by simp) rfl
theorem Encoding.mxStart (g : Gtid) (c : Nat) : Encoding.Statement (.mxStart g c) :=
  Encoding.of_none (by simp) rfl
theorem Encoding.mxRetire (g : Gtid) (c : Nat) : Encoding.Statement (.mxRetire g c) :=
  Encoding.of_none (by simp) rfl
theorem Encoding.mringBeat (g : Gtid) (c : Nat) : Encoding.Statement (.mringBeat g c) :=
  Encoding.of_none (by simp) rfl
theorem Encoding.qrStart (g : Gtid) (c : Nat) : Encoding.Statement (.qrStart g c) :=
  Encoding.of_none (by simp) rfl
theorem Encoding.qrRetire (g : Gtid) (c : Nat) : Encoding.Statement (.qrRetire g c) :=
  Encoding.of_none (by simp) rfl
theorem Encoding.tokenPush (g : Gtid) (c : Nat) (e : Engine) : Encoding.Statement (.tokenPush g c e) :=
  Encoding.of_none (by simp) rfl
theorem Encoding.copyDue (g : Gtid) (c : Nat) : Encoding.Statement (.copyDue g c) :=
  Encoding.of_none (by simp) rfl
theorem Encoding.copyBeat (g : Gtid) (c : Nat) : Encoding.Statement (.copyBeat g c) :=
  Encoding.of_none (by simp) rfl
theorem Encoding.copyComplete (g : Gtid) (c : Nat) : Encoding.Statement (.copyComplete g c) :=
  Encoding.of_none (by simp) rfl
theorem Encoding.homeAccess (key : Nat) : Encoding.Statement (.homeAccess key) :=
  Encoding.of_none (by simp) rfl
theorem Encoding.faddCombine (die stage switch : Nat) : Encoding.Statement (.faddCombine die stage switch) :=
  Encoding.of_none (by simp) rfl
theorem Encoding.registration (row pa : Nat) : Encoding.Statement (.registration row pa) :=
  Encoding.of_none (by simp) rfl
theorem Encoding.l1dEvict (row pa : Nat) : Encoding.Statement (.l1dEvict row pa) :=
  Encoding.of_none (by simp) rfl
theorem Encoding.sliceWritebackInvalidate (pa : Nat) : Encoding.Statement (.sliceWritebackInvalidate pa) :=
  Encoding.of_none (by simp) rfl
theorem Encoding.sliceWriteback (pa : Nat) : Encoding.Statement (.sliceWriteback pa) :=
  Encoding.of_none (by simp) rfl
theorem Encoding.sliceDropHeld (pa : Nat) : Encoding.Statement (.sliceDropHeld pa) :=
  Encoding.of_none (by simp) rfl
theorem Encoding.sliceMaintDone (die : Nat) : Encoding.Statement (.sliceMaintDone die) :=
  Encoding.of_none (by simp) rfl
theorem Encoding.sliceCounterClear (die : Nat) : Encoding.Statement (.sliceCounterClear die) :=
  Encoding.of_none (by simp) rfl
theorem Encoding.correctableError (e : ErrSite) : Encoding.Statement (.correctableError e) :=
  Encoding.of_none (by simp) rfl
theorem Encoding.uncorrectableError (e : ErrSite) : Encoding.Statement (.uncorrectableError e) :=
  Encoding.of_none (by simp) rfl
theorem Encoding.scrubRead (die : Nat) : Encoding.Statement (.scrubRead die) :=
  Encoding.of_none (by simp) rfl
theorem Encoding.errorInject (die : Nat) (v : Word) : Encoding.Statement (.errorInject die v) :=
  Encoding.of_none (by simp) rfl
theorem Encoding.readClearRegister (pa : Nat) : Encoding.Statement (.readClearRegister pa) :=
  Encoding.of_none (by simp) rfl
theorem Encoding.pageWalk (tlb asid root : Nat) (va : Word) : Encoding.Statement (.pageWalk tlb asid root va) :=
  Encoding.of_none (by simp) rfl
theorem Encoding.tlbInvalidateAll (die : Nat) : Encoding.Statement (.tlbInvalidateAll die) :=
  Encoding.of_none (by simp) rfl
theorem Encoding.tlbInvalidateAsid (die : Nat) : Encoding.Statement (.tlbInvalidateAsid die) :=
  Encoding.of_none (by simp) rfl
theorem Encoding.tlbInvalidateRange (die : Nat) : Encoding.Statement (.tlbInvalidateRange die) :=
  Encoding.of_none (by simp) rfl
theorem Encoding.tlbInvalidateDone (die : Nat) : Encoding.Statement (.tlbInvalidateDone die) :=
  Encoding.of_none (by simp) rfl
theorem Encoding.collatorRowAccept (g : Gtid) (c : Nat) : Encoding.Statement (.collatorRowAccept g c) :=
  Encoding.of_none (by simp) rfl
theorem Encoding.collatorRecordWrite (die : Nat) : Encoding.Statement (.collatorRecordWrite die) :=
  Encoding.of_none (by simp) rfl
theorem Encoding.routeEnd (die : Nat) : Encoding.Statement (.routeEnd die) :=
  Encoding.of_none (by simp) rfl
theorem Encoding.routeResume (die : Nat) : Encoding.Statement (.routeResume die) :=
  Encoding.of_none (by simp) rfl
theorem Encoding.residencyCommit (die : Nat) : Encoding.Statement (.residencyCommit die) :=
  Encoding.of_none (by simp) rfl
theorem Encoding.hintPost (die : Nat) (g : Gtid) (w : Word) : Encoding.Statement (.hintPost die g w) :=
  Encoding.of_none (by simp) rfl
theorem Encoding.spare (w : Caller) (die kind unit row : Nat) : Encoding.Statement (.spare w die kind unit row) :=
  Encoding.of_none (by simp) rfl
theorem Encoding.unspare (w : Caller) (die kind unit row : Nat) : Encoding.Statement (.unspare w die kind unit row) :=
  Encoding.of_none (by simp) rfl
theorem Encoding.pprRepair (die : Nat) : Encoding.Statement (.pprRepair die) :=
  Encoding.of_none (by simp) rfl
theorem Encoding.moduleReset : Encoding.Statement (.moduleReset) :=
  Encoding.of_none (by simp) rfl
theorem Encoding.fwupdate (w : Caller) (img : List Byte) : Encoding.Statement (.fwupdate w img) :=
  Encoding.of_none (by simp) rfl
theorem Encoding.svn (w : Caller) (kind svn : Nat) : Encoding.Statement (.svn w kind svn) :=
  Encoding.of_none (by simp) rfl
theorem Encoding.owner (w : Caller) (hash : BitVec 384) : Encoding.Statement (.owner w hash) :=
  Encoding.of_none (by simp) rfl
theorem Encoding.enrol (w : Caller) (body : List Byte) : Encoding.Statement (.enrol w body) :=
  Encoding.of_none (by simp) rfl
theorem Encoding.revoke (w : Caller) (body : List Byte) : Encoding.Statement (.revoke w body) :=
  Encoding.of_none (by simp) rfl
theorem Encoding.badadd (w : Caller) (entry : Word) : Encoding.Statement (.badadd w entry) :=
  Encoding.of_none (by simp) rfl
theorem Encoding.badclr (w : Caller) (entry : Word) : Encoding.Statement (.badclr w entry) :=
  Encoding.of_none (by simp) rfl
theorem Encoding.attest (w : Caller) (nonce : List Byte) : Encoding.Statement (.attest w nonce) :=
  Encoding.of_none (by simp) rfl
theorem Encoding.regread (w : Caller) (pa : Nat) : Encoding.Statement (.regread w pa) :=
  Encoding.of_none (by simp) rfl
theorem Encoding.regwrite (w : Caller) (pa : Nat) (v : Word) : Encoding.Statement (.regwrite w pa v) :=
  Encoding.of_none (by simp) rfl
theorem Encoding.registerWrite (host : Bool) (pa : Nat) (v : Word) : Encoding.Statement (.registerWrite host pa v) :=
  Encoding.of_none (by simp) rfl
theorem Encoding.load : Encoding.Statement (.load) :=
  Encoding.of_none (by simp) rfl
theorem Encoding.retry : Encoding.Statement (.retry) :=
  Encoding.of_none (by simp) rfl
theorem Encoding.commit : Encoding.Statement (.commit) :=
  Encoding.of_none (by simp) rfl
theorem Encoding.abort : Encoding.Statement (.abort) :=
  Encoding.of_none (by simp) rfl
theorem Encoding.chunk (body : List Byte) : Encoding.Statement (.chunk body) :=
  Encoding.of_none (by simp) rfl
theorem Encoding.shardHashed (i : Nat) : Encoding.Statement (.shardHashed i) :=
  Encoding.of_none (by simp) rfl
theorem Encoding.shardDeadline (i : Nat) : Encoding.Statement (.shardDeadline i) :=
  Encoding.of_none (by simp) rfl
theorem Encoding.powerWindow (m : PowerIn) : Encoding.Statement (.powerWindow m) :=
  Encoding.of_none (by simp) rfl
theorem Encoding.thermalThrottle (hot : Bool) : Encoding.Statement (.thermalThrottle hot) :=
  Encoding.of_none (by simp) rfl
theorem Encoding.thermalTrip : Encoding.Statement (.thermalTrip) :=
  Encoding.of_none (by simp) rfl
theorem Encoding.telemetryRecord (temps : Word) : Encoding.Statement (.telemetryRecord temps) :=
  Encoding.of_none (by simp) rfl
theorem Encoding.breakpointHalt (g : Gtid) : Encoding.Statement (.breakpointHalt g) :=
  Encoding.of_none (by simp) rfl
theorem Encoding.halt : Encoding.Statement (.halt) :=
  Encoding.of_none (by simp) rfl
theorem Encoding.resume : Encoding.Statement (.resume) :=
  Encoding.of_none (by simp) rfl
theorem Encoding.step : Encoding.Statement (.step) :=
  Encoding.of_none (by simp) rfl
theorem Encoding.read : Encoding.Statement (.read) :=
  Encoding.of_none (by simp) rfl
theorem Encoding.write : Encoding.Statement (.write) :=
  Encoding.of_none (by simp) rfl
theorem Encoding.pcSample (g : Gtid) : Encoding.Statement (.pcSample g) :=
  Encoding.of_none (by simp) rfl
theorem Encoding.pressFrameClose (die : Nat) : Encoding.Statement (.pressFrameClose die) :=
  Encoding.of_none (by simp) rfl
theorem Encoding.gridStore (i : Nat) : Encoding.Statement (.gridStore i) :=
  Encoding.of_none (by simp) rfl
theorem Encoding.flitReceive (port : Nat) (flit : List Byte) : Encoding.Statement (.flitReceive port flit) :=
  Encoding.of_none (by simp) rfl
theorem Encoding.linkReplay (port : Nat) : Encoding.Statement (.linkReplay port) :=
  Encoding.of_none (by simp) rfl
theorem Encoding.linkDown (port : Nat) : Encoding.Statement (.linkDown port) :=
  Encoding.of_none (by simp) rfl
theorem Encoding.messageReceive (port : Nat) (m : Msg) : Encoding.Statement (.messageReceive port m) :=
  Encoding.of_none (by simp) rfl
theorem Encoding.ackSend (dev : Nat) : Encoding.Statement (.ackSend dev) :=
  Encoding.of_none (by simp) rfl
theorem Encoding.ackReceive (port : Nat) (m : Msg) : Encoding.Statement (.ackReceive port m) :=
  Encoding.of_none (by simp) rfl
theorem Encoding.e2eRetransmit (dev : Nat) (seq : BitVec 32) : Encoding.Statement (.e2eRetransmit dev seq) :=
  Encoding.of_none (by simp) rfl
theorem Encoding.pairClear (v : Word) : Encoding.Statement (.pairClear v) :=
  Encoding.of_none (by simp) rfl
theorem Encoding.releaseWritePerform (m : Msg) : Encoding.Statement (.releaseWritePerform m) :=
  Encoding.of_none (by simp) rfl
theorem Encoding.rdmaWrite (qp : Nat) (rkey : BitVec 32) (psn pa : Nat) (data : List Byte) : Encoding.Statement (.rdmaWrite qp rkey psn pa data) :=
  Encoding.of_none (by simp) rfl
theorem Encoding.rdmaRead (qp : Nat) (rkey : BitVec 32) (psn pa n : Nat) : Encoding.Statement (.rdmaRead qp rkey psn pa n) :=
  Encoding.of_none (by simp) rfl
theorem Encoding.lcpRequest (qp psn : Nat) (tag : BitVec 32) (op : Nat) (arg : Word) (body : List Byte) : Encoding.Statement (.lcpRequest qp psn tag op arg body) :=
  Encoding.of_none (by simp) rfl
theorem Encoding.kill (w : Caller) (g : Gtid) : Encoding.Statement (.kill w g) :=
  Encoding.of_none (by simp) rfl
theorem Encoding.ptpMessage (port : Nat) (off : Word) (ppm : Int) : Encoding.Statement (.ptpMessage port off ppm) :=
  Encoding.of_none (by simp) rfl
theorem Encoding.xeStart (g : Gtid) (c : Nat) : Encoding.Statement (.xeStart g c) :=
  Encoding.of_none (by simp) rfl
theorem Encoding.putComplete (die : Nat) : Encoding.Statement (.putComplete die) :=
  Encoding.of_none (by simp) rfl
theorem Encoding.receiveCounterCredit (ref n : Nat) : Encoding.Statement (.receiveCounterCredit ref n) :=
  Encoding.of_none (by simp) rfl
theorem Encoding.permitRequestReceive (port : Nat) (m : Msg) : Encoding.Statement (.permitRequestReceive port m) :=
  Encoding.of_none (by simp) rfl
theorem Encoding.permitWindowExpiry (die expert : Nat) : Encoding.Statement (.permitWindowExpiry die expert) :=
  Encoding.of_none (by simp) rfl
theorem Encoding.dispatchReceive (port : Nat) (m : Msg) : Encoding.Statement (.dispatchReceive port m) :=
  Encoding.of_none (by simp) rfl
theorem Encoding.linkUp (port : Nat) : Encoding.Statement (.linkUp port) :=
  Encoding.of_none (by simp) rfl

end Sys2Proof.Laws
end

