-- ==== Sys2Proof/Tests/Slice0.lean ====
section
/-! SUPPORT. Tests: words written out from the encoding tables decode to their syllables; ill-formed terms are refused; the
hypotheses of each statement are met by a state shown here (`test_hyp_…`); worked examples of the spec. Expected results come from the
spec's tables and examples. -/

set_option maxRecDepth 10000

namespace Sys2Proof.Tests

open Sys2Proof Sys2Proof.Machine

/-! ### Decoding (R60 to R86) -/

theorem test_decode_misc : ∀ e ∈ ([
    (0x0038000002000000, .yield ⟨⟨3, true⟩, 0, 0, 0, 0⟩),
    (0x0038000004000000, .exit ⟨⟨3, true⟩, 0, 0, 0, 0⟩)] : List (Nat × Instr)), decodeTableWord 64 e.1 = some e.2 := by decide

theorem test_decode_int : ∀ e ∈ ([
    (0x0238A30E00000000, .add ⟨⟨3, true⟩, 5, 6, 7, 0⟩),
    (0x0238A30E02000000, .sub ⟨⟨3, true⟩, 5, 6, 7, 0⟩),
    (0x0238A30E04000000, .mul ⟨⟨3, true⟩, 5, 6, 7, 0⟩),
    (0x0238A30E06000000, .mulh ⟨⟨3, true⟩, 5, 6, 7, 0⟩),
    (0x0238A30E08000000, .mulhu ⟨⟨3, true⟩, 5, 6, 7, 0⟩),
    (0x0238A30E0A000000, .div ⟨⟨3, true⟩, 5, 6, 7, 0⟩),
    (0x0238A30E0C000000, .divu ⟨⟨3, true⟩, 5, 6, 7, 0⟩),
    (0x0238A30E0E000000, .rem ⟨⟨3, true⟩, 5, 6, 7, 0⟩),
    (0x0238A30E10000000, .remu ⟨⟨3, true⟩, 5, 6, 7, 0⟩),
    (0x0238A30E12000000, .and ⟨⟨3, true⟩, 5, 6, 7, 0⟩),
    (0x0238A30E14000000, .or ⟨⟨3, true⟩, 5, 6, 7, 0⟩),
    (0x0238A30E16000000, .xor ⟨⟨3, true⟩, 5, 6, 7, 0⟩),
    (0x0238A30E18000000, .andn ⟨⟨3, true⟩, 5, 6, 7, 0⟩),
    (0x0238A30E1A000000, .shl ⟨⟨3, true⟩, 5, 6, 7, 0⟩),
    (0x0238A30E1C000000, .shr ⟨⟨3, true⟩, 5, 6, 7, 0⟩),
    (0x0238A30E1E000000, .sra ⟨⟨3, true⟩, 5, 6, 7, 0⟩),
    (0x0238A30E20000000, .rot ⟨⟨3, true⟩, 5, 6, 7, 0⟩),
    (0x0238A30E22000000, .min ⟨⟨3, true⟩, 5, 6, 7, 0⟩),
    (0x0238A30E24000000, .max ⟨⟨3, true⟩, 5, 6, 7, 0⟩),
    (0x0238A30E26000000, .minu ⟨⟨3, true⟩, 5, 6, 7, 0⟩),
    (0x0238A30E28000000, .maxu ⟨⟨3, true⟩, 5, 6, 7, 0⟩),
    (0x0238A3002A000000, .clz ⟨⟨3, true⟩, 5, 6, 0, 0⟩),
    (0x0238A3002C000000, .popc ⟨⟨3, true⟩, 5, 6, 0, 0⟩),
    (0x0238A30E2E000E00, .sel ⟨⟨3, true⟩, 5, 6, 7, 7⟩),
    (0x0238A30030000000, .mov ⟨⟨3, true⟩, 5, 6, 0, 0⟩),
    (0x0238A30032000400, .sext ⟨⟨3, true⟩, 5, 6, 0, 2⟩),
    (0x0238A30034000400, .zext ⟨⟨3, true⟩, 5, 6, 0, 2⟩)] : List (Nat × Instr)), decodeTableWord 64 e.1 = some e.2 := by decide

theorem test_decode_int_imm : ∀ e ∈ ([
    (0x0438A300FFFFFFFB, .addImm ⟨⟨3, true⟩, 5, 6, 4294967291⟩),
    (0x0438A308FFFFFFFB, .mulImm ⟨⟨3, true⟩, 5, 6, 4294967291⟩),
    (0x0438A310FFFFFFFB, .andImm ⟨⟨3, true⟩, 5, 6, 4294967291⟩),
    (0x0438A318FFFFFFFB, .orImm ⟨⟨3, true⟩, 5, 6, 4294967291⟩),
    (0x0438A320FFFFFFFB, .xorImm ⟨⟨3, true⟩, 5, 6, 4294967291⟩),
    (0x0438A3280000002B, .shlImm ⟨⟨3, true⟩, 5, 6, 43⟩),
    (0x0438A3300000002B, .shrImm ⟨⟨3, true⟩, 5, 6, 43⟩),
    (0x0438A3380000002B, .sraImm ⟨⟨3, true⟩, 5, 6, 43⟩),
    (0x0438A3400000002B, .rotImm ⟨⟨3, true⟩, 5, 6, 43⟩),
    (0x0438A348FFFFFFFB, .minImm ⟨⟨3, true⟩, 5, 6, 4294967291⟩),
    (0x0438A350FFFFFFFB, .maxImm ⟨⟨3, true⟩, 5, 6, 4294967291⟩),
    (0x0438A358FFFFFFFB, .minuImm ⟨⟨3, true⟩, 5, 6, 4294967291⟩),
    (0x0438A360FFFFFFFB, .maxuImm ⟨⟨3, true⟩, 5, 6, 4294967291⟩),
    (0x0438A068FFFFFFFB, .movImm ⟨⟨3, true⟩, 5, 0, 4294967291⟩),
    (0x0438A070FFFFFFFB, .movh ⟨⟨3, true⟩, 5, 0, 4294967291⟩)] : List (Nat × Instr)), decodeTableWord 64 e.1 = some e.2 := by decide

theorem test_decode_cmp : ∀ e ∈ ([
    (0x0838A30E00000000, .cmpEq ⟨⟨3, true⟩, 5, 6, 7, 0⟩),
    (0x0838A30E02000000, .cmpNe ⟨⟨3, true⟩, 5, 6, 7, 0⟩),
    (0x0838A30E04000000, .cmpLt ⟨⟨3, true⟩, 5, 6, 7, 0⟩),
    (0x0838A30E06000000, .cmpGe ⟨⟨3, true⟩, 5, 6, 7, 0⟩),
    (0x0838A30E08000000, .cmpLtu ⟨⟨3, true⟩, 5, 6, 7, 0⟩),
    (0x0838A30E0A000000, .cmpGeu ⟨⟨3, true⟩, 5, 6, 7, 0⟩)] : List (Nat × Instr)), decodeTableWord 64 e.1 = some e.2 := by decide

theorem test_decode_cmp_imm : ∀ e ∈ ([
    (0x0A38A300FFFFFFFB, .cmpiEq ⟨⟨3, true⟩, 5, 6, 4294967291⟩),
    (0x0A38A308FFFFFFFB, .cmpiNe ⟨⟨3, true⟩, 5, 6, 4294967291⟩),
    (0x0A38A310FFFFFFFB, .cmpiLt ⟨⟨3, true⟩, 5, 6, 4294967291⟩),
    (0x0A38A318FFFFFFFB, .cmpiGe ⟨⟨3, true⟩, 5, 6, 4294967291⟩),
    (0x0A38A320FFFFFFFB, .cmpiLtu ⟨⟨3, true⟩, 5, 6, 4294967291⟩),
    (0x0A38A328FFFFFFFB, .cmpiGeu ⟨⟨3, true⟩, 5, 6, 4294967291⟩)] : List (Nat × Instr)), decodeTableWord 64 e.1 = some e.2 := by decide

theorem test_decode_pred : ∀ e ∈ ([
    (0x0C38A30E00000000, .pand ⟨⟨3, true⟩, 5, 6, 7, 0⟩),
    (0x0C38A30E02000000, .por ⟨⟨3, true⟩, 5, 6, 7, 0⟩),
    (0x0C38A30E04000000, .pxor ⟨⟨3, true⟩, 5, 6, 7, 0⟩),
    (0x0C38A30E06000000, .pandn ⟨⟨3, true⟩, 5, 6, 7, 0⟩),
    (0x0C38A30008000000, .pnot ⟨⟨3, true⟩, 5, 6, 0, 0⟩),
    (0x0C38A3000A000000, .pmov ⟨⟨3, true⟩, 5, 6, 0, 0⟩),
    (0x0C38A0000C000000, .pget ⟨⟨3, true⟩, 5, 0, 0, 0⟩)] : List (Nat × Instr)), decodeTableWord 64 e.1 = some e.2 := by decide

theorem test_decode_float : ∀ e ∈ ([
    (0x0E38A30E009C0000, .fadd ⟨⟨3, true⟩, 5, 6, 7, 19968⟩),
    (0x0E38A30E029C0000, .fsub ⟨⟨3, true⟩, 5, 6, 7, 19968⟩),
    (0x0E38A30E049C0000, .fmul ⟨⟨3, true⟩, 5, 6, 7, 19968⟩),
    (0x0E38A30E069C0000, .fdiv ⟨⟨3, true⟩, 5, 6, 7, 19968⟩),
    (0x0E38A300089C0000, .fsqrt ⟨⟨3, true⟩, 5, 6, 0, 19968⟩),
    (0x0E38A30E0A9C0000, .fma ⟨⟨3, true⟩, 5, 6, 7, 19968⟩),
    (0x0E38A30E0C9C0000, .fmin ⟨⟨3, true⟩, 5, 6, 7, 19968⟩),
    (0x0E38A30E0E9C0000, .fmax ⟨⟨3, true⟩, 5, 6, 7, 19968⟩),
    (0x0E38A30E109C0400, .fcmp ⟨⟨3, true⟩, 5, 6, 7, 19970⟩),
    (0x0E38A300129C4000, .fcvt ⟨⟨3, true⟩, 5, 6, 0, 20000⟩),
    (0x0E38A300149C3000, .fcvti ⟨⟨3, true⟩, 5, 6, 0, 19992⟩),
    (0x0E38A300169C3000, .fcvtf ⟨⟨3, true⟩, 5, 6, 0, 19992⟩)] : List (Nat × Instr)), decodeTableWord 64 e.1 = some e.2 := by decide

theorem test_decode_control : ∀ e ∈ ([
    (0x10380000FFFFFFFD, .br ⟨⟨3, true⟩, 0, 0, 4294967293⟩),
    (0x10388C01FFFFFFFD, .brp ⟨⟨3, true⟩, 6, 1, 4294967293⟩),
    (0x10390C00FFFFFFFD, .call ⟨⟨3, true⟩, 6, 0, 4294967293⟩),
    (0x10398C0000000000, .ret ⟨⟨3, true⟩, 6, 0, 0⟩),
    (0x103A0C00FFFFFFFD, .jmpr ⟨⟨3, true⟩, 6, 0, 4294967293⟩),
    (0x103A8C03FFFFFFFD, .loop ⟨⟨3, true⟩, 6, 3, 4294967293⟩),
    (0x103B0C03FFFFFFFD, .nexttile ⟨⟨3, true⟩, 6, 3, 4294967293⟩)] : List (Nat × Instr)), decodeTableWord 64 e.1 = some e.2 := by decide

theorem test_decode_mem : ∀ e ∈ ([
    (0x1238A30EE00FFFF8, .ld8 ⟨⟨3, true⟩, 5, 6, 7, 3, true, 0, 1048568⟩),
    (0x1238A30EE10FFFF8, .ld8sx ⟨⟨3, true⟩, 5, 6, 7, 3, true, 0, 1048568⟩),
    (0x1238A30EE20FFFF8, .ld16 ⟨⟨3, true⟩, 5, 6, 7, 3, true, 0, 1048568⟩),
    (0x1238A30EE30FFFF8, .ld16sx ⟨⟨3, true⟩, 5, 6, 7, 3, true, 0, 1048568⟩),
    (0x1238A30EE40FFFF8, .ld32 ⟨⟨3, true⟩, 5, 6, 7, 3, true, 0, 1048568⟩),
    (0x1238A30EE50FFFF8, .ld32sx ⟨⟨3, true⟩, 5, 6, 7, 3, true, 0, 1048568⟩),
    (0x1238A30EE60FFFF8, .ld64 ⟨⟨3, true⟩, 5, 6, 7, 3, true, 0, 1048568⟩),
    (0x1238A30EE80FFFF8, .st8 ⟨⟨3, true⟩, 5, 6, 7, 3, true, 0, 1048568⟩),
    (0x1238A30EE90FFFF8, .st16 ⟨⟨3, true⟩, 5, 6, 7, 3, true, 0, 1048568⟩),
    (0x1238A30EEA0FFFF8, .st32 ⟨⟨3, true⟩, 5, 6, 7, 3, true, 0, 1048568⟩),
    (0x1238A30EEB0FFFF8, .st64 ⟨⟨3, true⟩, 5, 6, 7, 3, true, 0, 1048568⟩),
    (0x1238A30EEC4FFFF8, .lda ⟨⟨3, true⟩, 5, 6, 7, 3, true, 4, 1048568⟩),
    (0x1238A30EED4FFFF8, .stl ⟨⟨3, true⟩, 5, 6, 7, 3, true, 4, 1048568⟩)] : List (Nat × Instr)), decodeTableWord 64 e.1 = some e.2 := by decide

theorem test_decode_amo : ∀ e ∈ ([
    (0x1438A30E007FFFF8, .amoFadd ⟨⟨3, true⟩, 5, 6, 7, 0, false, 7, 1048568⟩),
    (0x1438A30E017FFFF8, .amoSwap ⟨⟨3, true⟩, 5, 6, 7, 0, false, 7, 1048568⟩),
    (0x1438A30E027FFFF8, .amoCas ⟨⟨3, true⟩, 5, 6, 7, 0, false, 7, 1048568⟩),
    (0x1438A30E037FFFF8, .amoMin ⟨⟨3, true⟩, 5, 6, 7, 0, false, 7, 1048568⟩),
    (0x1438A30E047FFFF8, .amoMax ⟨⟨3, true⟩, 5, 6, 7, 0, false, 7, 1048568⟩),
    (0x1438A30E057FFFF8, .amoMinu ⟨⟨3, true⟩, 5, 6, 7, 0, false, 7, 1048568⟩),
    (0x1438A30E067FFFF8, .amoMaxu ⟨⟨3, true⟩, 5, 6, 7, 0, false, 7, 1048568⟩),
    (0x1438A30E077FFFF8, .amoAnd ⟨⟨3, true⟩, 5, 6, 7, 0, false, 7, 1048568⟩),
    (0x1438A30E087FFFF8, .amoOr ⟨⟨3, true⟩, 5, 6, 7, 0, false, 7, 1048568⟩),
    (0x1438A30E097FFFF8, .amoXor ⟨⟨3, true⟩, 5, 6, 7, 0, false, 7, 1048568⟩)] : List (Nat × Instr)), decodeTableWord 64 e.1 = some e.2 := by decide

theorem test_decode_sync : ∀ e ∈ ([
    (0x1638000000000000, .fence ⟨⟨3, true⟩, 0, 0, 0, 0⟩),
    (0x1638000002000000, .fenceAcq ⟨⟨3, true⟩, 0, 0, 0, 0⟩),
    (0x1638000004000000, .fenceRel ⟨⟨3, true⟩, 0, 0, 0, 0⟩),
    (0x1638A30E06000000, .pin ⟨⟨3, true⟩, 5, 6, 7, 0⟩),
    (0x1638A30E08000000, .unpin ⟨⟨3, true⟩, 5, 6, 7, 0⟩)] : List (Nat × Instr)), decodeTableWord 64 e.1 = some e.2 := by decide

theorem test_decode_tag : ∀ e ∈ ([
    (0x1838A30EE00FFFF8, .ldfe ⟨⟨3, true⟩, 5, 6, 7, 3, true, 0, 1048568⟩),
    (0x1838A30EE10FFFF8, .ldff ⟨⟨3, true⟩, 5, 6, 7, 3, true, 0, 1048568⟩),
    (0x1838A30EE20FFFF8, .stef ⟨⟨3, true⟩, 5, 6, 7, 3, true, 0, 1048568⟩),
    (0x1838A30EE30FFFF8, .stff ⟨⟨3, true⟩, 5, 6, 7, 3, true, 0, 1048568⟩),
    (0x1838030EE40FFFF8, .sete ⟨⟨3, true⟩, 0, 6, 7, 3, true, 0, 1048568⟩),
    (0x1838030EE50FFFF8, .setf ⟨⟨3, true⟩, 0, 6, 7, 3, true, 0, 1048568⟩)] : List (Nat × Instr)), decodeTableWord 64 e.1 = some e.2 := by decide

theorem test_decode_sys : ∀ e ∈ ([
    (0x1A38A00000000400, .csrr ⟨⟨3, true⟩, 5, 0, 0, 2⟩),
    (0x1A38030002000400, .csrw ⟨⟨3, true⟩, 0, 6, 0, 2⟩),
    (0x1A38030004000400, .csrs ⟨⟨3, true⟩, 0, 6, 0, 2⟩),
    (0x1A38030006000400, .csrc ⟨⟨3, true⟩, 0, 6, 0, 2⟩),
    (0x1A38A00008000000, .time ⟨⟨3, true⟩, 5, 0, 0, 0⟩)] : List (Nat × Instr)), decodeTableWord 64 e.1 = some e.2 := by decide

theorem test_decode_sys_imm : ∀ e ∈ ([
    (0x1C380000FFFFFFFB, .trap ⟨⟨3, true⟩, 0, 0, 4294967291⟩),
    (0x1C38A308FFFFFFFB, .sysc ⟨⟨3, true⟩, 5, 6, 4294967291⟩),
    (0x1C380010FFFFFFFB, .dbg ⟨⟨3, true⟩, 0, 0, 4294967291⟩)] : List (Nat × Instr)), decodeTableWord 64 e.1 = some e.2 := by decide

theorem test_decode_bin : ∀ e ∈ ([
    (0x1E38A30000000000, .route ⟨⟨3, true⟩, 5, 6, 0, 0⟩),
    (0x1E38A00000000200, .routeCancel ⟨⟨3, true⟩, 5, 0, 0, 1⟩),
    (0x1E38A00002000000, .rstat ⟨⟨3, true⟩, 5, 0, 0, 0⟩),
    (0x1E38A30E04000E00, .spawn ⟨⟨3, true⟩, 5, 6, 7, 7⟩),
    (0x1E38A30E06000000, .binapp ⟨⟨3, true⟩, 5, 6, 7, 0⟩),
    (0x1E38A30E08000200, .binclr ⟨⟨3, true⟩, 5, 6, 7, 1⟩)] : List (Nat × Instr)), decodeTableWord 64 e.1 = some e.2 := by decide

theorem test_decode_xsc : ∀ e ∈ ([
    (0x2038A30E00000000, .xresv ⟨⟨3, true⟩, 5, 6, 7, 0⟩),
    (0x2038A30E00000200, .xresvCfg ⟨⟨3, true⟩, 5, 6, 7, 1⟩),
    (0x2038A30E00000400, .xresvEnd ⟨⟨3, true⟩, 5, 6, 7, 2⟩),
    (0x2038A30E02000000, .xdisp ⟨⟨3, true⟩, 5, 6, 7, 0⟩),
    (0x2038A30004000000, .xcomb ⟨⟨3, true⟩, 5, 6, 0, 0⟩)] : List (Nat × Instr)), decodeTableWord 64 e.1 = some e.2 := by decide

theorem test_decode_thread_vector_mem : ∀ e ∈ ([
    (0x2238A30EE02FFFF8, .ldvBc ⟨⟨3, true⟩, 5, 6, 7, 3, true, 2, 1048568⟩),
    (0x2238A30EE10FFFF8, .stvBc ⟨⟨3, true⟩, 5, 6, 7, 3, true, 0, 1048568⟩),
    (0x2238A30EE22FFFF8, .ldvtBc ⟨⟨3, true⟩, 5, 6, 7, 3, true, 2, 1048568⟩)] : List (Nat × Instr)), decodeTableWord 64 e.1 = some e.2 := by decide

theorem test_decode_lea : ∀ e ∈ ([
    (0x2438A30EE00FFFF8, .lea ⟨⟨3, true⟩, 5, 6, 7, 3, true, 0, 1048568⟩)] : List (Nat × Instr)), decodeTableWord 64 e.1 = some e.2 := by decide

theorem test_decode_core_int : ∀ e ∈ ([
    (0x6038A30E00000000, .mAdd ⟨⟨3, true⟩, 5, 6, 7, 0⟩),
    (0x6038A30E02000000, .mSub ⟨⟨3, true⟩, 5, 6, 7, 0⟩),
    (0x6038A30E04000000, .mMul ⟨⟨3, true⟩, 5, 6, 7, 0⟩),
    (0x6038A30E06000000, .mMulh ⟨⟨3, true⟩, 5, 6, 7, 0⟩),
    (0x6038A30E08000000, .mMulhu ⟨⟨3, true⟩, 5, 6, 7, 0⟩),
    (0x6038A30E0A000000, .mDiv ⟨⟨3, true⟩, 5, 6, 7, 0⟩),
    (0x6038A30E0C000000, .mDivu ⟨⟨3, true⟩, 5, 6, 7, 0⟩),
    (0x6038A30E0E000000, .mRem ⟨⟨3, true⟩, 5, 6, 7, 0⟩),
    (0x6038A30E10000000, .mRemu ⟨⟨3, true⟩, 5, 6, 7, 0⟩),
    (0x6038A30E12000000, .mAnd ⟨⟨3, true⟩, 5, 6, 7, 0⟩),
    (0x6038A30E14000000, .mOr ⟨⟨3, true⟩, 5, 6, 7, 0⟩),
    (0x6038A30E16000000, .mXor ⟨⟨3, true⟩, 5, 6, 7, 0⟩),
    (0x6038A30E18000000, .mAndn ⟨⟨3, true⟩, 5, 6, 7, 0⟩),
    (0x6038A30E1A000000, .mShl ⟨⟨3, true⟩, 5, 6, 7, 0⟩),
    (0x6038A30E1C000000, .mShr ⟨⟨3, true⟩, 5, 6, 7, 0⟩),
    (0x6038A30E1E000000, .mSra ⟨⟨3, true⟩, 5, 6, 7, 0⟩),
    (0x6038A30E20000000, .mRot ⟨⟨3, true⟩, 5, 6, 7, 0⟩),
    (0x6038A30E22000000, .mMin ⟨⟨3, true⟩, 5, 6, 7, 0⟩),
    (0x6038A30E24000000, .mMax ⟨⟨3, true⟩, 5, 6, 7, 0⟩),
    (0x6038A30E26000000, .mMinu ⟨⟨3, true⟩, 5, 6, 7, 0⟩),
    (0x6038A30E28000000, .mMaxu ⟨⟨3, true⟩, 5, 6, 7, 0⟩),
    (0x6038A3002A000000, .mClz ⟨⟨3, true⟩, 5, 6, 0, 0⟩),
    (0x6038A3002C000000, .mPopc ⟨⟨3, true⟩, 5, 6, 0, 0⟩),
    (0x6038A30E2E000E00, .mSel ⟨⟨3, true⟩, 5, 6, 7, 7⟩),
    (0x6038A30030000000, .mMov ⟨⟨3, true⟩, 5, 6, 0, 0⟩),
    (0x6038A30032000400, .mSext ⟨⟨3, true⟩, 5, 6, 0, 2⟩),
    (0x6038A30034000400, .mZext ⟨⟨3, true⟩, 5, 6, 0, 2⟩)] : List (Nat × Instr)), decodeTableWord 64 e.1 = some e.2 := by decide

theorem test_decode_core_int_imm : ∀ e ∈ ([
    (0x6238A300FFFFFFFB, .mAddImm ⟨⟨3, true⟩, 5, 6, 4294967291⟩),
    (0x6238A308FFFFFFFB, .mMulImm ⟨⟨3, true⟩, 5, 6, 4294967291⟩),
    (0x6238A310FFFFFFFB, .mAndImm ⟨⟨3, true⟩, 5, 6, 4294967291⟩),
    (0x6238A318FFFFFFFB, .mOrImm ⟨⟨3, true⟩, 5, 6, 4294967291⟩),
    (0x6238A320FFFFFFFB, .mXorImm ⟨⟨3, true⟩, 5, 6, 4294967291⟩),
    (0x6238A3280000002B, .mShlImm ⟨⟨3, true⟩, 5, 6, 43⟩),
    (0x6238A3300000002B, .mShrImm ⟨⟨3, true⟩, 5, 6, 43⟩),
    (0x6238A3380000002B, .mSraImm ⟨⟨3, true⟩, 5, 6, 43⟩),
    (0x6238A3400000002B, .mRotImm ⟨⟨3, true⟩, 5, 6, 43⟩),
    (0x6238A348FFFFFFFB, .mMinImm ⟨⟨3, true⟩, 5, 6, 4294967291⟩),
    (0x6238A350FFFFFFFB, .mMaxImm ⟨⟨3, true⟩, 5, 6, 4294967291⟩),
    (0x6238A358FFFFFFFB, .mMinuImm ⟨⟨3, true⟩, 5, 6, 4294967291⟩),
    (0x6238A360FFFFFFFB, .mMaxuImm ⟨⟨3, true⟩, 5, 6, 4294967291⟩),
    (0x6238A068FFFFFFFB, .mMovImm ⟨⟨3, true⟩, 5, 0, 4294967291⟩),
    (0x6238A070FFFFFFFB, .mMovh ⟨⟨3, true⟩, 5, 0, 4294967291⟩)] : List (Nat × Instr)), decodeTableWord 64 e.1 = some e.2 := by decide

theorem test_decode_core_cmp : ∀ e ∈ ([
    (0x6438A30E00000000, .mcmpEq ⟨⟨3, true⟩, 5, 6, 7, 0⟩),
    (0x6438A30E02000000, .mcmpNe ⟨⟨3, true⟩, 5, 6, 7, 0⟩),
    (0x6438A30E04000000, .mcmpLt ⟨⟨3, true⟩, 5, 6, 7, 0⟩),
    (0x6438A30E06000000, .mcmpGe ⟨⟨3, true⟩, 5, 6, 7, 0⟩),
    (0x6438A30E08000000, .mcmpLtu ⟨⟨3, true⟩, 5, 6, 7, 0⟩),
    (0x6438A30E0A000000, .mcmpGeu ⟨⟨3, true⟩, 5, 6, 7, 0⟩)] : List (Nat × Instr)), decodeTableWord 64 e.1 = some e.2 := by decide

theorem test_decode_core_cmp_imm : ∀ e ∈ ([
    (0x6638A300FFFFFFFB, .mcmpiEq ⟨⟨3, true⟩, 5, 6, 4294967291⟩),
    (0x6638A308FFFFFFFB, .mcmpiNe ⟨⟨3, true⟩, 5, 6, 4294967291⟩),
    (0x6638A310FFFFFFFB, .mcmpiLt ⟨⟨3, true⟩, 5, 6, 4294967291⟩),
    (0x6638A318FFFFFFFB, .mcmpiGe ⟨⟨3, true⟩, 5, 6, 4294967291⟩),
    (0x6638A320FFFFFFFB, .mcmpiLtu ⟨⟨3, true⟩, 5, 6, 4294967291⟩),
    (0x6638A328FFFFFFFB, .mcmpiGeu ⟨⟨3, true⟩, 5, 6, 4294967291⟩)] : List (Nat × Instr)), decodeTableWord 64 e.1 = some e.2 := by decide

theorem test_decode_core_pred : ∀ e ∈ ([
    (0x6838A30E00000000, .mPand ⟨⟨3, true⟩, 5, 6, 7, 0⟩),
    (0x6838A30E02000000, .mPor ⟨⟨3, true⟩, 5, 6, 7, 0⟩),
    (0x6838A30E04000000, .mPxor ⟨⟨3, true⟩, 5, 6, 7, 0⟩),
    (0x6838A30E06000000, .mPandn ⟨⟨3, true⟩, 5, 6, 7, 0⟩),
    (0x6838A30008000000, .mPnot ⟨⟨3, true⟩, 5, 6, 0, 0⟩),
    (0x6838A3000A000000, .mPmov ⟨⟨3, true⟩, 5, 6, 0, 0⟩),
    (0x6838A0000C000000, .mPget ⟨⟨3, true⟩, 5, 0, 0, 0⟩)] : List (Nat × Instr)), decodeTableWord 64 e.1 = some e.2 := by decide

theorem test_decode_core_id : ∀ e ∈ ([
    (0x6C38A00000000000, .colid ⟨⟨3, true⟩, 5, 0, 0, 0⟩),
    (0x6C38A00002000000, .rowid ⟨⟨3, true⟩, 5, 0, 0, 0⟩)] : List (Nat × Instr)), decodeTableWord 64 e.1 = some e.2 := by decide

theorem test_decode_scratchpad : ∀ e ∈ ([
    (0x6E38A30EE07FFFF8, .lds ⟨⟨3, true⟩, 5, 6, 7, 3, true, 7, 1048568⟩),
    (0x6E38A30EE13FFFF8, .sts ⟨⟨3, true⟩, 5, 6, 7, 3, true, 3, 1048568⟩),
    (0x6E38A30EE20FFFF8, .ldv ⟨⟨3, true⟩, 5, 6, 7, 3, true, 0, 1048568⟩),
    (0x6E38A30EE30FFFF8, .stv ⟨⟨3, true⟩, 5, 6, 7, 3, true, 0, 1048568⟩),
    (0x6E38A30EE40FFFF8, .ldvt ⟨⟨3, true⟩, 5, 6, 7, 3, true, 0, 1048568⟩)] : List (Nat × Instr)), decodeTableWord 64 e.1 = some e.2 := by decide

theorem test_decode_ring : ∀ e ∈ ([
    (0x7038030000000A00, .rput ⟨⟨3, true⟩, 0, 6, 0, 5⟩),
    (0x7038A00002000A00, .rget ⟨⟨3, true⟩, 5, 0, 0, 5⟩)] : List (Nat × Instr)), decodeTableWord 64 e.1 = some e.2 := by decide

theorem test_decode_core_lea : ∀ e ∈ ([
    (0x7238A30EE00FFFF8, .mLea ⟨⟨3, true⟩, 5, 6, 7, 3, true, 0, 1048568⟩)] : List (Nat × Instr)), decodeTableWord 64 e.1 = some e.2 := by decide

theorem test_decode_vector_float : ∀ e ∈ ([
    (0x8038828C01000920, .vadd ⟨⟨3, true⟩, 4, 5, 6, 0, 1, 0, 9, 1, 0, 0⟩),
    (0x8038828C01001920, .vsub ⟨⟨3, true⟩, 4, 5, 6, 0, 1, 0, 9, 1, 0, 0⟩),
    (0x8038828C01002920, .vmul ⟨⟨3, true⟩, 4, 5, 6, 0, 1, 0, 9, 1, 0, 0⟩),
    (0x8038828C01003920, .vdiv ⟨⟨3, true⟩, 4, 5, 6, 0, 1, 0, 9, 1, 0, 0⟩),
    (0x8038828C39004920, .vfma ⟨⟨3, true⟩, 4, 5, 6, 7, 1, 0, 9, 1, 0, 0⟩),
    (0x8038828C39005920, .vfms ⟨⟨3, true⟩, 4, 5, 6, 7, 1, 0, 9, 1, 0, 0⟩),
    (0x8038828C010069E0, .vmin ⟨⟨3, true⟩, 4, 5, 6, 0, 1, 0, 9, 7, 0, 0⟩),
    (0x8038828C010079E0, .vmax ⟨⟨3, true⟩, 4, 5, 6, 0, 1, 0, 9, 7, 0, 0⟩),
    (0x80388280010089E0, .vabs ⟨⟨3, true⟩, 4, 5, 0, 0, 1, 0, 9, 7, 0, 0⟩),
    (0x80388280010099E0, .vneg ⟨⟨3, true⟩, 4, 5, 0, 0, 1, 0, 9, 7, 0, 0⟩)] : List (Nat × Instr)), decodeTableWord 64 e.1 = some e.2 := by decide

theorem test_decode_vector_function : ∀ e ∈ ([
    (0x8238828001000920, .vrcp ⟨⟨3, true⟩, 4, 5, 0, 0, 1, 0, 9, 1, 0, 0⟩),
    (0x8238828001001920, .vrsq ⟨⟨3, true⟩, 4, 5, 0, 0, 1, 0, 9, 1, 0, 0⟩),
    (0x8238828001002920, .vsqrt ⟨⟨3, true⟩, 4, 5, 0, 0, 1, 0, 9, 1, 0, 0⟩),
    (0x8238828001003920, .vexp2 ⟨⟨3, true⟩, 4, 5, 0, 0, 1, 0, 9, 1, 0, 0⟩),
    (0x8238828001004920, .vlog2 ⟨⟨3, true⟩, 4, 5, 0, 0, 1, 0, 9, 1, 0, 0⟩),
    (0x8238828001005920, .vsig ⟨⟨3, true⟩, 4, 5, 0, 0, 1, 0, 9, 1, 0, 0⟩),
    (0x8238828001006920, .vtanh ⟨⟨3, true⟩, 4, 5, 0, 0, 1, 0, 9, 1, 0, 0⟩)] : List (Nat × Instr)), decodeTableWord 64 e.1 = some e.2 := by decide

theorem test_decode_vector_int : ∀ e ∈ ([
    (0x8438828C010009E1, .vaddInt ⟨⟨3, true⟩, 4, 5, 6, 0, 1, 0, 9, 7, 0, 1⟩),
    (0x8438828C010019E1, .vsubInt ⟨⟨3, true⟩, 4, 5, 6, 0, 1, 0, 9, 7, 0, 1⟩),
    (0x8438828C010029E0, .vmulInt ⟨⟨3, true⟩, 4, 5, 6, 0, 1, 0, 9, 7, 0, 0⟩),
    (0x8438828C010039E2, .vminInt ⟨⟨3, true⟩, 4, 5, 6, 0, 1, 0, 9, 7, 0, 2⟩),
    (0x8438828C010049E2, .vmaxInt ⟨⟨3, true⟩, 4, 5, 6, 0, 1, 0, 9, 7, 0, 2⟩),
    (0x8438828C010059E0, .vand ⟨⟨3, true⟩, 4, 5, 6, 0, 1, 0, 9, 7, 0, 0⟩),
    (0x8438828C010069E0, .vor ⟨⟨3, true⟩, 4, 5, 6, 0, 1, 0, 9, 7, 0, 0⟩),
    (0x8438828C010079E0, .vxor ⟨⟨3, true⟩, 4, 5, 6, 0, 1, 0, 9, 7, 0, 0⟩),
    (0x84388280010089E0, .vnot ⟨⟨3, true⟩, 4, 5, 0, 0, 1, 0, 9, 7, 0, 0⟩),
    (0x8438828C010099E0, .vshl ⟨⟨3, true⟩, 4, 5, 6, 0, 1, 0, 9, 7, 0, 0⟩),
    (0x8438828C0100A9E0, .vshr ⟨⟨3, true⟩, 4, 5, 6, 0, 1, 0, 9, 7, 0, 0⟩),
    (0x8438828C0100B9E0, .vsra ⟨⟨3, true⟩, 4, 5, 6, 0, 1, 0, 9, 7, 0, 0⟩),
    (0x843882800100C9E0, .vpopc ⟨⟨3, true⟩, 4, 5, 0, 0, 1, 0, 9, 7, 0, 0⟩),
    (0x843882800100D9E0, .vclz ⟨⟨3, true⟩, 4, 5, 0, 0, 1, 0, 9, 7, 0, 0⟩)] : List (Nat × Instr)), decodeTableWord 64 e.1 = some e.2 := by decide

theorem test_decode_vector_compare : ∀ e ∈ ([
    (0x8638828C010009E3, .vcmp ⟨⟨3, true⟩, 4, 5, 6, 0, 1, 0, 9, 7, 0, 3⟩)] : List (Nat × Instr)), decodeTableWord 64 e.1 = some e.2 := by decide

theorem test_decode_vector_mask : ∀ e ∈ ([
    (0x8838828C000000E0, .vmand ⟨⟨3, true⟩, 4, 5, 6, 0, 0, 0, 0, 7, 0, 0⟩),
    (0x8838828C000010E0, .vmor ⟨⟨3, true⟩, 4, 5, 6, 0, 0, 0, 0, 7, 0, 0⟩),
    (0x8838828C000020E0, .vmxor ⟨⟨3, true⟩, 4, 5, 6, 0, 0, 0, 0, 7, 0, 0⟩),
    (0x88388280000030E0, .vmnot ⟨⟨3, true⟩, 4, 5, 0, 0, 0, 0, 0, 7, 0, 0⟩),
    (0x88388280000040E0, .vmcnt ⟨⟨3, true⟩, 4, 5, 0, 0, 0, 0, 0, 7, 0, 0⟩),
    (0x88388280000050E0, .vmfirst ⟨⟨3, true⟩, 4, 5, 0, 0, 0, 0, 0, 7, 0, 0⟩)] : List (Nat × Instr)), decodeTableWord 64 e.1 = some e.2 := by decide

theorem test_decode_vector_select : ∀ e ∈ ([
    (0x8A38828C010009E0, .vsel ⟨⟨3, true⟩, 4, 5, 6, 0, 1, 0, 9, 7, 0, 0⟩)] : List (Nat × Instr)), decodeTableWord 64 e.1 = some e.2 := by decide

theorem test_decode_vector_convert : ∀ e ∈ ([
    (0x8C38828C01000920, .vcvt ⟨⟨3, true⟩, 4, 5, 6, 0, 1, 0, 9, 1, 0, 0⟩),
    (0x8C38828C3800192B, .vqnt ⟨⟨3, true⟩, 4, 5, 6, 7, 0, 0, 9, 1, 1, 3⟩),
    (0x8C38828C3800292B, .vdeq ⟨⟨3, true⟩, 4, 5, 6, 7, 0, 0, 9, 1, 1, 3⟩)] : List (Nat × Instr)), decodeTableWord 64 e.1 = some e.2 := by decide

theorem test_decode_vector_reduce : ∀ e ∈ ([
    (0x8E38828401000420, .vred ⟨⟨3, true⟩, 4, 5, 2, 0, 1, 0, 4, 1, 0, 0⟩),
    (0x8E38828401001420, .vscan ⟨⟨3, true⟩, 4, 5, 2, 0, 1, 0, 4, 1, 0, 0⟩)] : List (Nat × Instr)), decodeTableWord 64 e.1 = some e.2 := by decide

theorem test_decode_vector_move : ∀ e ∈ ([
    (0x90388280010009E0, .vmov ⟨⟨3, true⟩, 4, 5, 0, 0, 1, 0, 9, 7, 0, 0⟩),
    (0x90388280010019E1, .vbcast ⟨⟨3, true⟩, 4, 5, 0, 0, 1, 0, 9, 7, 0, 1⟩),
    (0x90388280010029E0, .vtran ⟨⟨3, true⟩, 4, 5, 0, 0, 1, 0, 9, 7, 0, 0⟩),
    (0x9038828C010039E0, .vshuf ⟨⟨3, true⟩, 4, 5, 6, 0, 1, 0, 9, 7, 0, 0⟩),
    (0x90388280380049E8, .vext ⟨⟨3, true⟩, 4, 5, 0, 7, 0, 0, 9, 7, 1, 0⟩),
    (0x90388280390059E8, .vins ⟨⟨3, true⟩, 4, 5, 0, 7, 1, 0, 9, 7, 1, 0⟩),
    (0x9038800039006428, .viota ⟨⟨3, true⟩, 4, 0, 0, 7, 1, 0, 4, 1, 1, 0⟩)] : List (Nat × Instr)), decodeTableWord 64 e.1 = some e.2 := by decide

theorem test_decode_vector_special : ∀ e ∈ ([
    (0x92388280390009E8, .nzscan ⟨⟨3, true⟩, 4, 5, 0, 7, 1, 0, 9, 7, 1, 0⟩),
    (0x92388280010019E7, .vtopk ⟨⟨3, true⟩, 4, 5, 0, 0, 1, 0, 9, 7, 0, 7⟩),
    (0x92388280000029E3, .vsort ⟨⟨3, true⟩, 4, 5, 0, 0, 0, 0, 9, 7, 0, 3⟩),
    (0x92380000380030E8, .vshape ⟨⟨3, true⟩, 0, 0, 0, 7, 0, 0, 0, 7, 1, 0⟩)] : List (Nat × Instr)), decodeTableWord 64 e.1 = some e.2 := by decide

theorem test_decode_mx : ∀ e ∈ ([
    (0xC03B810626800025, .mldb ⟨⟨3, true⟩, 3, 8, 4, 6, 9, 5, false, false, 0, 37⟩),
    (0xC03B800000010000, .mswap ⟨⟨3, true⟩, 3, 8, 0, 0, 0, 0, false, false, 0, 0⟩),
    (0xC03B800000020000, .mring ⟨⟨3, true⟩, 3, 8, 0, 0, 0, 0, false, false, 0, 0⟩),
    (0xC03B810626830044, .mma ⟨⟨3, true⟩, 3, 8, 4, 6, 9, 5, false, false, 0, 68⟩),
    (0xC03B810626840044, .mmas ⟨⟨3, true⟩, 3, 8, 4, 6, 9, 5, false, false, 0, 68⟩),
    (0xC03B810626850007, .gmma ⟨⟨3, true⟩, 3, 8, 4, 6, 9, 5, false, false, 0, 7⟩),
    (0xC03B8000000600A5, .mzero ⟨⟨3, true⟩, 3, 8, 0, 0, 0, 0, false, false, 0, 165⟩),
    (0xC03B810002070024, .mdrain ⟨⟨3, true⟩, 3, 8, 4, 0, 0, 4, false, false, 0, 36⟩),
    (0xC03B810626880059, .mstream ⟨⟨3, true⟩, 3, 8, 4, 6, 9, 5, false, false, 0, 89⟩)] : List (Nat × Instr)), decodeTableWord 64 e.1 = some e.2 := by decide

theorem test_decode_qr : ∀ e ∈ ([
    (0xC23A810002000000, .qcfg ⟨⟨3, true⟩, 2, 8, 4, 0, 0, 4, false, false, 0, 0⟩),
    (0xC23A81062681000F, .qtri ⟨⟨3, true⟩, 2, 8, 4, 6, 9, 5, false, false, 0, 15⟩),
    (0xC23A810602020003, .qapply ⟨⟨3, true⟩, 2, 8, 4, 6, 0, 4, false, false, 0, 3⟩),
    (0xC23A810600030007, .qang ⟨⟨3, true⟩, 2, 8, 4, 6, 0, 0, false, false, 0, 7⟩),
    (0xC23A810602040003, .qrot ⟨⟨3, true⟩, 2, 8, 4, 6, 0, 4, false, false, 0, 3⟩),
    (0xC23A810602050003, .qsolve ⟨⟨3, true⟩, 2, 8, 4, 6, 0, 4, false, false, 0, 3⟩),
    (0xC23A810002060003, .qgain ⟨⟨3, true⟩, 2, 8, 4, 0, 0, 4, false, false, 0, 3⟩),
    (0xC23A81060207000B, .qldt ⟨⟨3, true⟩, 2, 8, 4, 6, 0, 4, false, false, 0, 11⟩),
    (0xC23A810602080007, .qstt ⟨⟨3, true⟩, 2, 8, 4, 6, 0, 4, false, false, 0, 7⟩)] : List (Nat × Instr)), decodeTableWord 64 e.1 = some e.2 := by decide

theorem test_decode_cp : ∀ e ∈ ([
    (0xC43A41062680897F, .cp ⟨⟨3, true⟩, 2, 4, 4, 6, 9, 5, true, false, 9, 127⟩),
    (0xC43A41062681897F, .cpg ⟨⟨3, true⟩, 2, 4, 4, 6, 9, 5, true, false, 9, 127⟩),
    (0xC43A41062682897F, .cps ⟨⟨3, true⟩, 2, 4, 4, 6, 9, 5, true, false, 9, 127⟩),
    (0xC43A41062683897F, .cpd ⟨⟨3, true⟩, 2, 4, 4, 6, 9, 5, true, false, 9, 127⟩),
    (0xC43A41062684C93F, .cpf ⟨⟨3, true⟩, 2, 4, 4, 6, 9, 5, true, true, 9, 63⟩),
    (0xC43A41000205000F, .cpw ⟨⟨3, true⟩, 2, 4, 4, 0, 0, 4, false, false, 0, 15⟩),
    (0xC438010000060017, .cpq ⟨⟨3, true⟩, 0, 0, 4, 0, 0, 0, false, false, 0, 23⟩),
    (0xC43801000207003F, .arrv ⟨⟨3, true⟩, 0, 0, 4, 0, 0, 4, false, false, 0, 63⟩),
    (0xC43A40000008007F, .waitb ⟨⟨3, true⟩, 2, 4, 0, 0, 0, 0, false, false, 0, 127⟩)] : List (Nat × Instr)), decodeTableWord 64 e.1 = some e.2 := by decide

theorem test_decode_xe : ∀ e ∈ ([
    (0xC638810626800001, .xput ⟨⟨3, true⟩, 0, 8, 4, 6, 9, 5, false, false, 0, 1⟩),
    (0xC638810626810001, .xget ⟨⟨3, true⟩, 0, 8, 4, 6, 9, 5, false, false, 0, 1⟩),
    (0xC638810626020019, .xamo ⟨⟨3, true⟩, 0, 8, 4, 6, 9, 4, false, false, 0, 25⟩),
    (0xC638810002030001, .xsend ⟨⟨3, true⟩, 0, 8, 4, 0, 0, 4, false, false, 0, 1⟩),
    (0xC638810626840001, .xtrig ⟨⟨3, true⟩, 0, 8, 4, 6, 9, 5, false, false, 0, 1⟩),
    (0xC638810600050000, .xcntRead ⟨⟨3, true⟩, 0, 8, 4, 6, 0, 0, false, false, 0, 0⟩),
    (0xC638810600050001, .xcntSet ⟨⟨3, true⟩, 0, 8, 4, 6, 0, 0, false, false, 0, 1⟩),
    (0xC638810600050002, .xcntAdd ⟨⟨3, true⟩, 0, 8, 4, 6, 0, 0, false, false, 0, 2⟩),
    (0xC638810600050003, .xcntErr ⟨⟨3, true⟩, 0, 8, 4, 6, 0, 0, false, false, 0, 3⟩),
    (0xC638810600060001, .xtile ⟨⟨3, true⟩, 0, 8, 4, 6, 0, 0, false, false, 0, 1⟩),
    (0xC638800600060002, .xtileFire ⟨⟨3, true⟩, 0, 8, 0, 6, 0, 0, false, false, 0, 2⟩),
    (0xC638810602070001, .xrt ⟨⟨3, true⟩, 0, 8, 4, 6, 0, 4, false, false, 0, 1⟩),
    (0xC638810002080000, .xflush ⟨⟨3, true⟩, 0, 8, 4, 0, 0, 4, false, false, 0, 0⟩),
    (0xC638810600090002, .xwait ⟨⟨3, true⟩, 0, 8, 4, 6, 0, 0, false, false, 0, 2⟩),
    (0xC638800000090003, .xwaitDrain ⟨⟨3, true⟩, 0, 8, 0, 0, 0, 0, false, false, 0, 3⟩)] : List (Nat × Instr)), decodeTableWord 64 e.1 = some e.2 := by decide

theorem test_decode_vtok : ∀ e ∈ ([
    (0xC83A800000000000, .vtok ⟨⟨3, true⟩, 2, 8, 0, 0, 0, 0, false, false, 0, 0⟩)] : List (Nat × Instr)), decodeTableWord 64 e.1 = some e.2 := by decide

theorem test_decode_literal :
    decodeTableWord 128 0xDEADBEEF012345670638A00000000000 = some (.movl ⟨⟨3, true⟩, 5, 0xDEADBEEF01234567⟩) ∧
    decodeTableWord 128 0xDEADBEEF012345676A38A00000000000 = some (.mMovl ⟨⟨3, true⟩, 5, 0xDEADBEEF01234567⟩) ∧
    decodeTableWord 64 0 = some .nop := by decide

/-! ### Well-formed terms -/

theorem test_wf_unused_fields : ∀ i ∈ ([
    .clz ⟨⟨3, true⟩, 5, 6, 1, 0⟩, .exit ⟨⟨3, true⟩, 1, 0, 0, 0⟩, .movImm ⟨⟨3, true⟩, 5, 2, 4294967291⟩, .trap ⟨⟨3, true⟩, 1, 0,
    4294967291⟩, .sete ⟨⟨3, true⟩, 1, 6, 7, 3, true, 0, 1048568⟩, .ret ⟨⟨3, true⟩, 6, 0, 1⟩] : List Instr), i.wellFormed .spine = false := by decide

theorem test_wf_core_registers : ∀ i ∈ ([
    .mAdd ⟨⟨3, true⟩, 32, 6, 7, 0⟩, .mAdd ⟨⟨3, true⟩, 5, 40, 7, 0⟩, .lds ⟨⟨3, true⟩, 5, 33, 7, 3, true, 7, 1048568⟩, .mMovImm ⟨⟨3,
    true⟩, 63, 0, 4294967291⟩, .rget ⟨⟨3, true⟩, 32, 0, 0, 5⟩] : List Instr), i.wellFormed .core = false := by decide

theorem test_wf_thread_registers : ∀ i ∈ ([
    .add ⟨⟨3, true⟩, 32, 6, 7, 0⟩, .ld64 ⟨⟨3, true⟩, 5, 6, 32, 3, true, 0, 1048568⟩, .vadd ⟨⟨3, true⟩, 16, 5, 6, 0, 1, 0, 9, 1, 0, 0⟩,
    .vadd ⟨⟨3, true⟩, 4, 5, 6, 0, 1, 8, 9, 1, 0, 0⟩] : List Instr), i.wellFormed (.bc 16) = false := by decide

theorem test_wf_predicates : ∀ i ∈ ([
    .cmpEq ⟨⟨3, true⟩, 32, 6, 7, 0⟩, .pand ⟨⟨3, true⟩, 5, 6, 32, 0⟩, .brp ⟨⟨3, true⟩, 32, 1, 4294967293⟩] : List Instr), i.wellFormed .spine = false := by decide

theorem test_wf_masks : ∀ i ∈ ([
    .vmand ⟨⟨3, true⟩, 8, 5, 6, 0, 0, 0, 0, 7, 0, 0⟩, .vmcnt ⟨⟨3, true⟩, 4, 8, 0, 0, 0, 0, 0, 7, 0, 0⟩, .vcmp ⟨⟨3, true⟩, 8, 5, 6, 0, 1,
    0, 9, 7, 0, 3⟩] : List Instr), i.wellFormed .core = false := by decide

theorem test_wf_core_vectors : ∀ i ∈ ([
    .vadd ⟨⟨3, true⟩, 4, 5, 6, 0, 1, 4, 9, 1, 0, 0⟩, .vsort ⟨⟨3, true⟩, 63, 5, 0, 0, 0, 0, 9, 7, 0, 3⟩, .vdeq ⟨⟨3, true⟩, 4, 63, 6, 7,
    0, 0, 9, 1, 1, 3⟩] : List Instr), i.wellFormed .core = false := by decide

theorem test_wf_modifier_bits : ∀ i ∈ ([
    .add ⟨⟨3, true⟩, 5, 6, 7, 1⟩, .sel ⟨⟨3, true⟩, 5, 6, 7, 32⟩, .brp ⟨⟨3, true⟩, 6, 2, 4294967293⟩, .ld64 ⟨⟨3, true⟩, 5, 6, 7, 3, true,
    1, 1048568⟩, .xdisp ⟨⟨3, true⟩, 5, 6, 7, 1⟩] : List Instr), i.wellFormed .spine = false := by decide

theorem test_wf_core_modifier_bits : ∀ i ∈ ([
    .mAdd ⟨⟨3, true⟩, 5, 6, 7, 1⟩, .mSel ⟨⟨3, true⟩, 5, 6, 7, 32⟩, .vadd ⟨⟨3, true⟩, 4, 5, 6, 0, 1, 0, 9, 1, 0, 1⟩, .qcfg ⟨⟨3, true⟩, 2,
    8, 4, 0, 0, 4, false, false, 0, 1⟩, .sts ⟨⟨3, true⟩, 5, 6, 7, 3, true, 4, 1048568⟩] : List Instr), i.wellFormed .core = false := by decide

theorem test_wf_index : ∀ i ∈ ([
    .ld64 ⟨⟨3, true⟩, 5, 6, 7, 3, false, 0, 1048568⟩, .amoFadd ⟨⟨3, true⟩, 5, 6, 7, 0, true, 7, 1048568⟩, .amoFadd ⟨⟨3, true⟩, 5, 6, 7,
    1, false, 7, 1048568⟩] : List Instr), i.wellFormed .spine = false := by decide

theorem test_wf_stride : ∀ i ∈ ([
    .ldv ⟨⟨3, true⟩, 5, 6, 7, 3, true, 1, 1048568⟩, .ldv ⟨⟨3, true⟩, 5, 6, 7, 3, true, 3, 1048568⟩] : List Instr), i.wellFormed .core = false := by decide

theorem test_wf_vector_fields : ∀ i ∈ ([
    .vadd ⟨⟨3, true⟩, 4, 5, 6, 1, 1, 0, 9, 1, 0, 0⟩, .vadd ⟨⟨3, true⟩, 4, 5, 6, 0, 1, 0, 9, 1, 1, 0⟩, .vadd ⟨⟨3, true⟩, 4, 5, 0, 0, 1,
    0, 9, 1, 3, 0⟩, .vadd ⟨⟨3, true⟩, 4, 5, 6, 0, 1, 0, 10, 1, 0, 0⟩, .vadd ⟨⟨3, true⟩, 4, 5, 6, 0, 1, 0, 9, 5, 0, 0⟩, .vmin ⟨⟨3, true⟩,
    4, 5, 6, 0, 1, 0, 9, 1, 0, 0⟩, .vqnt ⟨⟨3, true⟩, 4, 5, 6, 7, 1, 0, 9, 1, 1, 3⟩, .vext ⟨⟨3, true⟩, 4, 5, 0, 0, 0, 0, 9, 7, 0, 0⟩,
    .nzscan ⟨⟨3, true⟩, 4, 5, 0, 7, 1, 0, 9, 7, 2, 0⟩] : List Instr), i.wellFormed .core = false := by decide

theorem test_wf_engine_operands : ∀ i ∈ ([
    .mma ⟨⟨3, true⟩, 3, 8, 4, 32, 9, 4, false, false, 0, 68⟩, .mswap ⟨⟨3, true⟩, 3, 8, 1, 0, 0, 0, false, false, 0, 0⟩, .mswap ⟨⟨3,
    true⟩, 3, 8, 0, 0, 0, 4, false, false, 0, 0⟩, .cpq ⟨⟨3, true⟩, 0, 0, 4, 0, 0, 4, false, false, 0, 23⟩, .qang ⟨⟨3, true⟩, 2, 8, 32,
    6, 0, 0, false, false, 0, 7⟩] : List Instr), i.wellFormed .core = false := by decide

theorem test_wf_tokens : ∀ i ∈ ([
    .mma ⟨⟨3, true⟩, 2, 8, 4, 6, 9, 5, false, false, 0, 68⟩, .mma ⟨⟨3, true⟩, 3, 2, 4, 6, 9, 5, false, false, 0, 68⟩, .mma ⟨⟨3, true⟩,
    6, 8, 4, 6, 9, 5, false, false, 0, 68⟩, .vtok ⟨⟨3, true⟩, 2, 15, 0, 0, 0, 0, false, false, 0, 0⟩, .arrv ⟨⟨3, true⟩, 1, 0, 4, 0, 0,
    4, false, false, 0, 63⟩, .arrv ⟨⟨3, true⟩, 0, 1, 4, 0, 0, 4, false, false, 0, 63⟩, .xput ⟨⟨3, true⟩, 1, 8, 4, 6, 9, 5, false, false,
    0, 1⟩] : List Instr), i.wellFormed .core = false := by decide

theorem test_wf_issue_time : ∀ i ∈ ([
    .mma ⟨⟨3, true⟩, 3, 8, 4, 6, 9, 5, true, false, 0, 68⟩, .cpw ⟨⟨3, true⟩, 2, 4, 4, 0, 0, 4, true, false, 0, 15⟩, .cp ⟨⟨3, true⟩, 2,
    4, 4, 6, 9, 5, false, false, 9, 127⟩, .cp ⟨⟨3, true⟩, 2, 4, 4, 6, 9, 5, false, true, 0, 127⟩, .cp ⟨⟨3, true⟩, 2, 4, 4, 6, 9, 5,
    true, false, 32, 127⟩] : List Instr), i.wellFormed .core = false := by decide

theorem test_wf_shift_amounts : ∀ i ∈ ([
    .shlImm ⟨⟨3, true⟩, 5, 6, 64⟩, .rotImm ⟨⟨3, true⟩, 5, 6, 4294967295⟩] : List Instr), i.wellFormed .spine = false := by decide

theorem test_wf_extensions : ∀ i ∈ ([
    .sext ⟨⟨3, true⟩, 5, 6, 0, 3⟩, .zext ⟨⟨3, true⟩, 5, 6, 0, 3⟩] : List Instr), i.wellFormed .spine = false := by decide

theorem test_wf_float_codes : ∀ i ∈ ([
    .fadd ⟨⟨3, true⟩, 5, 6, 7, 3584⟩, .fadd ⟨⟨3, true⟩, 5, 6, 7, 24064⟩, .fadd ⟨⟨3, true⟩, 5, 6, 7, 18944⟩, .fmin ⟨⟨3, true⟩, 5, 6, 7,
    16896⟩, .fcmp ⟨⟨3, true⟩, 5, 6, 7, 19972⟩, .fcvt ⟨⟨3, true⟩, 5, 6, 0, 19968⟩, .fcvti ⟨⟨3, true⟩, 5, 6, 0, 3584⟩] : List Instr), i.wellFormed .spine = false := by decide

theorem test_wf_runs_of_registers : ∀ i ∈ ([
    .nexttile ⟨⟨3, true⟩, 6, 0, 4294967293⟩, .nexttile ⟨⟨3, true⟩, 6, 17, 4294967293⟩, .nexttile ⟨⟨3, true⟩, 60, 5, 4294967293⟩] : List Instr), i.wellFormed .spine = false := by decide

theorem test_wf_thread_runs : ∀ i ∈ ([
    .spawn ⟨⟨3, true⟩, 5, 6, 7, 17⟩, .spawn ⟨⟨3, true⟩, 5, 6, 28, 5⟩, .binapp ⟨⟨3, true⟩, 5, 6, 31, 0⟩] : List Instr), i.wellFormed (.bc 16) = false := by decide

theorem test_wf_csr_numbers : ∀ i ∈ ([
    .csrr ⟨⟨3, true⟩, 5, 0, 0, 3⟩, .csrr ⟨⟨3, true⟩, 5, 0, 0, 4097⟩, .csrw ⟨⟨3, true⟩, 0, 6, 0, 37121⟩, .csrr ⟨⟨3, true⟩, 5, 0, 0, 260⟩] : List Instr), i.wellFormed .spine = false := by decide

theorem test_wf_vector_entries : ∀ i ∈ ([
    .vcmp ⟨⟨3, true⟩, 4, 5, 6, 0, 1, 0, 9, 7, 0, 7⟩, .vcvt ⟨⟨3, true⟩, 4, 5, 16, 0, 1, 0, 9, 1, 0, 0⟩, .vqnt ⟨⟨3, true⟩, 4, 5, 6, 7, 0,
    0, 9, 1, 1, 0⟩, .vqnt ⟨⟨3, true⟩, 4, 5, 6, 7, 0, 0, 9, 1, 1, 1⟩, .vred ⟨⟨3, true⟩, 4, 5, 3, 0, 1, 0, 4, 1, 0, 0⟩, .vred ⟨⟨3, true⟩,
    4, 5, 2, 0, 1, 0, 4, 1, 0, 1⟩, .vscan ⟨⟨3, true⟩, 4, 5, 2, 0, 1, 0, 9, 1, 0, 0⟩, .vbcast ⟨⟨3, true⟩, 4, 0, 0, 7, 1, 0, 9, 7, 1, 1⟩,
    .viota ⟨⟨3, true⟩, 4, 0, 0, 7, 1, 0, 9, 1, 1, 0⟩, .vshape ⟨⟨3, true⟩, 0, 0, 0, 7, 0, 0, 0, 7, 1, 1⟩, .vshape ⟨⟨3, true⟩, 0, 0, 0, 0,
    0, 0, 0, 7, 0, 0⟩] : List Instr), i.wellFormed .core = false := by decide

theorem test_wf_matrix_entries : ∀ i ∈ ([
    .mldb ⟨⟨3, true⟩, 3, 8, 4, 6, 9, 5, false, false, 0, 0⟩, .mldb ⟨⟨3, true⟩, 3, 8, 4, 6, 9, 5, false, false, 0, 9⟩, .mldb ⟨⟨3, true⟩,
    3, 8, 4, 6, 9, 5, false, false, 0, 18⟩, .mldb ⟨⟨3, true⟩, 3, 8, 4, 6, 9, 5, false, false, 0, 101⟩, .mldb ⟨⟨3, true⟩, 3, 8, 4, 6, 9,
    5, false, false, 0, 101⟩, .gmma ⟨⟨3, true⟩, 3, 8, 4, 6, 9, 5, false, false, 0, 34⟩, .mma ⟨⟨3, true⟩, 3, 8, 4, 6, 9, 5, false, false,
    0, 6⟩, .mma ⟨⟨3, true⟩, 3, 8, 4, 6, 9, 5, false, false, 0, 28⟩, .mma ⟨⟨3, true⟩, 3, 8, 4, 6, 9, 5, false, false, 0, 52⟩, .mma ⟨⟨3,
    true⟩, 3, 8, 4, 6, 9, 5, false, false, 0, 0⟩, .mdrain ⟨⟨3, true⟩, 3, 8, 4, 0, 0, 4, false, false, 0, 24⟩, .mstream ⟨⟨3, true⟩, 3, 8,
    4, 6, 9, 5, false, false, 0, 0⟩, .mstream ⟨⟨3, true⟩, 3, 8, 4, 6, 9, 5, false, false, 0, 58⟩, .mstream ⟨⟨3, true⟩, 3, 8, 4, 6, 9, 5,
    false, false, 0, 49⟩, .mstream ⟨⟨3, true⟩, 3, 8, 4, 6, 9, 5, false, false, 0, 97⟩] : List Instr), i.wellFormed .core = false := by decide

theorem test_wf_rotation_entries : ∀ i ∈ ([
    .qtri ⟨⟨3, true⟩, 2, 8, 4, 6, 9, 5, false, false, 0, 7⟩, .qldt ⟨⟨3, true⟩, 2, 8, 4, 6, 0, 4, false, false, 0, 12⟩, .qstt ⟨⟨3, true⟩,
    2, 8, 4, 6, 0, 4, false, false, 0, 15⟩] : List Instr), i.wellFormed .core = false := by decide

theorem test_wf_copy_entries : ∀ i ∈ ([
    .cpq ⟨⟨3, true⟩, 0, 0, 4, 0, 0, 0, false, false, 0, 24⟩, .cpf ⟨⟨3, true⟩, 2, 4, 4, 6, 9, 5, true, true, 9, 127⟩, .cpd ⟨⟨3, true⟩, 2,
    4, 4, 6, 9, 5, true, false, 9, 95⟩] : List Instr), i.wellFormed .core = false := by decide

theorem test_wf_exchange_entries : ∀ i ∈ ([
    .xamo ⟨⟨3, true⟩, 0, 8, 4, 6, 9, 4, false, false, 0, 10⟩, .xput ⟨⟨3, true⟩, 0, 8, 4, 6, 9, 5, false, false, 0, 2⟩] : List Instr), i.wellFormed .core = false := by decide

theorem test_wf_forms : ∀ i ∈ ([
    .routeCancel ⟨⟨3, true⟩, 5, 0, 0, 0⟩, .xresv ⟨⟨3, true⟩, 5, 6, 7, 1⟩, .xresvCfg ⟨⟨3, true⟩, 5, 6, 7, 0⟩, .xresvEnd ⟨⟨3, true⟩, 5, 6,
    7, 3⟩] : List Instr), i.wellFormed .spine = false := by decide

theorem test_wf_engine_forms : ∀ i ∈ ([
    .xcntRead ⟨⟨3, true⟩, 0, 8, 4, 6, 0, 0, false, false, 0, 1⟩, .xcntSet ⟨⟨3, true⟩, 0, 8, 4, 6, 0, 0, false, false, 0, 0⟩, .xcntAdd
    ⟨⟨3, true⟩, 0, 8, 4, 6, 0, 0, false, false, 0, 3⟩, .xcntErr ⟨⟨3, true⟩, 0, 8, 4, 6, 0, 0, false, false, 0, 2⟩, .xtile ⟨⟨3, true⟩, 0,
    8, 4, 6, 0, 0, false, false, 0, 2⟩, .xtileFire ⟨⟨3, true⟩, 0, 8, 0, 6, 0, 0, false, false, 0, 0⟩, .xwait ⟨⟨3, true⟩, 0, 8, 4, 6, 0,
    0, false, false, 0, 1⟩, .xwaitDrain ⟨⟨3, true⟩, 0, 8, 0, 0, 0, 0, false, false, 0, 2⟩] : List Instr), i.wellFormed .core = false := by decide

theorem test_wf_events : ∀ i ∈ ([
    .halt, .mxStart 0 0, .moduleReset] : List Instr), i.wellFormed .spine = false := by decide

/-! ### States, and hypotheses that are met -/

/-- A guard that always executes. -/
def g0 : Guard := ⟨0, false⟩

/-- The Spine of row 0, core 0 of the row, and BC 0 of die 0, each with one task; nothing runs. -/
def spineS : State := { State.reset.withFetchWord 64 0 with pending := [], cur := .spine placedGtid }
def coreS : State := { State.reset.withFetchWord 64 (0x30 * 2 ^ 57) with pending := [], cur := .core placedGtid 0 }
def threadS : State := { State.reset.withFetchWord 64 (0x11 * 2 ^ 57) with pending := [], cur := .bc placedGtid }

/-- A page with every right, tags too: virtual page 1 at physical page 2. -/
def page1 : TlbEntry := { asid := 0, big := false, page := 1, w0 := 0x2001F, w1 := 0x4FFFFFFFFFF }

/-- The same page without the tagged attribute. -/
def page1n : TlbEntry := { page1 with w1 := 0xFFFFFFFFFF }

/-- The Spine and the thread with the page in their TLBs. -/
def spineP : State := { spineS with tlbs := [(0, [page1])] }
def threadP : State := { threadS with tlbs := [(32, [page1])] }

/-- A memory syllable that names byte `d` past the start of the page's last 64 KiB boundary, by its displacement alone. -/
def memAt (d : BitVec 20) (flags : BitVec 4 := 0) : FmtM := ⟨g0, 5, 0, 0, 0, false, flags, d⟩

/-- A state with the placed task changed, as it is and as it stood before the bundle. -/
def withTask (s : State) (f : Task → Task) : State :=
  { s.modTask placedGtid f with snap := s.snap.map fun x => (f x.1, x.2) }

/-- A state with the placed task's share on core 0 changed, as it is and as it stood before the bundle. -/
def withShare (s : State) (f : Share → Share) : State :=
  { s.modShare placedGtid 0 f with snap := s.snap.map fun x => (x.1, f x.2) }

/-- A page of tile memory of BC 0 of die 0. -/
def pageT : TlbEntry := { page1 with w0 := 0x1000000001F }

theorem test_hyp_IntegerInstructionResults : spineS.guardTrue g0 = true ∧ coreS.guardTrue g0 = true ∧ threadS.guardTrue g0 = true ∧
    (63 : BitVec 6).toNat < 64 ∧ keptByV threadS 5 = false ∧ keptByV { threadS with vDests := [5] } 5 = true := by decide

theorem test_hyp_CompareAndPredicateResults : (31 : BitVec 6).toNat < 32 ∧ (0 : BitVec 6).toNat < 32 ∧ spineS.guardTrue g0 = true ∧
    coreS.guardTrue g0 = true ∧ threadS.guardTrue g0 = true := by decide

theorem test_hyp_FalseGuardHasNoEffect : (Instr.add ⟨⟨0, true⟩, 1, 2, 3, 0⟩).guard? = some ⟨0, true⟩ ∧
    spineS.guardTrue ⟨0, true⟩ = false ∧ spineS.guardTrue ⟨31, false⟩ = false := by decide

theorem test_hyp_FloatResults : spineS.guardTrue g0 = true ∧ coreS.guardTrue g0 = true ∧ (31 : BitVec 6).toNat < 32 := by decide

theorem test_hyp_StateReadsAndRingWords : coreS.guardTrue g0 = true ∧
    ∀ m ∈ [(0 : BitVec 8), 0x17], (m.extractLsb' 3 2).toNat < 3 := by decide

/-- A Spine with a schedule table of two words, a register with a loop count, and p1 set. -/
def loopS : State := spineS.modTask placedGtid fun t => { t with sched := [7, 8], r := [(2, 3)], p := 2 }

theorem test_hyp_ControlInstructionResults : loopS.guardTrue g0 = true ∧ threadS.guardTrue g0 = true ∧ loopS.onBc = false ∧
    threadS.onBc = true ∧ loopS.onCore = false ∧ keptByV loopS 5 = false ∧
    loopS.rdPred 1 ≠ (1 : BitVec 9).getLsbD 1 ∧ loopS.rdPred 0 = (1 : BitVec 9).getLsbD 0 ∧
    (0 : BitVec 32).toInt ≤ 0 ∧ 0 < (1 : BitVec 32).toInt ∧ loopS.rdInt 1 = 0 ∧ loopS.rdInt 2 ≠ 0 ∧
    (62 : BitVec 6).toNat + (2 : BitVec 9).toNat ≤ 64 ∧ loopS.rdTask.schcur + 2 ≤ loopS.rdTask.sched.length ∧
    loopS.rdTask.sched.length < loopS.rdTask.schcur + 3 := by decide

/-- A filler's Spine, and a thread whose V syllable wrote vshape. -/
def fillerS : State := spineS.modTask placedGtid fun t => { t with isFiller := true, place := .row 0 0 true }
def shapedS : State := { threadS with vDests := [vshapeDest] }
def csrF (c : BitVec 16) : FmtA := ⟨g0, 0, 6, 0, c⟩

theorem test_hyp_CsrAccessResults : fillerS.guardTrue g0 = true ∧ fillerS.rdTask.isFiller = true ∧ specCsr (csrF 4) = 4 ∧
    specCsr (csrF 0xFF) < 0x100 ∧ 0x100 ≤ specCsr (csrF 0x100) ∧ spineS.rdTask.isFiller = false ∧
    ((csrF 2).mod.toNat % 4096 = 2 ∧ shapedS.onBc = true ∧ shapedS.vDests.contains vshapeDest = true) ∧
    shapedS.guardTrue g0 = true ∧ spineS.vDests.contains vshapeDest = false := by decide

theorem test_hyp_TrapAndServiceCall : spineS.guardTrue g0 = true ∧ threadS.guardTrue g0 = true := by decide

theorem test_hyp_SpineLoadsAndStores :
    let s := spineP
    let f := memAt 0x1FFF8
    onSpine s placedGtid ∧ s.guardTrue f.g = true ∧ (∀ e ∈ loadForms, tlbHit s .load (specEa s f) (e.2.1 f) page1) ∧
    (∀ e ∈ storeForms, tlbHit s .store (specEa s f) e.2 page1) ∧ localHbm page1 (specEa s f) ∧ noErrors s ∧
    l1Room s (spineRow s) (page1.pa (specEa s f)) := by
  unfold onSpine tlbHit localHbm noErrors l1Room; decide

theorem test_hyp_SpineAtomicsAndTags :
    let s := spineP
    let n := { spineP with tlbs := [(0, [page1n])] }
    let f := memAt 0x10008 7
    let x := memAt 0x10001
    onSpine s placedGtid ∧ s.guardTrue f.g = true ∧ tlbHit s .rmw (amoAddr s f) (amoBytes f) page1 ∧ localHbm page1 (amoAddr s f) ∧ noErrors s ∧
    nothingOutstanding s placedGtid ∧ (∀ e ∈ tagForms, tlbHit s (tagAccess e) (specEa s f) 8 page1 ∧ tlbHit n (tagAccess e) (specEa n f) 8 page1n) ∧
    pageTag page1.w1 = true ∧ pageTag page1n.w1 = false ∧ localHbm page1n (specEa n f) ∧ (amoAddr s x).toNat % amoBytes x ≠ 0 ∧
    (specEa s x).toNat % 8 ≠ 0 ∧ (specEa s x).toNat % amoBytes x ≠ 0 := by
  unfold onSpine tlbHit localHbm noErrors nothingOutstanding; decide

/-- The thread with a page of tile memory, and with the address of a header in x1. -/
def tileP : State := { threadS with tlbs := [(32, [pageT])] }
def headP (p : TlbEntry) (h : Word) : State :=
  withTask { threadS with tlbs := [(32, [p])] } fun x => { x with r := [(1, h)] }

theorem test_hyp_ThreadRequests : onThread threadP placedGtid ∧ threadP.guardTrue g0 = true ∧ nothingOutstanding threadP placedGtid ∧
    pageTag page1.w1 = true ∧ localHbm page1 0x1FFF8 ∧ ownTile tileP placedGtid pageT 0x1FFF8 := by
  unfold onThread localHbm ownTile nothingOutstanding; decide

theorem test_hyp_ThreadLoads :
    (∀ e ∈ loadForms, tlbHit threadP .load (specEa threadP (memAt 0x1FFF8 7)) (e.2.1 (memAt 0x1FFF8 7)) page1) ∧
    ∀ e ∈ loadForms, tlbHit tileP .load (specEa tileP (memAt 0x1FFF8 7)) (e.2.1 (memAt 0x1FFF8 7)) pageT := by
  unfold tlbHit; decide

theorem test_hyp_ThreadStores :
    (∀ e ∈ storeForms, tlbHit threadP .store (specEa threadP (memAt 0x1FFF8 7)) e.2 page1) ∧
    tlbHit threadP .store (specEa threadP (memAt 0x1FFF8 7)) (amoBytes (memAt 0x1FFF8 7)) page1 := by
  unfold tlbHit; decide

theorem test_hyp_ThreadAtomics :
    tlbHit threadP .rmw (amoAddr threadP (memAt 0x1FFF8 7)) (amoBytes (memAt 0x1FFF8 7)) page1 ∧
    ∀ e ∈ tagForms, tlbHit threadP (tagAccess e) (specEa threadP (memAt 0x1FFF8 7)) 8 page1 := by
  unfold tlbHit; decide

theorem test_hyp_BinRequests :
    onThread (headP pageT 0x10010) placedGtid ∧ (headP pageT 0x10010).guardTrue g0 = true ∧ (headP pageT 0x10010).rdInt 1 = 0x10010 ∧
    tlbHit (headP pageT 0x10010) .rmw 0x10010 8 pageT ∧ ownTile (headP pageT 0x10010) placedGtid pageT 0x10010 ∧
    (headP page1 0x10010).rdInt 1 = 0x10010 ∧ tlbHit (headP page1 0x10010) .rmw 0x10010 8 page1 ∧ localHbm page1 0x10010 ∧
    (0x10010 : Word).toNat % 16 = 0 ∧ ((headP pageT 0x10018).rdInt 1).toNat % 16 ≠ 0 := by
  unfold onThread tlbHit localHbm ownTile; decide

/-- A home with one request before it. -/
def homeS (op : HomeOp) (pa : Nat := 0x10000) (n : Nat := 8) : State :=
  { State.reset with queues := [(7, [{ org := .task placedGtid 0, pa := pa, bytes := n, op := op }])] }

/-- Two requests at the inputs of switch 3 of stage 0. -/
def pairS : State :=
  let r (k : Nat) (v : Word) : Req := { org := .task placedGtid k, pa := 0x10000, bytes := 8, op := .amo .fadd v 0 }
  { State.reset with nets := [(0, { fwd := [(6, [r 0 1]), (7, [r 1 10])] })] }

/-- Bin headers: room for one record more, full, and the last slot that lies in a tile memory. -/
def binS (op : HomeOp) (count max : Byte) : State :=
  { homeS op 0x10000000000 with mem := [(0x10000000000, count), (0x10000000002, max)] }

theorem test_hyp_HomesPerformRequests :
    (∀ op ∈ ([.read, .write 5, .amo .fadd 1 0, .tagged .ldfe 0] : List HomeOp),
      (homeS op).queue 7 = [{ org := .task placedGtid 0, pa := 0x10000, bytes := 8, op := op }]) ∧
    noErrors (homeS .read) ∧ (homeS .read).waits = [] ∧ 0x10000 % 8 = 0 := by
  unfold noErrors; decide

theorem test_hyp_BinStepsAtTheHome :
    (binS (.binapp 1 2) 1 2).queue 7 = [{ org := .task placedGtid 0, pa := 0x10000000000, bytes := 8, op := .binapp 1 2 }] ∧
    (binS (.binclr false 0) 2 2).queue 7 = [{ org := .task placedGtid 0, pa := 0x10000000000, bytes := 8, op := .binclr false 0 }] ∧
    noErrors (binS (.binapp 1 2) 1 2) ∧ (binS (.binapp 1 2) 1 2).waits = [] ∧ 0x10000000000 % 16 = 0 ∧
    bytesFrom (binS (.binapp 1 2) 1 2).memByte 0x10000000000 8 = 0x20001 ∧
    bytesFrom (binS (.binapp 1 2) 2 2).memByte 0x10000000000 8 = 0x20002 := by
  unfold noErrors; decide

theorem test_hyp_CombinedFadds :
    (Tbl.get [] (pairS.netOf 0).fwd 6).map (·.since) = [pairS.cycle] ∧ (Tbl.get [] (pairS.netOf 0).fwd 7).map (·.since) = [pairS.cycle] ∧
    (Tbl.get [] (pairS.netOf 0).fwd 6).map (·.pa) = (Tbl.get [] (pairS.netOf 0).fwd 7).map (·.pa) ∧ windowOf 0x10000 = .hbm ∧
    (Tbl.get [] (pairS.netOf 0).comb 3).length < 16 ∧ (Tbl.get [] (pairS.netOf 0).fwd 6).map (·.op) = [.amo .fadd 1 0] ∧
    (Tbl.get [] (pairS.netOf 0).fwd 7).map (·.op) = [.amo .fadd 10 0] := by decide

/-- A row's L1D that holds a pending byte of the placed task, an owned word and a copy. -/
def l1S : State :=
  { spineP with l1d := [(0x10000, { pend := [{ g := placedGtid, mask := 1, data := 9 }] }), (0x10008, { owned := true }), (0x10010, { copy := some 3 })] }

/-- The thread with a store that is not acknowledged. -/
def unackedS : State := withTask threadS fun t => { t with unacked := 1 }

theorem test_hyp_StoresRegisterAndFences :
    31 < 32 ∧ wordAddr 0x10000 = 0x10000 ∧ 0x10000 < 2 ^ 48 ∧ noErrors l1S ∧
    (l1S.l1 0 0x10000).pend = [{ g := placedGtid, mask := 1, data := 9 }] ∧ (l1S.l1 0 0x10008).pend = [] ∧
    onSpine l1S placedGtid ∧ onThread threadS placedGtid ∧ l1S.guardTrue g0 = true ∧ threadS.guardTrue g0 = true ∧
    nothingOutstanding l1S placedGtid ∧ nothingOutstanding threadS placedGtid ∧ onThread unackedS placedGtid ∧
    (unackedS.task placedGtid).unacked ≠ 0 ∧ (unackedS.task placedGtid).remoteFail = none := by
  unfold noErrors onSpine onThread nothingOutstanding; decide

theorem test_hyp_ReleaseStore :
    tlbHit l1S .store (specEa l1S (memAt 0x10008 4)) (amoBytes (memAt 0x10008 4)) page1 ∧ localHbm page1 (specEa l1S (memAt 0x10008 4)) ∧
    l1Room l1S (spineRow l1S) (page1.pa (specEa l1S (memAt 0x10008 4))) := by
  unfold tlbHit localHbm l1Room; decide

theorem test_hyp_PinAndUnpin : onSpine spineP placedGtid ∧ spineP.guardTrue g0 = true ∧ noErrors spineP ∧
    onThread threadP placedGtid ∧ threadP.guardTrue g0 = true ∧ noErrors threadP := by
  unfold onSpine onThread noErrors; decide

/-- A die whose slices hold one line, with a maintenance command over it. -/
def sliceS (n : Word) (l : Line) : State :=
  { State.reset with lines := [(0x200, l)], regs := [(dieReg 0 0 0, n), (dieReg 0 0 8, 0x10000), (dieReg 0 0 0x10, 128)] }

def heldLine : Line := { resident := true, held := true, old := [(3, 5, 0)] }

theorem test_hyp_SliceMaintenance :
    serves (sliceS 1 { resident := true }) 0x10000 1 ∧ serves (sliceS 2 { resident := true }) 0x10000 2 ∧ noErrors (sliceS 1 { resident := true }) ∧
    ((sliceS 1 { resident := true }).line 0x10000).resident = true ∧ ((sliceS 1 { resident := true }).line 0x10000).holders = [] ∧
    ((sliceS 1 { resident := true, holders := [3] }).line 0x10000).holders ≠ [] ∧ ((sliceS 3 heldLine).line 0x10000).held = true ∧
    serves (sliceS 3 heldLine) 0x10000 3 ∧ (∀ e ∈ ((sliceS 3 heldLine).line 0x10000).old, e.1 < 4) ∧
    ((sliceS 1 {}).reg (dieReg 0 0 0)).getLsbD 63 = false ∧ (sliceS 1 {}).slLeft 0 = [] ∧ 3 < 4 ∧ 15 < 16 ∧ 10 < 11 := by
  unfold noErrors serves; decide +kernel

/-- A Collator that asks for the page after its next record's destination; its tables lead to a big page, and to nothing. -/
def walkS (mem : List Host.Cell) : State :=
  { State.reset with
    mem := mem
    coll := [(0, { active := some { launch := 1, gtid := placedGtid, e := 1, k := 1, a := 1, mode := 0, wb := false, lb := 0, mask := 0, t0 := 0,
                                    n := 1, donew := 0, bit := 0, asid := 0, root := 0x100000, rbase := [], bias := [],
                                    out := [⟨0x10, 1, 2, true, 0⟩] } })] }

def tablesBig : List Host.Cell :=
  [(0x100000, 1), (0x100002, 0x11), (0x110000, 1), (0x110002, 0x12), (0x120000, 0x1F)]

def cmdS (n : Word) : State := { State.reset with regs := [(dieReg 0 0 0x8000, n)] }

theorem test_hyp_TlbInvalidations :
    runsCommand (cmdS 1) (dieReg 0 0 0x8000) 1 ∧ runsCommand (cmdS 2) (dieReg 0 0 0x8000) 2 ∧ runsCommand (cmdS 3) (dieReg 0 0 0x8000) 3 ∧
    ((cmdS 1).reg (dieReg 0 0 0x8000)).getLsbD 63 = false ∧
    (cmdS 1).netIdle = true ∧ (∀ e ∈ (cmdS 1).l1d, e.2.pend = []) ∧ (∀ e ∈ (cmdS 1).tasks, e.2.remoteOut = []) ∧
    (homeS .read).netIdle = false ∧ 3 < 4 := by
  unfold runsCommand; decide

theorem test_hyp_PageWalkFillsTlb :
    (walkS []).prefetchDue.contains ⟨100, 0, 0x100000, 0x10000⟩ = true ∧ (walkS []).prefetchDue.contains ⟨100, 0, 0x100000, 0⟩ = false := by
  decide +kernel

theorem test_hyp_PageWalkLeaf : ((walkS []).walk 0 0x100000 0x10000).1 = .bad 0x10 ∧
    ((walkS tablesBig).walk 0 0x100000 0x10000).1 = .leaf 0x1F 0 true := by decide +kernel

theorem test_hyp_MemoryErrors :
    let e : ErrSite := { die := 3, array := 0x1FF, sub := 0, loc := 0, syndrome := 1, gtid := placedGtid }
    e.die < 4 ∧ e.array < 0x200 ∧ 0x100 ≤ e.array ∧ e.gtid ≠ 0 ∧ (spineS.task e.gtid).bound = true ∧ spineS.faultPend = [] ∧
    State.reset.reg (dieReg 0 0 0x38) = 0 ∧ { State.reset with regs := [(dieReg 0 0 0x38, (1 : Word))] }.reg (dieReg 0 0 0x38) ≠ 0 := by
  decide

/-- The core and the thread under a shape of `r` rows of `c` elements of format `x`. -/
def shapeW64 (r c x : Nat) : Word := BitVec.ofNat 64 (r + 4096 * c + 2 ^ 24 * x)
def coreV (r c x : Nat) : State := withShare coreS fun h => { h with vshape := shapeW64 r c x }
def threadV (r c x : Nat) : State := withTask threadS fun t => { t with vshape := shapeW64 r c x }

/-- A vector syllable over the format of vshape, and over another. -/
def vecF (fmt : BitVec 4 := 0) (aux : BitVec 3 := 0) (vb : BitVec 6 := 3) (rmode : BitVec 3 := 7) : FmtV :=
  ⟨g0, 1, 2, vb, 4, 0, 0, fmt, rmode, 0, aux⟩

theorem test_hyp_VectorElementsAndChecks :
    (coreV 1 512 3).guardTrue g0 = true ∧ vReady (coreV 1 512 3) [3] ∧ vReady (threadV 8 16 3) [3] ∧ vReady (coreV 1 512 3) [] ∧
    (f14 (vecF) (vF (coreV 1 512 3) (vecF)) = true ∧ f14 (vecF 8) (vF (coreV 1 512 3) (vecF 8)) = false) ∧
    shapeValid (coreV 1 512 3).vshapeNow 1024 = true ∧ shapeValid (coreV 1 513 3).vshapeNow 1024 = false ∧
    shapeValid (threadV 8 17 3).vshapeNow 256 = false ∧ 8 * (coreV 1 512 3).regBytes < vN (coreV 1 512 3) * fmtBits 2 ∧
    vN (threadV 8 16 3) * 2 ≤ (threadV 8 16 3).regBytes ∧ ¬vN (coreV 1 1024 5) * 2 ≤ (coreV 1 1024 5).regBytes := by
  unfold vReady; decide

theorem test_hyp_VectorMasksAndMoves :
    (coreV 2 16 8).guardTrue g0 = true ∧ vReady (coreV 2 16 8) [8] ∧ (vecF 0 5).aux.toNat ≠ 3 ∧ (vecF 0 4).aux.toNat ≤ 4 ∧
    vSel (coreV 2 16 8) vecF 31 = true ∧ ((withShare (coreV 2 16 8) fun h => { h with a := [(2, 31)] }).rdInt 2).toNat = 31 ∧
    ((coreV 2 16 8).rdInt 2).toNat < vN (coreV 2 16 8) ∧ ¬vN (coreV 2 16 8) < 32 := by
  unfold vReady; decide

theorem test_hyp_VectorReductionAndSelection :
    (coreV 2 16 3).guardTrue g0 = true ∧ vReady (coreV 2 16 3) [3] ∧
    vReady (coreV 32 16 3) [3, 5] ∧ vF (coreV 32 16 3) (vecF 5 2 3) = 5 ∧ shapeCols (coreV 32 16 3).vshapeNow % 16 = 0 ∧
    shapeRows (coreV 32 16 3).vshapeNow ≤ 64 ∧ (vecF 0 2).aux.toNat ≤ 2 ∧ (vecF 0 7).aux.toNat + 1 ≤ 16 := by
  unfold vReady; decide

theorem test_hyp_VectorSortsAndScans :
    vReady (coreV 2 16 3) [3] ∧ (vecF 0 1).aux.getLsbD 1 = false ∧ vN (coreV 2 16 3) * 2 ≤ (coreV 2 16 3).regBytes ∧
    shapeRows (coreV 2 16 3).vshapeNow * ((vecF 0 7).aux.toNat + 1) * 2 ≤ (coreV 2 16 3).regBytes ∧
    keptByV (threadV 8 16 3) 4 = false ∧ (1 ≤ vF (coreV 2 16 3) vecF ∧ vF (coreV 2 16 3) vecF ≤ 4) := by
  unfold vReady; decide

/-- An engine syllable that pops the queues of `pop`, and pushes a token. -/
def engF (pop : BitVec 4 := 0) (mod : BitVec 8 := 0) (push : BitVec 3 := 1) : FmtE :=
  ⟨g0, push, pop, 1, 2, 3, 0, false, false, 0, mod⟩

/-- The core with its last scratchpad row reachable, and with a shape of 2 rows of 16 bytes. -/
def padS : State := coreV 2 16 8
def padM (d : BitVec 20) : FmtM := memAt d

theorem test_reach (s : State) (o n : Nat) (h : o + n ≤ 2 ^ 21) (hf : (curTask s).isFiller = false) (hg : (curTask s).gaveBank = false) :
    spReach (curTask s) (curShare s) o n := by
  simp only [spReach, hf, hg]; exact ⟨h, fun _ _ hx => absurd hx (by decide)⟩

theorem test_sound (s : State) (o n : Nat) (h : s.flips = []) : spSound s (curTask s) s.curCore o n := by
  simp [spSound, h, Tbl.get, Tbl.find?]

theorem test_hyp_ScratchpadAccesses : padS.guardTrue g0 = true ∧ (specEa padS (padM 0x1FFF8)).toNat = 0x1FFF8 ∧
    spGood padS 0x1FFF8 8 ∧ spGood padS (2 ^ 21 - 8) 8 ∧ ¬spReach (curTask padS) (curShare padS) (2 ^ 21 - 7) 8 :=
  ⟨by decide, by decide, ⟨test_reach _ _ _ (by decide) (by decide) (by decide), test_sound _ _ _ (by decide)⟩,
    ⟨test_reach _ _ _ (by decide) (by decide) (by decide), test_sound _ _ _ (by decide)⟩, fun h => absurd h.1 (by decide)⟩

theorem test_hyp_ScratchpadVectors : vecMemReady padS false ∧ vecMemReady padS true ∧
    (rowStart padS (padM 0x100) (rowBytes padS false 8) 1).toNat = 0x110 ∧ rowBytes padS false 8 = 16 ∧ rowBytes padS true 8 = 2 ∧
    shapeW padS = 8 := by
  unfold vecMemReady; decide

/-- The thread with the page, under a shape of 2 rows of 8 bytes. -/
def vecThread (p : TlbEntry) : State := { withTask threadS fun t => { t with vshape := shapeW64 2 8 8 } with tlbs := [(32, [p])] }

/-- The page of bf16 elements, for CONV. -/
def pageBf : TlbEntry := { page1 with w1 := 0x4FFFFFFFFFF ||| 0x30000000000000 }

theorem test_hyp_ThreadVectorRequests :
    onThread (vecThread page1) placedGtid ∧ (vecThread page1).guardTrue g0 = true ∧ vecMemReady (vecThread page1) false ∧
    vecMemReady (vecThread page1) true := by
  unfold onThread vecMemReady; decide

theorem test_hyp_ThreadVectorRows : rowsHit (vecThread page1) .load (memAt 0x1FFF0) page1 2 8 ∧
    rowsHit (vecThread pageT) .store (memAt 0x1FFF0) pageT 2 8 := by
  unfold rowsHit localHbm ownTile; decide

/-- The core with a qcfg that permits the angle instructions, and one that does not. -/
def qS (q : Word) : State := withShare coreS fun h => { h with qcfg := q, tokens := [(3, 1), (1, 1)] }

theorem test_hyp_EngineAndCopyIssue :
    (qS 0x00444020).guardTrue g0 = true ∧ qcfgValid (qS 0x00444020).rdShare.qcfg = true ∧ qGm (qS 0x00444020).rdShare.qcfg = false ∧
    qcfgValid (qS 0).rdShare.qcfg = false ∧ stageFree (curShare coreS) := by
  unfold stageFree; decide

theorem test_hyp_CopiesIssued : popsReady (curShare (qS 0)) 3 (engF 1) ∧ ¬popsReady (curShare (qS 0)) 3 (engF 2) ∧
    ¬popsReady (curShare coreS) 3 (engF 1) := by
  unfold popsReady tokensAt; decide

/-- The core with a word in the register of an engine syllable's third operand. -/
def qArg (w : Word) : State := withShare coreS fun h => { h with a := [(3, w)] }

theorem test_hyp_CopyAccepted : ¬copyRefused coreS .cp (engF 0 0x60) := by dsimp only [copyRefused]; decide

theorem test_hyp_CopyRefused : copyRefused (qArg 0x20000000000000) .cp engF := Or.inl (by decide)

/-- A share whose V owes MX a token, with `n` of 16 in the queue. -/
def dueH (n : Nat) : Share := { tokens := [(1, n)], dues := [(0, [{ seq := 0, dest := 1, retired := true }])] }

theorem test_hyp_WaitsAndTokens : popsReady (curShare (withShare coreS fun h => { h with tokens := [(5, 1)] })) 0 (engF 2) ∧
    (engF).pop = 0 ∧ (engF 1).pop ≠ 0 ∧ (coreS.share placedGtid 0).cpq = [] ∧
    (((dueH 15).nextDues 0).find? fun d => decide (tokensAt (dueH 15) 0 d.dest < 16)) = some { seq := 0, dest := 1, retired := true } ∧
    (((dueH 16).nextDues 0).find? fun d => decide (tokensAt (dueH 16) 0 d.dest < 16)) = none := by
  unfold popsReady tokensAt; decide

/-- A command of an engine, and the core with a share changed. -/
def cmdOf (op : EngOp) (pop : BitVec 4 := 0) (mod : BitVec 8 := 0) (a : Word := 0) (b : Word := 0) : Cmd :=
  { op := op, f := engF pop mod, addr := 0, a := a, b := b }

theorem test_portsFree (s : State) (h : s.spBusy = []) : portsFree s := by
  intro p; simp [h, Tbl.get, Tbl.find?]

theorem test_reachAt (s : State) (g : Gtid) (c o n : Nat) (h : o + n ≤ 2 ^ 21) (hf : (s.task g).isFiller = false) (hg : (s.task g).gaveBank = false)
    (hx : s.flips = []) : spGoodAt s g c o n :=
  ⟨by simp only [spReach, hf, hg]; exact ⟨h, fun _ _ hx => absurd hx (by decide)⟩, by simp [spSound, hx, Tbl.get, Tbl.find?]⟩

def mxS (k : Cmd) : State := withShare coreS fun h => { h with mxq := [k], tokens := [(1, 1)] }

theorem test_hyp_EnginesStartInstructions :
    engineReady (mxS (cmdOf .mma 1)) placedGtid 0 1 ∧ (mxS (cmdOf .mma 1)).pipeTaken placedGtid 0 pipeMxStart = false ∧
    popsReady ((mxS (cmdOf .mma 1)).share placedGtid 0) 1 (cmdOf .mma 1).f ∧
    ((mxS (cmdOf .mma 1)).share placedGtid 0).mxReady .mma (mxS (cmdOf .mma 1)).cycle = true ∧
    ((mxS (cmdOf .mldb 1)).share placedGtid 0).mxReady .mldb (mxS (cmdOf .mma 1)).cycle = true :=
  ⟨⟨⟨0, 0, false, by decide⟩, by decide⟩, by decide, by unfold popsReady tokensAt; decide, by decide, by decide⟩

theorem test_hyp_WhiskInstructionStarts : engineReady coreS placedGtid 7 2 ∧ coreS.qrElsewhere placedGtid 7 = false ∧
    (coreS.share placedGtid 7).qrRun = none :=
  ⟨⟨⟨0, 0, false, by decide⟩, by decide⟩, by decide, by decide⟩

/-- The core at work: an instruction in the compute pipe; its row in the array; a plane on its way to the next core. -/
def compS (k : Cmd) : State := withShare coreS fun h => { h with mxComp := some { cmd := k } }
def flyRow (k : Cmd) : FlyRow := { cmd := k, due := 0, row := 31, prec := 2, ys := List.replicate 32 7 }
def flyS (k : Cmd) : State := withShare coreS fun h => { h with mxFly := [flyRow k] }

theorem test_hyp_MatrixEngineWorks :
    engineRuns (compS (cmdOf .mswap)) placedGtid 0 ∧ portsFree (compS (cmdOf .mswap)) ∧
    onlyComputes ((compS (cmdOf .mswap)).share placedGtid 0) { cmd := cmdOf .mswap } ∧
    (compS (cmdOf .mma 0 8 0 0x100000000)).pipeTaken placedGtid 0 pipeComp = false ∧
    0 < Word.field (cmdOf .mma 0 8 0 0x100000000).b 32 16 ∧ ((cmdOf .mma 0 8).f.mod.extractLsb' 1 2).toNat = 0 ∧
    spGoodAt (compS (cmdOf .mma 0 8 0 0x100000000)) placedGtid 0 0 2048 ∧
    ((flyS (cmdOf .mma 0 8)).share placedGtid 0).mxFly = [flyRow (cmdOf .mma 0 8)] ∧ (flyRow (cmdOf .mma 0 8)).ys.length = 32 ∧
    ((cmdOf .mma 0 8).f.mod.extractLsb' 3 2).toNat = 1 :=
  ⟨⟨⟨0, 0, false, by decide⟩, by decide⟩, test_portsFree _ rfl, by unfold onlyComputes; decide, by decide, by decide, by decide,
    test_reachAt _ _ _ _ _ (by decide) (by decide) (by decide) rfl, by decide, by decide, by decide⟩

/-- MRING's receiver: its own beats are sent, a beat of the western core waits. -/
def ringB : RingBeat := { due := 0, data := 5, idx := 1, fmt := 2, sp := false, geo := 0, band := 0 }
def ringR (b : Nat) : Running := { cmd := cmdOf .mring, beat := b }
def ringS (b : Nat) (l : List RingBeat) : State := withShare coreS fun h => { h with mxLoad := some (ringR b), ring := l }

theorem test_hyp_PlaneRingBeats :
    engineRuns (ringS 0 []) placedGtid 0 ∧ (ringS 0 []).pipeTaken placedGtid 0 pipeLoad = false ∧
    ((ringS 0 []).share placedGtid 0).mxLoad = some (ringR 0) ∧
    (ringR 0).beat < tileBeats (ringR 0).own.fmt (ringR 0).own.sp (ringR 0).own.geo ∧
    (ringR (tileBeats 2 false 0)).beat = tileBeats (ringR (tileBeats 2 false 0)).own.fmt (ringR (tileBeats 2 false 0)).own.sp (ringR (tileBeats 2 false 0)).own.geo ∧
    ((ringS (tileBeats 2 false 0) [ringB]).share placedGtid 0).ring = [ringB] ∧ ringB.due ≤ (ringS (tileBeats 2 false 0) [ringB]).cycle ∧ 0 < ringB.idx :=
  ⟨⟨⟨0, 0, false, by decide⟩, by decide⟩, by decide, by decide, by decide, by decide, by decide, by decide, by decide⟩

/-- QR at work. -/
def qrR (k : Cmd) (row : Nat) : Running := { cmd := k, phase := 1, row := row }
def qrS (k : Cmd) (row : Nat) : State := withShare coreS fun h => { h with qrRun := some (qrR k row) }

theorem test_hyp_WhiskEngineWorks :
    engineRuns (qrS (cmdOf .qrot) 0) placedGtid 0 ∧ ((qrS (cmdOf .qrot) 0).share placedGtid 0).qrRun = some (qrR (cmdOf .qrot) 0) ∧
    (qrS (cmdOf .qrot) 0).qrElsewhere placedGtid 0 = false ∧ portsFree (qrS (cmdOf .qrot) 0) ∧
    Word.field (cmdOf .qrot 0 0 0 0x10).b 0 4 ≠ Word.field (cmdOf .qrot 0 0 0 0x10).b 4 4 ∧
    (cmdOf .qrot 0 0 0x8000000000000000).a.getLsbD 63 = true ∧ ((cmdOf .qldt).f.mod.extractLsb' 2 2).toNat = 0 ∧
    spGoodAt (qrS (cmdOf .qldt) 8) placedGtid 0 4096 (8 * 33) :=
  ⟨⟨⟨0, 0, false, by decide⟩, by decide⟩, by decide, by decide, test_portsFree _ rfl, by decide, by decide, by decide,
    test_reachAt _ _ _ _ _ (by decide) (by decide) (by decide) rfl⟩

/-- A copy of 8 bytes between scratchpads: staged, due, and done. -/
def copyK : Cmd := { op := .cp, f := engF 0 0x60, addr := 0, a := 0x1000, b := 0, shape := [0x1000100000008, 0, 0, 0, 0, 0xFFFFFFFFFFFFFFFF] }
def cpS (x : Copy) : State := withShare coreS fun h => { h with copies := [x] }

theorem test_hyp_CopyEngineWorks :
    engineReady (cpS { cmd := copyK }) placedGtid 0 3 ∧ ((cpS { cmd := copyK }).share placedGtid 0).copies = [{ cmd := copyK }] ∧
    ((cpS { cmd := copyK, due := true }).share placedGtid 0).nextBeat = some { cmd := copyK, due := true } ∧
    copyK.dsp = true ∧ copyK.ssp = true ∧ (cpS { cmd := copyK, due := true }).beatFree placedGtid 0 = true ∧ copyK.n0 = 8 ∧
    copyK.nominal = 8 ∧ 0 < copyK.clip2 ∧ 0 < copyK.clip1 ∧ copyK.n0 ≤ copyK.clip0 :=
  ⟨⟨⟨0, 0, false, by decide⟩, by decide⟩, by decide, by decide, by decide, by decide, by decide, by decide, by decide, by decide,
    by decide, by decide⟩

theorem test_hyp_CopyCompletes :
    (((cpS { cmd := copyK, due := true, pos := 8 }).share placedGtid 0).copies.find? fun y =>
      decide (if y.cmd.nominal = 0 then y.cmd.time.toNat ≤ 0 else y.due = true ∧ y.cmd.nominal ≤ y.pos)) =
      some { cmd := copyK, due := true, pos := 8 } ∧ (cpS { cmd := copyK }).dcc = 0 ∧ (cpS { cmd := copyK }).spBusy = [] := by decide

/-- A core with a command for the exchange engine. -/
def xeS (k : Cmd) : State := withShare coreS fun h => { h with xeq := [k] }

theorem test_hyp_ExchangeSyllableStarts :
    (xeS (cmdOf .xcntSet)).pipeTaken placedGtid 0 pipeXe = false ∧ (xeS (cmdOf .xcntSet)).withheld 2 ((xeS (cmdOf .xcntSet)).task placedGtid) = false ∧
    ((xeS (cmdOf .xcntSet)).share placedGtid 0).xeq = [cmdOf .xcntSet] ∧ (xeS (cmdOf .xcntSet)).fab.answers = [] ∧
    popsReady ((xeS (cmdOf .xcntSet)).share placedGtid 0) 4 (cmdOf .xcntSet).f ∧ noTriggers (xeS (cmdOf .xcntSet)) 0 :=
  ⟨by decide, by decide, by decide, by decide, by unfold popsReady tokensAt; decide, fun e => by
    have : ∀ d, Tbl.get {} (xeS (cmdOf .xcntSet)).xch d = ({} : Xch) := fun _ => rfl
    rw [this]; exact (by decide : TrigState.free ≠ TrigState.armed)⟩

/-- An exchange engine with a put that is finished. -/
def doneOp : XOp := { id := 7, g := placedGtid, core := 0, kind := .put, send := { lce := true, lcn := 0x3FFF }, next := 1, peers := [] }
def opsS : State := { State.reset with xch := [(3, { ops := [doneOp] })] }

theorem test_hyp_ExchangeCompletionsAndCredits : (Tbl.get {} opsS.xch 3).ops.find? XOp.finished = some doneOp ∧ doneOp.id % 4 = 3 ∧
    (Tbl.get {} opsS.xch 0).ops.find? XOp.finished = none := by decide

/-- A word as it stands at a bundle's place, and a page that may be executed, which the placed task's fetches hit. -/
def codeAt (s : State) (k : Nat) (pc : Word) : State :=
  withTask { s with tlbs := [(k, [page1])] } fun t => { t with pc := pc }

theorem test_hyp_FetchAndIssue :
    mayFetch (codeAt spineS 0 0x1FFE0) placedGtid ∧ codeHit (codeAt spineS 0 0x1FFE0) placedGtid page1 ∧
    codeHit (codeAt threadS 32 0x1FFF0) placedGtid page1 ∧ noErrors (codeAt spineS 0 0x1FFE0) ∧ ¬mayFetch State.reset placedGtid :=
  ⟨⟨Or.inl (by decide), by decide, by decide, by decide, by decide, by rw [if_pos (by decide)]; decide⟩, by unfold codeHit localHbm; decide,
    by unfold codeHit localHbm; decide, by unfold noErrors; decide, fun h => absurd h.1 (by decide)⟩

theorem test_hyp_ThreadFetches : mayFetch (codeAt threadS 32 0x1FFF0) placedGtid ∧
    (((withTask (codeAt threadS 32 0x1FFF0) fun t => { t with causes := [.fetch], st := .parked }).task placedGtid).causes.contains .fetch = true) ∧
    mayFetch (withTask (codeAt threadS 32 0x1FFF0) fun t => { t with causes := [.fetch], st := .parked }) placedGtid :=
  ⟨⟨Or.inl (by decide), by decide, by decide, by decide, by decide, by rw [if_neg (by decide)]; exact ⟨0, 0, 0, by decide⟩⟩, by decide,
    ⟨Or.inr (by decide), by decide, by decide, by decide, by decide, by rw [if_neg (by decide)]; exact ⟨0, 0, 0, by decide⟩⟩⟩

/-- A task that has fetched a bundle of zeros, or has a syllable to execute again. -/
def fetchedT (s : State) : State := withTask s fun t => { t with fetched := some ⟨0, 0, 0, 0, 0⟩ }
def redoR : Redo := { addr := 0, instr := .nop }
def redoT (s : State) : State := withTask s fun t => { t with redo := [redoR] }

theorem test_hyp_UnitsBeginTheirBundles :
    spineMay (fetchedT spineS) placedGtid ∧ spineMay (redoT spineS) placedGtid ∧ ((fetchedT spineS).task placedGtid).issueAt ≤
      ((fetchedT spineS).task placedGtid).rowCycle ∧ ((fetchedT spineS).task placedGtid).wave.length < 17 ∧
    (fetchedT spineS).broken placedGtid = false ∧ (fetchedT spineS).pending = [] ∧ ((redoT spineS).task placedGtid).redo = [redoR] := by
  unfold spineMay; decide

/-- A bundle that core 0 is to execute, at its age, and once more after a fault. -/
def waveE : WaveEntry := { idx := 0, addr := 0, m := 0, v := 0, e := 0, issued := 1, carried := [], csr := [], done := 0 }
def waveS (catch' : BitVec 8) : State := withTask coreS fun t => { t with wave := [waveE], rowCycle := 3, catchUp := catch' }

theorem test_hyp_CoresExecute :
    waveE ∈ ((waveS 0).task placedGtid).wave ∧ waveE.idx = ((waveS 0).share placedGtid 0).nextIdx ∧ waveE.done.getLsbD 0 = false ∧
    ((waveS 0).task placedGtid).rowCycle = waveE.issued + 2 + 2 * 0 ∧ ((waveS 1).task placedGtid).catchUp.getLsbD 0 = true ∧
    ((waveS 1).task placedGtid).frozenNow = false ∧ (waveS 1).holdsRow ((waveS 1).task placedGtid) = true := by decide

theorem test_hyp_ThreadsIssue :
    threadMay (fetchedT threadS) placedGtid ∧ (fetchedT threadS).bcRoom placedGtid (parse 0 0) = true ∧
    (fetchedT threadS).broken placedGtid = false ∧ divCycles 0 = 0 ∧ threadMay (redoT threadS) placedGtid ∧
    (redoT threadS).bcRoom placedGtid redoR.instr.enc = true :=
  ⟨⟨by decide, by decide, ⟨0, 0, 0, by decide⟩, by decide⟩, by decide, by decide, by decide,
    ⟨by decide, by decide, ⟨0, 0, 0, by decide⟩, by decide⟩, by decide⟩

/-- A thread with an access outstanding, and its reply. -/
def waitM (d : MemDest) (n : Nat) : MemOp := { dest := d, va := 0, parts := [(n, none)], redo := redoR, acquire := false }
def replyR (parks : Bool) : Reply := { gtid := placedGtid, part := 0, parks := parks, res := .val 5 }
def replyS (d : MemDest) (n : Nat) (parks : Bool) : State :=
  withTask { threadS with replies := [replyR parks] } fun t => { t with memOp := some (waitM d n), causes := [.reply], st := .parked, unacked := 1 }

theorem test_hyp_WaitsEndWithTheirReplies :
    ((replyS (.int 3 8 true) 8 true).task placedGtid).bound = true ∧ firstReply (replyS (.int 3 8 true) 8 true) placedGtid (replyR true) [] ∧
    ((replyS (.int 3 8 true) 8 true).task placedGtid).memOp = some (waitM (.int 3 8 true) 8) ∧
    ((replyS (.got 0 8) 8 true).task placedGtid).memOp = some (waitM (.got 0 8) 8) ∧ (replyR false).parks = false :=
  ⟨by decide, ⟨by decide, [], [], by decide, by decide, fun _ h => nomatch h⟩, by decide, by decide, by decide⟩

/-- A thread that waits for earlier stores, for a translation, for a service. -/
def retryS : State := withTask threadS fun t => { t with retry := some redoR, causes := [.release] }
def wakeS : State := withTask threadS fun t => { t with causes := [.translation], st := .parked }
def svcS : State := { threadS with syscs := [{ gtid := placedGtid, d := some 3, svc := 3, arg := 7 }] }

theorem test_hyp_HeldThreadsGoOn : (retryS.task placedGtid).bound = true ∧ (retryS.task placedGtid).retry = some redoR ∧
    nothingOutstanding retryS placedGtid ∧ retryS.replies = [] ∧ (wakeS.task placedGtid).causes.contains .translation = true ∧
    (wakeS.task placedGtid).bound = true ∧ (wakeS.task placedGtid).isRow = false ∧
    svcS.syscs.find? (fun q => q.gtid = placedGtid) = some { gtid := placedGtid, d := some 3, svc := 3, arg := 7 } := by
  unfold nothingOutstanding; decide

/-- A thread about to migrate to BC 15, and one in its inbox. -/
def leaveS : State := { withTask threadS fun t => { t with migTo := some 15, causes := [.migration], st := .parked } with cycle := 4 }
def inboxS : State :=
  { withTask threadS fun t => { t with place := .inbox 0 15, causes := [.migration], st := .parked, slotRec := List.replicate 8 0 } with
    sched := { threadS.sched with inbox := [(bcKey 0 15, [placedGtid])] } }

theorem test_hyp_ThreadsMigrate : (leaveS.task placedGtid).place = .bc 0 0 0 ∧ (leaveS.task placedGtid).migTo = some 15 ∧
    (leaveS.task placedGtid).causes.contains .migration = true ∧ (leaveS.task placedGtid).migAt + 4 ≤ leaveS.cycle ∧
    (leaveS.task placedGtid).unacked = 0 ∧ (leaveS.inboxOf 0 15).length < 16 ∧ leaveS.earlierMigration placedGtid = false ∧
    (inboxS.task placedGtid).place = .inbox 0 15 ∧ inboxS.inboxOf 0 15 = [placedGtid] ∧ (inboxS.task placedGtid).migAt ≤ inboxS.cycle ∧
    0 < Tbl.get 16 inboxS.sched.modes 0 ∧ inboxS.slotTask 0 15 0 = none ∧ (inboxS.task placedGtid).slotRec.length = 8 := by decide

/-- A thread whose launch has an index left, none left, or whose die holds 256 spawned tasks. -/
def spawnS (next : Nat) (q : List Gtid) : State :=
  { threadS with sched := { threadS.sched with
      launches := [(1, (threadS.launchOf placedGtid).map fun l => { l with nextIndex := next })], spawns := [(0, q)] } }

theorem test_hyp_SpawnQueuesATask : onThread (spawnS 1 []) placedGtid ∧ (spawnS 1 []).guardTrue g0 = true ∧
    nothingOutstanding (spawnS 1 []) placedGtid ∧
    (∀ n ∈ [1, 0xFFFFFE, 0xFFFFFF], ((spawnS n []).launchOf placedGtid).map (·.nextIndex) = some n ∧
      ((spawnS n []).launchOf placedGtid).map (·.serial) = some ((spawnS n []).task placedGtid).launch) ∧
    256 ≤ (Tbl.get [] (spawnS 1 (List.replicate 256 0)).sched.spawns 0).length ∧
    (BitVec.ofNat 64 (1 * 2 ^ 24 + 1) : Gtid) ≠ placedGtid :=
  ⟨by unfold onThread; decide, by decide, by unfold nothingOutstanding; decide, by decide, by decide, by decide⟩

/-- A spawned task that waits, of a gang that runs. -/
def bindS : State :=
  { (spawnS 2 [0x1000001]) with tasks := (0x1000001, { (threadS.task placedGtid) with place := .none, st := .queued }) :: threadS.tasks }

theorem test_hyp_SpawnBind : Tbl.get [] bindS.sched.spawns 0 = [] ++ 0x1000001 :: [] ∧ (bindS.spawnSlot 0 0x1000001).isSome = true ∧
    (bindS.gang? (bindS.task 0x1000001).launch (bindS.task 0x1000001).gang).isSome = true := by decide

/-- Records of faults: one to be posted, one that firmware holds. -/
def faultR (code : Nat) (restart : Bool) : FaultRec :=
  { die := 0, gtid := placedGtid, dcc := 0, code := code, unit := 1, core := 0, va := 0x10000, restart := restart, row := some 0 }

theorem test_hyp_FaultsAreTaken : (spineS.task placedGtid).isRow = true ∧ (threadS.task placedGtid).isRow = false ∧
    joinsHere { spineS with faultPend := [faultR 0x11 true] } placedGtid 0 (faultR 0x11 true) ∧
    (∀ f ∈ spineS.faultPend, ¬joinsHere spineS placedGtid 0 f) :=
  ⟨by decide, by decide, by unfold joinsHere; decide, fun _ h => nomatch h⟩

/-- A word whose major is outside the range of its position, next to run on the Spine and on core 0. -/
def badItem (u : Agent) : Item := { unit := u, addr := 0, isV := false, isE := false, word := 0x7F * 2 ^ 57, lit := 0 }
def badSpine : State := { spineS with pending := [badItem (.spine placedGtid)] }
def badCore : State := { coreS with pending := [badItem (.core placedGtid 0)] }

theorem test_hyp_BadEncodingsFault : badSpine.pending = [badItem (.spine placedGtid)] ∧ badSpine.raised = [] ∧
    (badSpine.task placedGtid).stepping = false ∧ badCore.pending = [badItem (.core placedGtid 0)] ∧ badCore.raised = [] ∧
    badCore.snap = some (badCore.task placedGtid, badCore.share placedGtid 0) ∧ badCore.faultPend = [] ∧
    (decode .x .spine (0x7F * 2 ^ 57) 0 = .error .illslot) ∧ (decode .m .core (0x7F * 2 ^ 57) 0 = .error .illslot) := by decide

/-- A fault queue and an event ring with an entry free, and full. -/
def queueS (head : Word) : State :=
  { State.reset with
    regs := [(dieReg 0 0 0x8040, 0x10000), (dieReg 0 0 0x8048, 4), (dieReg 0 0 0x8050, head),
             (dieReg 0 2 0x18, 0x20000), (dieReg 0 2 0x20, 4), (dieReg 0 2 0x28, head)],
    faultPend := [faultR 0x11 true], sched := { State.reset.sched with events := [(0, [faultR 0x11 true])] } }

theorem test_hyp_FaultRecordsArePosted :
    (queueS 3).faultPend.find? (fun f => f.die = 0) = some (faultR 0x11 true) ∧
    (∀ x ∈ (queueS 3).faultPend, (faultR 0x11 true).together x = true → (faultR 0x11 true).order ≤ x.order) ∧
    ringRoom (queueS 3) 0 0 0x8048 0x8050 0x8058 ∧ ¬ringRoom (queueS 4) 0 0 0x8048 0x8050 0x8058 ∧
    ¬ringRoom State.reset 0 0 0x8048 0x8050 0x8058 ∧ Tbl.get [] (queueS 3).sched.events 0 = [faultR 0x11 true] ∧
    ringRoom (queueS 3) 0 2 0x20 0x28 0x30 ∧ ¬ringRoom (queueS 4) 0 2 0x20 0x28 0x30 := by
  unfold ringRoom dieRg; decide

/-- A die whose firmware has a record to serve; the leaf of its page may be filled on demand, and a frame is supplied. -/
def serveS (code : Nat) (mem : List Host.Cell) (supplied : Word) : State :=
  { spineS with
    tasks := (spineS.modTask placedGtid fun t => { t with root := 0x100000 }).tasks, mem := mem, faultOut := [faultR code true],
    regs := [(dieReg 0 0 0x8048, 4), (dieReg 0 0 0x8060, 0x200000), (dieReg 0 0 0x8068, 4), (dieReg 0 0 0x8078, supplied)] }

def tablesDemand : List Host.Cell :=
  [(0x100000, 1), (0x100002, 0x11), (0x110000, 1), (0x110002, 0x12), (0x120000, 1), (0x120002, 0x13), (0x130010, 0x22), (0x200002, 0x30)]

theorem test_hyp_FirmwareServesRecords :
    (serveS 0x11 [] 0).faultOut.find? (fun f => f.die = 0) = some (faultR 0x11 true) ∧ dieRg 0 0 0x8048 (serveS 0x11 [] 0) ≠ 0 ∧
    noErrors (serveS 0x10 [] 0) ∧ dieRg 0 0 0x8070 (serveS 0x10 [] 0) = dieRg 0 0 0x8078 (serveS 0x10 [] 0) ∧
    dieRg 0 0 0x8070 (serveS 0x10 tablesDemand 1) ≠ dieRg 0 0 0x8078 (serveS 0x10 tablesDemand 1) ∧
    (serveS 0x10 tablesDemand 1).demandLeaf 0x100000 0x10000 = some 0x130010 := by
  unfold noErrors dieRg; decide +kernel

theorem test_hyp_FirmwareWalks :
    (∀ m ∈ [[], tablesDemand], ((serveS 0x10 m 1).walk 0 0x100000 0x10000).1 = .bad 0x10) ∧
    ((serveS 0x10 tablesDemand 1).memWord 0x200000).toNat / 2 ^ 16 * 2 ^ 16 = 0x300000 ∧
    Tbl.find? (serveS 0x10 tablesDemand 1).sec.badPages 0x30 = none ∧ 0x130010 / 2 ^ 16 ≠ 0x300000 / 2 ^ 16 := by decide +kernel

/-- A task whose watchdog has reached its limit, and one that stands just before it. -/
def dogS (n : Word) : State := withTask spineS fun t => { t with wdLimit := 5, wdCount := n }

theorem test_hyp_WatchdogExpires : ((dogS 5).task placedGtid).bound = true ∧
    ((dogS 5).task placedGtid).wdLimit.toNat ≤ ((dogS 5).task placedGtid).wdCount.toNat ∧ ((dogS 5).task placedGtid).st ≠ .retired ∧
    ((dogS 5).task placedGtid).causes.contains .watchdog = false ∧
    ¬((dogS 4).task placedGtid).wdLimit.toNat ≤ ((dogS 4).task placedGtid).wdCount.toNat := by decide

def heldFault (code : Nat) (restart : Bool) : State := { spineS with faultHeld := [faultR code restart] }

theorem test_hyp_WaitsEndAndHeldTasksGoOn :
    ((heldFault 0x11 true).heldOf placedGtid)[0]? = some (faultR 0x11 true) ∧ ((heldFault 0x11 true).heldOf placedGtid)[1]? = none ∧
    ((heldFault 0x01 false).heldOf placedGtid)[0]? = some (faultR 0x01 false) ∧ ((heldFault 0x20 true).heldOf placedGtid)[0]? = some (faultR 0x20 true) ∧
    ((heldFault 0x11 true).task placedGtid).causes.contains .translation = false ∧ (heldFault 0x11 true).heldByOther (faultR 0x11 true) = false ∧
    (∀ c, c < 8 → ((heldFault 0x11 true).share placedGtid c).cpq = []) ∧
    (((heldFault 0x01 false).gang? 1 0).map (·.2.tasks)) = some [placedGtid] ∧ noErrors (heldFault 0x01 false) := by
  unfold noErrors; decide

/-- A submission ring that holds one record: of zeros, with a reserved bit set, or of a launch of one gang of one thread. -/
def ringS' (mem : List Host.Cell) : State :=
  { State.reset with mem := mem, regs := [(ringAt 63 0, 0x10000), (ringAt 63 1, 4), (ringAt 63 2, 1)] }

theorem test_hyp_LaunchesAreAccepted :
    ringHas (ringS' []) 63 ∧ (ringS' []).sched.turn < 64 ∧ (∀ q, q < 64 → ¬ringHas State.reset q) ∧ noErrors (ringS' []) ∧
    ((5 : Word) - (ringS' []).reg (ringAt 63 3)).toNat = 5 ∧ ((ringS' []).reg (ringAt 63 1)).toNat = 4 := by
  unfold ringHas noErrors; decide

theorem test_hyp_RingsTurn : ringsTurn (ringS' []) 63 ∧ ((recordNow (ringS' [(0x10006, 1)]) 63).getD 0 0).toNat / 2 ^ 48 ≠ 0 := by
  unfold ringsTurn ringHas; decide

theorem test_hyp_LaunchRefused : ((ringS' []).checkRecord (recordNow (ringS' []) 63)).2.1.isSome = true := by decide +kernel

/-- A launch record: one gang; its table declares one binning thread. -/
def goodMem : List Host.Cell := []

/-- A machine with one launch: a gang of one row task that is queued. -/
def gangOf (st : GangState) (ts : Word) : Gang :=
  { decls := [{ binning := false, mode := 16, count := 1, entry := 0, schedVa := 0, schedLen := 0 }], tasks := [placedGtid], st := st, ts := ts }
def launchOf' (x : Gang) (cls : Nat := 1) : Launch :=
  { serial := 1, cls := cls, filler := false, asid := 0, root := 0, quota := 0, wdog := 100, after := [], done := none, args := [], scratch := 0,
    scratchLen := 0, spFirst := 0, spCount := 0, ring := 0, slot := 0, gangs := [x], nextIndex := 1, queuedAt := 0 }
def launchS (x : Gang) (t : TaskState) (cls : Nat := 1) : State :=
  { State.reset with
    tasks := [(placedGtid.toNat, { st := t, launch := 1 })], sched := { State.reset.sched with launches := [(1, some (launchOf' x cls))], serial := 1 } }

theorem test_hyp_GangsBindAndStart :
    (launchS (gangOf .queued 0) .queued).nextGang.isSome = true ∧
    ((launchS (gangOf .queued 0) .queued).nextGang.bind (launchS (gangOf .queued 0) .queued).reserve).isSome = true ∧
    ((launchS (gangOf .queued 0) .queued).nextGang.map fun w => (w.launch, w.gi, w.gang)) = some (launchOf' (gangOf .queued 0), 0, gangOf .queued 0) ∧
    (launchS (gangOf .out 0) .preempted).nextGang.isSome = true := by decide +kernel

theorem test_hyp_GangsAreReserved :
    (((launchS (gangOf .queued 0) .queued).nextGang.bind (launchS (gangOf .queued 0) .queued).reserve).map
      fun p => (p.places.map (·.1), (launchS (gangOf .queued 0) .queued).fillersAside p)) = some ([placedGtid], []) ∧
    needsNoImage (launchOf' (gangOf .queued 0)) (gangOf .queued 0) ∧
    (launchS (gangOf .queued 0) .queued).gang? 1 0 = some (launchOf' (gangOf .queued 0), gangOf .queued 0) := by
  unfold needsNoImage; decide +kernel

theorem test_hyp_GangsStart : (launchS (gangOf .bound 0) .bound).gang? 1 0 = some (launchOf' (gangOf .bound 0), gangOf .bound 0) ∧
    (gangOf .bound 0).ts.toNat ≤ (launchS (gangOf .bound 0) .bound).dcc.toNat ∧
    (launchS (gangOf .bound 1) .bound).dcc.toNat < (gangOf .bound 1).ts.toNat ∧
    (launchOf' (gangOf .queued 0) 2).cls = 2 ∧ Tbl.get none (launchS (gangOf .queued 0) .queued 2).sched.launches 1 = some (launchOf' (gangOf .queued 0) 2) := by
  decide

/-- A task that has issued EXIT; one whose gang has been ended. -/
def exitS (s : State) : State := withTask s fun t => { t with exited := true, wave := [] }
def endingS : State := withTask threadS fun t => { t with ending := 2, causes := [.ended] }

theorem test_hyp_TasksRetireAndComplete : mayRetire (exitS threadS) placedGtid ∧ noErrors (exitS threadS) ∧
    (endingS.task placedGtid).ending ≠ 0 ∧ settled endingS placedGtid ∧ (spineS.task placedGtid).exited = false :=
  ⟨⟨by decide, by decide, by decide, by decide, by decide, by decide, by unfold nothingOutstanding; decide, fun h => absurd h (by decide)⟩,
    by unfold noErrors; decide, by decide, ⟨by decide, by decide, by decide⟩, by decide⟩

theorem test_hyp_RowTasksRetire : mayRetire (exitS spineS) placedGtid :=
  ⟨by decide, by decide, by decide, by decide, by decide, by decide, by unfold nothingOutstanding; decide,
    fun _ => ⟨by decide, fun c _ => by
      have : (exitS spineS).share placedGtid c = ({} : Share) := by
        unfold State.share; simp [exitS, withTask, spineS, State.modTask]; rfl
      rw [this]; unfold shareIdle; decide, fun _ _ o h => nomatch h⟩⟩

/-- A completion to be posted: its ring has an entry free, or none. -/
def doneC : Completion := { ring := 63, slot := 0, serial := 1, status := 0, reason := 0, dcc := 0 }
def doneS (head : Word) : State :=
  { State.reset with
    regs := [(ringAt 63 4, 0x10000), (ringAt 63 5, 4), (ringAt 63 6, head)], sched := { State.reset.sched with completions := [doneC] } }

theorem test_hyp_CompletionsArePosted : (doneS 3).sched.completions.find? (fun c => c.ring = 63) = some doneC ∧ (doneS 3).reg (ringAt 63 5) ≠ 0 ∧
    (doneS 3).reg (ringAt 63 6) - (doneS 3).reg (ringAt 63 7) ≠ (doneS 3).reg (ringAt 63 5) ∧ noErrors (doneS 3) ∧
    (doneS 4).reg (ringAt 63 6) - (doneS 4).reg (ringAt 63 7) = (doneS 4).reg (ringAt 63 5) := by
  unfold noErrors; decide

/-- A gang that is being saved; a primary with a filler beside it. -/
def fillS (y : Nat) (act : Bool) (causes : List Cause) : State :=
  { State.reset with
    tasks := [(1, { st := .running, place := .row 0 0 false, fillOn := true, fillActive := act, yielding := y, causes := causes }),
              (2, { st := .running, place := .row 0 0 true, isFiller := true, waitCycles := 4095 })],
    pow := { State.reset.pow with admitted := [0] } }

theorem test_hyp_PreemptionAndFillerSwitch :
    (launchS (gangOf .saving 0) .running).gang? 1 0 = some (launchOf' (gangOf .saving 0), gangOf .saving 0) ∧
    (gangOf .saving 0).tasks.all (launchS (gangOf .saving 0) .running).saveReady = true ∧
    (fillS 4096 false [.hold]).rowTask 0 0 false = some 1 ∧ (fillS 4096 false [.hold]).rowTask 0 0 true = some 2 ∧
    ((fillS 4096 false [.hold]).task 1).thresh ≤ ((fillS 4096 false [.hold]).task 1).yielding ∧
    (8 * 0 + 0) ∈ (fillS 4096 false [.hold]).pow.admitted ∧ (fillS 0 false []).pow.tripped = false ∧
    ((fillS 0 true []).task 1).causes.contains .hold = false ∧ ((fillS 0 true []).task 1).fillActive = true := by decide

/-- The thread with an aligned address in x1 and the words of a descriptor there as they have come. -/
def gotS (n v : Nat) : State := withTask threadP fun t => { t with r := [(1, 0x10000)], got := [(0x10000, n, v)] }

/-- The descriptor of a route: 8 experts, the best 2, one token; and one with no expert. -/
def descR : Nat := 8 + 2 * 2 ^ 12 + 2 ^ 32 + 2 ^ 96

/-- The Collator of die 0 with a route. -/
def routeR : Route :=
  { launch := 1, gtid := placedGtid, e := 8, k := 2, a := 0, mode := 0, wb := false, lb := 0, mask := 1, t0 := 0, n := 1, donew := 0, bit := 0,
    asid := 0, root := 0, rbase := [0], bias := [] }
def collS (s : State) (r : Route) : State := { s with coll := [(0, { active := some r })] }

theorem test_hyp_RouteInstructionResults :
    unitRuns (gotS 192 descR) placedGtid ∧ (gotS 192 descR).guardTrue g0 = true ∧ noErrors (gotS 192 descR) ∧
    ((gotS 192 descR).rdInt 1).toNat % 64 = 0 ∧ wordsRead (gotS 192 descR) placedGtid 0x10000 8 24 descR ∧
    pageHit threadP threadP.memTlb placedGtid .load 0x10000 192 page1 ∧ (collAt (gotS 192 descR) 0).active = none :=
  ⟨⟨Or.inr (by unfold onThread; decide), by unfold nothingOutstanding; decide, fun h => absurd h (by unfold onSpine; decide)⟩, by decide,
    by unfold noErrors; decide, by decide, Or.inl (by decide), by unfold pageHit localHbm; decide, by decide⟩

theorem test_hyp_RouteDescriptors : ¬routeInvalid (fun i => BitVec.ofNat 64 (descR / 2 ^ (64 * i))) ∧ routeInvalid (fun _ => 0) ∧
    bitsOf (BitVec.ofNat 64 (descR / 2 ^ 64)) 32 32 ≠ 0 :=
  ⟨by unfold routeInvalid; decide, by unfold routeInvalid; decide, by decide⟩

theorem test_hyp_SpineReadsWords : wordsRead spineP placedGtid 0x10000 8 24 (bytesFrom (seenByte spineP 0 placedGtid) 0x20000 192) :=
  Or.inr ⟨by decide, by unfold onSpine; decide, by decide, page1, by unfold pageHit localHbm; decide, rfl⟩

theorem test_hyp_RouteCancel : (collAt (collS threadS routeR) 0).active = some routeR ∧ liveRouteOf 1 routeR ∧ routeR.donew = 0 ∧
    ((collS threadS routeR).launchPorts 0 1) = [] ∧ ((collS threadS routeR).task placedGtid).launch = 1 := by
  unfold liveRouteOf; decide

/-- A core with a row at its port. -/
def rowS (r : Route) (e : Nat) : State :=
  collS (withShare coreS fun h => { h with
    port := { h.port with expert := e }
    mxFin := [{ cmd := cmdOf .mma, pend := [(0, List.replicate 32 0)] }] }) r

theorem test_hyp_CollatorRowsAndRecords : rowWaits (rowS routeR 0) placedGtid 0 routeR 0 (List.replicate 32 0) ∧
    ((rowS routeR 0).share placedGtid 0).port.base.toNat = 0 ∧ ((rowS routeR 0).share placedGtid 0).port.expert = 0 ∧
    (routeR.t0 ≤ 0 ∧ 0 < routeR.t0 + routeR.n ∧ 0 ∉ routeR.finished) ∧ ¬(1 < routeR.t0 + routeR.n) ∧ routeR.k + routeR.a ≤ routeR.e :=
  ⟨⟨⟨⟨0, 0, false, by decide⟩, by decide⟩, by decide, by decide, by decide, by decide, by decide, by decide, by decide⟩, by decide,
    by decide, by decide, by decide, by decide⟩

/-- A route of 64 experts, of which a row gives the first half; and one with 64 tokens incomplete. -/
theorem test_hyp_CollatorTokens :
    rowWaits (rowS { routeR with e := 64 } 0) placedGtid 0 { routeR with e := 64 } 0 (List.replicate 32 0) ∧ Nat.min 32 (64 - 0) < 64 ∧
    rowWaits (rowS { routeR with tokens := (List.range 64).map fun t => { t := t + 1 } } 0) placedGtid 0
      { routeR with tokens := (List.range 64).map fun t => { t := t + 1 } } 0 (List.replicate 32 0) :=
  ⟨⟨⟨⟨0, 0, false, by decide⟩, by decide⟩, by decide, by decide, by decide, by decide, by decide, by decide, by decide⟩, by decide,
    ⟨⟨0, 0, false, by decide⟩, by decide⟩, by decide, by decide, by decide, by decide, by decide, by decide, by decide⟩

/-- A Collator with a record to write to a bin, or with every token written. -/
def recordR (due : Nat) : Record := { va := 0x10000, w0 := 1, w1 := 2, last := true, due := due }
def pageC : TlbEntry := { pageT with w1 := 0x4FFFFFFFFFF }
def outS (r : Route) : State := { collS spineS r with tlbs := [(100, [pageC])] }

theorem test_hyp_CollatorRecords : (collAt (outS { routeR with out := [recordR 0] }) 0).active = some { routeR with out := [recordR 0] } ∧
    collHit (outS { routeR with out := [recordR 0] }) 0 { routeR with out := [recordR 0] } 0x10000 16 pageC ∧
    windowOf (pageC.pa 0x10000) = .tile ∧ paDie (pageC.pa 0x10000) = 0 ∧ (outS { routeR with out := [recordR 0] }).waits = [] ∧
    (outS { routeR with out := [recordR 1] }).cycle < (recordR 1).due := by
  unfold collHit; decide

def doneR (w : Word) : Route := { routeR with emit := 1, donew := w }

theorem test_hyp_RoutesEnd : (collAt (outS (doneR 0)) 0).active = some (doneR 0) ∧ ((doneR 0).out = [] ∧ (doneR 0).emit = (doneR 0).n) ∧
    ¬(routeR.out = [] ∧ routeR.emit = routeR.n) ∧ (doneR 0x10008).donew.toNat % 8 = 0 ∧
    collHit { outS (doneR 0x10008) with tlbs := [(100, [page1])] } 0 (doneR 0x10008) 0x10008 8 page1 ∧ windowOf (page1.pa 0x10008) = .hbm ∧
    noErrors (outS (doneR 0x10008)) := by
  unfold collHit noErrors; decide

/-- A saved route whose gang is back. -/
def savedS : State := { launchS { gangOf .started 0 with routeDies := [0] } .running with coll := [(0, { saved := [routeR] })] }

theorem test_hyp_RoutesEndAndResidencyCommits :
    (collAt savedS 0).active = none ∧ (collAt savedS 0).saved.find? (fun r => !r.cancelled && savedS.routeBack 0 r) = some routeR :=  by decide

/-- xresgo under way (DONE 0). -/
def goS (w : Word) : State := { State.reset with regs := [(dieReg 0 1 0x10080, w)] }

theorem test_hyp_ResidencyCommits : ((goS 0).reg (dieReg 0 1 0x10080)).getLsbD 63 = false ∧
    ((goS 0x8000000000000000).reg (dieReg 0 1 0x10080)).getLsbD 63 = true ∧ noErrors (goS 0) := by
  unfold noErrors; decide

/-- A hint ring with room, and full. -/
def hintS (head : Word) : State := { State.reset with regs := [(dieReg 0 1 0x10000, 0x10000), (dieReg 0 1 0x10008, 4), (dieReg 0 1 0x10010, head)] }

theorem test_hyp_HintsArePosted : (dieRg 0 1 0x10010 (hintS 4) - dieRg 0 1 0x10018 (hintS 4) = dieRg 0 1 0x10008 (hintS 4)) ∧
    ¬(dieRg 0 1 0x10010 (hintS 3) - dieRg 0 1 0x10018 (hintS 3) = dieRg 0 1 0x10008 (hintS 3) ∨ dieRg 0 1 0x10008 (hintS 3) = 0) := by
  unfold dieRg; decide

/-- This device is number 0. -/
def devReg : Nat × Word := (ioReg 0 3 0x5000, 0x1000)
def askS (a b : Word) : State := withTask { threadP with regs := [devReg] } fun t => { t with r := [(1, a), (2, b)] }
def permitS (s : State) (p : Permit) : State := { s with xch := [(0, { permits := [(0, some p)] })] }
def permitP : Permit := { cap := 100, nsend := 3, win := 50, step := 7 }

theorem test_unitRuns (s : State) (h : onThread s placedGtid) (hn : nothingOutstanding s placedGtid) : unitRuns s placedGtid :=
  ⟨Or.inr h, hn, fun hs => absurd hs.2 (by simp [h.2])⟩

theorem test_hyp_PermitWindowsAndGrants :
    unitRuns (permitS (askS 0x40000000 7) permitP) placedGtid ∧ (permitS (askS 0x40000000 7) permitP).guardTrue g0 = true ∧
    (permitS (askS 0x40000000 7) permitP).fab.answers = [] ∧ deviceIs (permitS (askS 0x40000000 7) permitP) 0 ∧
    permitAt (permitS (askS 0x40000000 7) permitP) 0 0 = some permitP ∧ permitAt (askS 0 0) 0 0 = none ∧
    (bitsOf ((askS 0x40000000 7).rdInt 1) 24 16 = 64 ∧ bitsOf ((askS 0x40000000 7).rdInt 1) 10 12 = 0) ∧
    ((askS 0x40000000 7).rdInt 2).setWidth 32 = permitP.step ∧ permitP.gathered.length + 1 < permitP.nsend :=
  ⟨test_unitRuns _ (by unfold onThread; decide) (by unfold nothingOutstanding; decide), by decide, by decide, by unfold deviceIs; decide,
    by decide, by decide, by decide, by decide, by decide⟩

theorem test_hyp_PermitSteps :
    (((7 : BitVec 32) - 6).toInt > 0 ∧ ¬0 < ((7 : BitVec 32) - 8).toInt) ∧ bitsOf (0x1000 : Word) 10 12 ≠ 0 ∧
    (txAt (askS 0x1000 7) 4).failed = false ∧ bitsOf (0x4000000 : Word) 26 12 ≠ 0 ∧ bitsOf (0x4000000 : Word) 38 26 = 0 ∧
    bitsOf (0x400 : Word) 10 54 ≠ 0 ∧ (∀ x ∈ permitP.gathered, x.dev ≠ 0) ∧ permitP.waiting.length < 64 := by decide

/-- The window of an entry that has passed, and one that has not. -/
def since (n : Word) : Permit := { permitP with since := some 0, win := n }

theorem test_hyp_PermitWindowCloses : permitAt (permitS { askS 0 0 with dcc := 50 } (since 50)) 0 0 = some (since 50) ∧
    (since 50).win ≤ (50 : Word) - 0 ∧ (50 : Word) - 0 < (since 51).win ∧ (since 50).win ≠ 0 := by decide

/-- A dispatch: its descriptor (rows of 8 bytes to 0x12000, records to 0x13000, expert 0, step 7), and a bin of one record; the
page at virtual page 1 for rows, at 2 for the bin. -/
def dispD : Nat := 0x11000 + 2 ^ 64 * 0x12000 + 2 ^ 128 * 0x13000 + 2 ^ 192 * 8 + 2 ^ 256 * 7
def binPage : TlbEntry := { pageT with page := 2 }
def dispS (p : Option Permit) : State :=
  { withTask { threadS with regs := [devReg] } fun t => { t with r := [(1, 0x20000), (2, 0x10000)], got := [(0x10000, 64, dispD)] } with
    tlbs := [(32, [page1]), (96, [page1, binPage])], mem := [(0x10000000000, 1)], xch := [(0, { permits := [(0, p)] })] }
def dispPages : DispatchPages := { hp := binPage, rp := fun _ => page1, dp := page1, mp := page1 }
def grantedP : Permit := { permitP with grants := [(0, 0, 4)], closed := true }

theorem test_hyp_DispatchResults :
    unitRuns (dispS (some grantedP)) placedGtid ∧ noErrors (dispS (some grantedP)) ∧ wordsRead (dispS (some grantedP)) placedGtid 0x10000 8 8 dispD ∧
    ¬dispatchInvalid (fun i => BitVec.ofNat 64 (dispD / 2 ^ (64 * i))) ∧ dispatchInvalid (fun _ => 0) ∧
    binCount (dispS (some grantedP)) dispPages 0x20000 = 1 ∧ (7 : BitVec 32) = grantedP.step ∧ granted grantedP 0 0 1 ∧ ¬granted permitP 0 0 1 :=
  ⟨test_unitRuns _ (by unfold onThread; decide) (by unfold nothingOutstanding; decide), by unfold noErrors; decide, Or.inl (by decide),
    by unfold dispatchInvalid; decide, by unfold dispatchInvalid; decide, by decide, by decide, by unfold granted; decide,
    by unfold granted; decide⟩

theorem test_hyp_DispatchPages :
    dispatchMaps (dispS (some grantedP)) placedGtid dispPages (fun i => BitVec.ofNat 64 (dispD / 2 ^ (64 * i))) 0x20000 ∧
    permitAt (dispS (some grantedP)) 0 0 = some grantedP ∧ permitAt (dispS none) 0 0 = none ∧ deviceIs (dispS none) 0 :=
  ⟨by unfold dispatchMaps xchHit; decide +kernel, by decide, by decide, by unfold deviceIs; decide⟩

/-- A combine: a list of one valid entry at 0x11000, a row of one FP32 element to an output row of one. -/
def combD (n : Nat) : Nat := 0x11000 + 2 ^ 64 * n + 2 ^ 128 * 0x12000 + 2 ^ 192 * 0x13000 + 2 ^ 256 * (1 + 2 * 2 ^ 16 + 2 * 2 ^ 20)
def combS (n : Nat) : State :=
  { withTask { threadS with regs := [devReg] } fun t => { t with r := [(1, 0x10000)], got := [(0x10000, 64, combD n)] } with
    tlbs := [(32, [page1]), (96, [page1])], mem := [(0x21007, 0x80), (0x22001, 0x40), (0x22002, 1)] }
def combPages : CombinePages := { lp := page1, bp := fun _ => page1, rp := fun _ => page1, op := page1 }

theorem test_hyp_CombineResults :
    unitRuns (combS 1) placedGtid ∧ noErrors (combS 1) ∧ wordsRead (combS 1) placedGtid 0x10000 8 8 (combD 1) ∧
    ¬combineInvalid (fun i => BitVec.ofNat 64 (combD 1 / 2 ^ (64 * i))) ∧ combineInvalid (fun _ => 0) ∧
    bitsOf (BitVec.ofNat 64 (combD 0 / 2 ^ 64)) 0 32 = 0 ∧ bitsOf (BitVec.ofNat 64 (combD 1 / 2 ^ 64)) 0 32 ≠ 0 :=
  ⟨test_unitRuns _ (by unfold onThread; decide) (by unfold nothingOutstanding; decide), by unfold noErrors; decide, Or.inl (by decide),
    by unfold combineInvalid; decide, by unfold combineInvalid; decide, by decide, by decide⟩

theorem test_hyp_CombinePages : combineMaps (combS 1) placedGtid combPages (fun i => BitVec.ofNat 64 (combD 1 / 2 ^ (64 * i))) := by
  unfold combineMaps xchHit
  exact ⟨by decide +kernel, by decide +kernel, by decide +kernel, by decide +kernel, by decide +kernel, by decide +kernel⟩

/-- A link port that is up, and a device with a number. -/
def upS (p : Nat) : State := { State.reset with regs := [(portWord p 0, 1), (portWord p 8, 1)] }

/-- A flit with message `m` whole, its number 0. -/
def msgM (typ : BitVec 8) (vc : BitVec 3) (w2 : Word := 0) (w3 : Word := 0) (pl : List Byte := []) : Msg :=
  { src := 5, dst := 0, typ := typ, vc := vc, w2 := w2, w3 := w3, payload := pl }
def flitF (kind : Nat) (m : Msg) : List Byte := flitBytes (BitVec.ofNat 64 (flitHead kind 0 true true false 0 0)) (msgBytes m)

theorem test_hyp_FlitsAndLinks : flitComes (upS 31) 31 (flitF 0 (msgM 1 0)) ∧ flitNumber (flitF 0 (msgM 1 0)) = (linkAt (upS 31) 31).expect ∧
    flitKind (flitF 0 (msgM 1 0)) = 0 ∧ flitKind (flitF 1 (msgM 1 0)) ≠ 0 ∧ flitChannel (flitF 0 (msgM 1 0)) < 6 ∧
    flitBit (flitF 0 (msgM 1 0)) 28 = true ∧ flitBit (flitF 0 (msgM 1 0)) 29 = true ∧
    msgParse (((flitF 0 (msgM 1 0)).drop 8).take 240) = some (msgM 1 0) := by
  unfold flitComes linkUp; decide +kernel

theorem test_hyp_FlitsGoodAndBad : crcGood (flitF 0 (msgM 1 0)) ∧ ¬crcGood (flitF 0 (msgM 1 0)).reverse ∧ ¬linkUp State.reset 31 ∧
    (flitNumber (flitF 0 (msgM 1 0)) ≠ 1) := by
  unfold crcGood linkUp; decide +kernel

/-- A port with a flit not covered, on which a replay is due by a NAK. -/
def replayS (n : Nat) : State :=
  { upS 31 with fab := { State.reset.fab with ports := [(31, { nak := true, replays := n, replay := [flitF 1 (msgM 1 0)] })] } }

theorem test_hyp_LinksReplay : linkUp (replayS 15) 31 ∧ (linkAt (replayS 15) 31).replay ≠ [] ∧ (linkAt (replayS 15) 31).nak = true ∧
    (linkAt (replayS 16) 31).replays = 16 ∧ linkUp (upS 34) 34 ∧
    ¬linkUp { State.reset with regs := [(portWord 34 0, 1)] } 34 ∧
    ({ State.reset with regs := [(portWord 34 0, 1)] }.reg (portWord 34 0)).getLsbD 0 = true ∧ State.reset.fab.tx = [] := by
  unfold linkUp; decide +kernel

/-- Device 0, with what it has received from device 5 and what it owes. -/
def dev0 : State := { State.reset with regs := [devReg] }
def rxS (r : PairRx) : State := { dev0 with fab := { dev0.fab with rx := [(5, r)] } }

theorem test_hyp_MessagesPerformOnce : (State.reset.reg (fabWord 0x5000)).getLsbD 12 = false ∧ deviceIs dev0 0 ∧
    (msgM 1 0).dst.toNat = 0 ∧ specChannel (msgM 1 1).typ.toNat ≠ some (msgM 1 1).vc.toNat ∧ forUs dev0 (msgM 1 0) ∧
    (rxS { base := 1 }).fab.cache = [] ∧ (rxAt (rxS { base := 1 }) 5).base = 0 + 1 ∧ (msgM 1 0).seq.toNat = 0 % 2 ^ 32 := by
  unfold forUs deviceIs; decide

theorem test_hyp_MessagesNumbered : numbered dev0 (msgM 1 0) 0 ∧ numbered dev0 { msgM 1 0 with seq := 4096 } 4096 ∧
    ({ dev0 with regs := [devReg, (fabWord (0x100000 + 128 * 5 + 64), 2)] }.reg (fabWord (0x100000 + 128 * 5 + 64))).getLsbD 1 = true ∧
    peerRange 0x10000 1 = true ∧ noErrors dev0 ∧ inClear dev0 5 ∧ (txAt dev0 5).failed = false ∧ specChannel 0x16 = some 3 ∧
    specChannel 0x18 = some 3 := by
  unfold numbered noErrors inClear; decide

/-- A duplicate whose reply is kept, and the path to its sender. -/
def routedS (s : State) (p : Nat) : State :=
  { s with
    regs := s.regs ++ [(portWord p 0, 1), (portWord p 8, 1)]
    xch := [(0, { route := [(4 * 5, BitVec.ofNat 64 p), (4 * 5 + 2, 1)] })] }
def keptR : CachedReply := { src := 5, seq := 0, reply := some (msgM 3 1) }
def dupS : State := routedS { rxS { base := 1 } with fab := { (rxS { base := 1 }).fab with cache := [(0, [keptR])] } } 3

theorem test_hyp_DuplicatesAnswered : Tbl.get [] dupS.fab.cache 0 = [keptR] ∧ onePath dupS 0 5 3 ∧ (keptR.src = (msgM 1 0).src.toNat ∧ keptR.seq = (msgM 1 0).seq) ∧
    deviceIs dupS 0 := by
  unfold onePath linkUp deviceIs; decide

/-- A thread that waits for a remote load. -/
def loadS : State :=
  { withTask { threadS with regs := [devReg], fab := { threadS.fab with tx := [(5, { expects := [(9, .part placedGtid 0)] })] } } fun t =>
      { t with memOp := some (waitM (.int 3 8 true) 8) } with cycle := 0 }

theorem test_hyp_LoadReplies : (txAt loadS 5).expects = [((msgM 3 1 9).w2.setWidth 32, .part placedGtid 0)] ∧
    (loadS.task placedGtid).memOp = some (waitM (.int 3 8 true) 8) ∧ forUs loadS (msgM 3 1 9 0 (List.replicate 8 1)) ∧ loadS.fab.answers = [] := by
  unfold forUs deviceIs; decide

/-- A permit entry on device 0, and a dispatch of one piece that it covers. -/
def permitDev (p : Permit) : State := permitS dev0 p
def dispatchM : Msg := msgM 0x18 3 0 0
  (leBytes (2 ^ 32) 8 ++ leBytes 7 8 ++ leBytes 1 8 ++ leBytes 0x10000 8 ++ leBytes 1 8 ++ [9])

theorem test_hyp_PermitMessagesReachTheEntry : forUs (permitDev permitP) (msgM 0x16 3 0 7) ∧ permitAt (permitDev permitP) 0 0 = some permitP ∧
    ((msgM 0x16 3 0 7).w3.setWidth 32 = permitP.step) ∧ permitP.closed = false ∧ permitP.gathered.length + 1 < permitP.nsend ∧
    forUs (permitDev permitP) dispatchM ∧ (unpackDispatch dispatchM).1.die < 4 ∧ (unpackDispatch dispatchM).1.n = 1 ∧
    (unpackDispatch dispatchM).2 = [(0x10000, [9])] ∧ (unpackDispatch dispatchM).1.step = permitP.step := by
  unfold forUs deviceIs; decide

theorem test_hyp_DispatchGranted : granted { permitP with grants := [(5, 0, 4)] } (unpackDispatch dispatchM).1.dev (unpackDispatch dispatchM).1.base
    (unpackDispatch dispatchM).1.n ∧ ¬granted permitP 5 0 1 := by
  unfold granted; decide

/-- A store on its way to device 5: acknowledged, due again, or given up; and a pair that owes an acknowledgement. -/
def sentX (n : Nat) : Sent := { msg := { msgM 1 0 with dst := 5 }, die := 0, why := .store placedGtid 0, count := n, sentAt := 0 }
def sentS (n : Nat) (dcc : Word) : State :=
  { routedS dev0 3 with dcc := dcc, fab := { dev0.fab with tx := [(5, { unacked := [sentX n] })] } }
def ackM : Msg := msgM 8 2 1

theorem test_hyp_AcknowledgementsAndReleases : (txAt (sentS 1 0) 5).unacked = [] ++ sentX 1 :: [] ∧ deviceIs (sentS 1 0) ackM.dst.toNat ∧
    ackM.w2 = BitVec.ofNat 64 (((sentX 1).seq64 + 1) % 2 ^ 32) ∧ (sentX 1).asks = false ∧ (txAt (sentS 1 0) 5).waiting = [] ∧
    onePath (sentS 1 100000) 0 5 3 ∧ (0 : Word) - (sentX 1).sentAt < 100000 ∧ (sentS 1 0).reg (fabWord 0x5008) = 100000 ∧
    (sentX 1).count < Nat.max 1 (bitsOf ((sentS 1 0).reg (fabWord 0x5010)) 0 8) := by
  unfold onePath linkUp deviceIs; decide

theorem test_hyp_AcknowledgementDue : (rxAt (routedS (rxS { base := 1, unacked := 1 }) 3) 5).unacked ≠ 0 ∧
    deviceIs (routedS (rxS { base := 1, unacked := 1 }) 3) 0 ∧ onePath (routedS (rxS { base := 1, unacked := 1 }) 3) 0 5 3 ∧
    Nat.max 1 (bitsOf ((sentS 1 0).reg (fabWord 0x5010)) 0 8) ≤ (sentX 255).count := by
  unfold onePath linkUp deviceIs; decide

/-- A release write whose marker has come, or is still to come. -/
def relM : Msg := { msgM 7 0 4 1 (leBytes 0x10000 8 ++ leBytes (8 + 256 * 32) 8 ++ leBytes 77 8) with seq := 0 }
def relS (got : Nat) : State :=
  { dev0 with fab := { dev0.fab with held := [relM], flushes := [{ src := 5, tag := 4, got := got }] } }

theorem test_hyp_ReleaseWritesWaitForFlushes : (relS 1).fab.held = [relM] ∧ relM.typ = 0x07 ∧ relM.w3.toNat ≤ 1 ∧ 0 < relM.w3.toNat ∧
    relM.seq.toNat = (rxAt (relS 1) relM.src.toNat).base % 2 ^ 32 ∧ 24 ≤ relM.payload.length ∧
    bytesFrom (fun k => relM.payload.getD k 0) 8 8 = 8 + 256 * 32 ∧ peerRange (bytesFrom (fun k => relM.payload.getD k 0) 0 8) 8 = true ∧
    noErrors (relS 1) := by
  unfold noErrors; decide

theorem test_hyp_RegisterAccessesAndSpares :
    regSpec 5 = none ∧ (regSpec (dieReg 0 0 0)).isSome = true ∧ plainWrite (dieReg 0 0 0x38) ∧ (State.reset.reg (dieReg 0 0 0)).getLsbD 63 = true ∧
    ((4 : Word).toNat % 4 = 0 ∧ (3 : Word).toNat % 4 ≠ 0) ∧ inBlocks (dieReg 0 0 0) ∧ ¬inBlocks 0x10000 ∧ State.reset.sec.recovery = false ∧
    ((regSpec (dieReg 0 0 0x38)).map (·.mOnly)) ≠ none := by
  unfold plainWrite inBlocks; decide

theorem test_hyp_RegisterClasses : ((regSpec (portWord 0 24)).map (·.rc)) = some true ∧ ((regSpec (dieReg 0 0 0)).map (·.rc)) = some false ∧
    ((sliceS 1 {}).reg (dieReg 0 0 0)).getLsbD 63 = false := by decide

theorem test_hyp_RecoveryRefusesAndKillEnds : ({ State.reset with sec := { State.reset.sec with recovery := true } }.sec.recovery = true) ∧
    (spineS.task placedGtid).st ≠ .absent ∧ (spineS.gang? 1 0).map (·.2.tasks) = some [placedGtid] ∧ spineS.sec.recovery = false ∧
    noErrors spineS := by
  unfold noErrors; decide

/-- A die whose spare of BC serves BC 15. -/
def sparedS : State := { State.reset with sec := { State.reset.sec with spares := [(3, 1, 0, 15)] } }

theorem test_hyp_SpareCommands : spareArgs 3 1 0 ∧ spareArgs 3 0 7 ∧ servedBy State.reset 3 1 0 = none ∧ servedBy sparedS 3 1 0 = some 15 ∧
    unitExists 1 15 ∧ ¬unitExists 1 16 ∧ ¬unitExists 0 8 ∧ unitFree sparedS 3 1 0 ∧ ¬unitFree threadS 0 1 0 := by
  unfold spareArgs unitExists unitFree; decide

/-- A die with a repair under way, quiet, and not quiet. -/
def repairS (s : State) : State := { s with regs := [(dieReg 3 3 0x18, 0)] }

theorem test_hyp_RepairsAndBadPages : (State.reset.reg (dieReg 3 3 0x18)).getLsbD 63 = true ∧ ((repairS State.reset).reg (dieReg 3 3 0x18)).getLsbD 63 = false ∧
    ((repairS State.reset).setReg (dieReg 3 3 0x18) (BitVec.ofNat 64 (2 ^ 63))).quietDie 3 = true ∧
    (({ spineS with regs := [(dieReg 0 3 0x18, 0)] } : State).setReg (dieReg 0 3 0x18) (BitVec.ofNat 64 (2 ^ 63))).quietDie 0 = false ∧
    noErrors (repairS State.reset) ∧ State.reset.sec.badPages.length < 4096 ∧ Tbl.find? State.reset.sec.badPages 7 = none ∧
    Tbl.find? [(7, 1)] 7 ≠ (none : Option Nat) := by
  unfold noErrors; decide

theorem test_hyp_FirmwareAndKeys : ¬imageGood State.reset 1 [] ∧ (List.replicate 48 (0 : Byte)).length = 48 ∧ ([] : List Byte).length ≠ 48 ∧
    ({ State.reset with sec := { State.reset.sec with ownerHash := 1 } }.sec.ownerHash ≠ 0) ∧ State.reset.sec.ownerHash = 0 ∧
    specEnrol State.reset [] = 2 := by
  refine ⟨fun h => absurd h.1 (by decide), by decide, by decide, by decide, by decide, by decide⟩

/-- An image of KIND 1, one byte long, with its digest. Whether a signature verifies is open (Config.ecdsaOk): the witness is for every
value of that function that accepts this one. -/
def imageB : List Byte :=
  leBytes 1 8 ++ leBytes 1 8 ++ leBytes 1 8 ++ List.replicate 40 0 ++ digestOf [0] ++ List.replicate 144 0 ++ [0]

theorem test_hyp_ImageAccepted (h : Config.ecdsaOk Config.firmwareKey (Config.sha384 (imageB.take 160)) (cutOf imageB 160 96) = true) :
    imageGood State.reset 1 imageB ∧ boots { State.reset with sec := { State.reset.sec with copyA := [(1, imageB)] } } 1 imageB := by
  have hg : ∀ s : State, s.sec.minSvn = [] → imageGood s 1 imageB := fun s hs =>
    ⟨rfl, by decide, by decide, by decide, by decide, by decide, rfl, by
      intro i h1 h2; interval_cases i <;> rfl, by intro i h1 h2; interval_cases i <;> rfl, h, rfl, by rw [hs]; decide⟩
  exact ⟨hg _ rfl, Or.inl ⟨hg _ rfl, rfl⟩⟩

/-- An enrolment of slot 15, signed by the owner. -/
def enrolB : List Byte := leBytes (1 + 15 * 256) 8 ++ leBytes 1 8 ++ List.replicate 288 0
def ownedS : State := { State.reset with sec := { State.reset.sec with ownerHash := Config.sha384 (cutOf enrolB 112 96) } }

theorem test_hyp_EnrolAccepted (h0 : Config.sha384 (cutOf enrolB 112 96) ≠ 0)
    (h : Config.ecdsaOk (cutOf enrolB 112 96) (Config.sha384 (cutOf enrolB 0 208)) (cutOf enrolB 208 96) = true)
    (hc : Config.onCurve (cutOf enrolB 16 96) = true) : specEnrol ownedS enrolB = 0 := by
  have h1 : ¬(ownedS.sec.ownerHash = 0 ∨ ownedS.sec.ownerHash ≠ Config.sha384 (cutOf enrolB 112 96)) := by rintro (h' | h') <;> [exact h0 h'; exact h' rfl]
  have h3 : ¬(BitVec.ofNat 64 (octets enrolB 8 8) ≠ ownedS.reg (ioReg 0 0 0x1700) + 1) := by
    show ¬(BitVec.ofNat 64 (octets enrolB 8 8) ≠ regReset (ioReg 0 0 0x1700) + 1); decide
  have h4 : slotStateOf ownedS 15 = 0 := by
    show bitsOf (regReset (ioReg 0 0 (0x1000 + 112 * 15 + 8 * 12))) 0 8 = 0; decide
  have h5 : octets enrolB 1 1 % 16 = 15 := by decide
  have h6 : octets enrolB 0 1 = 1 := by decide
  have h7 : enrolB.length = 304 := rfl
  have h8 : octets enrolB 0 8 / 2 ^ 12 = 0 := by decide
  simp only [specEnrol]
  rw [if_neg h1, h, if_neg (by decide), if_neg h3, h5, h6, h7, h8, h4, hc]; decide

/-- The loader at a command, with a session of one shard or none. -/
def loadCmd (n : Word) (x : Option Session := none) (dcc : Word := 0) : State :=
  { State.reset with
    regs := [(ldAt 0, n), (ldAt 8, 0x10000), (ldAt 0x10, 0x20000), (ldAt 0x20, 0x40000)], ldr := { State.reset.ldr with session := x }, dcc := dcc }
def shardY (st : Nat) (pieces : List (Nat × List Byte)) (n : Nat := 2) : Shard :=
  { die := 0, res := 0, expert := 0xFFFF, off := 0, len := n, digest := 0, st := st, pieces := pieces }
def sessX (y : Shard) (dead : Word := 100) : Session :=
  { num := 1, gen := 1, slot := 15, man := [], shards := [y], place := [(0x30000, 0)], asid := 0, tab := 0x40000, dead := dead, start := 0 }
def chunkB (off len : Nat) : List Byte := leBytes 1 4 ++ leBytes 0 4 ++ leBytes off 8 ++ leBytes len 8 ++ leBytes 0 8 ++ List.replicate len 7

/-- A manifest of no entries: its header has one field out of range. -/
theorem test_hyp_LoadOpensASession : ldRuns (loadCmd 1) 1 ∧ ¬ldRuns (loadCmd 2) 1 ∧ manifestAt (loadCmd 1) (List.replicate 224 0) ∧
    manifestInvalid (List.replicate 224 0) :=
  ⟨by unfold ldRuns; decide, by unfold ldRuns; decide,
    by unfold manifestAt; decide +kernel, Or.inl (Or.inl (by decide))⟩

theorem test_hyp_LoadRefused : specLoad (loadCmd 1) (List.replicate 224 0) 2 :=
  ⟨fun k h1 _ hk => by
    have : k = 1 := by omega
    subst this; simp [loadCmd], fun _ => ⟨by decide, by simp only [OfNat.ofNat_ne_one, if_false]; exact Or.inl (Or.inl (by decide))⟩⟩

theorem test_hyp_ChunksAndShards :
    chunkFits (loadCmd 0 (some (sessX (shardY 0 [])))) (chunkB 0 2) (sessX (shardY 0 [])) (shardY 0 []) ∧
    chunkFits (loadCmd 0 (some (sessX (shardY 0 [(0, [1])])))) (chunkB 1 1) (sessX (shardY 0 [(0, [1])])) (shardY 0 [(0, [1])]) :=
  ⟨⟨by unfold chunkWhole; decide, by decide, by decide, by decide, by decide, by decide, by decide, by decide⟩,
    ⟨by unfold chunkWhole; decide, by decide, by decide, by decide, by decide, by decide, by decide, by decide⟩⟩

theorem test_hyp_ShardsHashed : (loadCmd 0 (some (sessX (shardY 0 [(0, [1, 2])])))).ldr.session = some (sessX (shardY 0 [(0, [1, 2])])) ∧
    gotOf (shardY 0 [(0, [1, 2])]) = (shardY 0 [(0, [1, 2])]).len ∧ gotOf (shardY 0 []) ≠ (shardY 0 []).len ∧
    (sessX (shardY 0 [])).dead.toNat ≤ (loadCmd 0 (some (sessX (shardY 0 []))) 100).dcc.toNat ∧
    ((loadCmd 0 none 99).dcc.toNat < (sessX (shardY 0 [])).dead.toNat) := by decide

theorem test_hyp_RetryCommitAbort : ldRuns (loadCmd 2) 2 ∧ ldRuns (loadCmd 3) 3 ∧ ldRuns (loadCmd 4) 4 ∧
    (loadCmd 2 (some (sessX (shardY 2 [])))).ldr.session = some (sessX (shardY 2 [])) ∧
    bitsOf ((loadCmd 2).reg (ldAt 0)) 16 32 = 0 ∧ (sessX (shardY 3 [])).shards[0]? = some (shardY 3 []) ∧
    (∀ d, d < 4 → ((loadCmd 3).reg (dieReg d 1 0x10080)).getLsbD 63 = true) ∧
    (∀ y ∈ (sessX (shardY 1 [])).shards, y.st = 1 ∧ y.res = 0) ∧ (sessX (shardY 1 [])).slot < 16 := by
  unfold ldRuns; decide

theorem test_hyp_CommitStagesNothing : ∀ d, d < 4 → ∀ e, e < 1024 → ¬isStaged d e (loadCmd 3) := by
  unfold isStaged xstageAt; decide +kernel

/-- A manifest of one shard of one byte, which key slot 0 has signed. -/
def manB : List Byte :=
  leBytes 0x4D4E4647 8 ++ leBytes 1 2 ++ leBytes 1 2 ++ leBytes 0 4 ++ leBytes 1 8 ++ List.replicate 152 0 ++ leBytes (1 + 0xFFFF * 2 ^ 48) 8 ++
    List.replicate 104 0
def cellsFrom (a : Nat) : List Byte → List Host.Cell
  | [] => []
  | b :: l => if b = 0 then cellsFrom (a + 1) l else (a, b) :: cellsFrom (a + 1) l
def manS : State :=
  { loadCmd 1 with mem := cellsFrom 0x10000 manB, regs := (loadCmd 1).regs ++ [(ioReg 0 0 (0x1000 + 8 * 12), 1)] }
def slotKey : List Byte := List.flatten ((List.range 12).map fun i => (List.range 8).map fun j => byteOf (slotWord manS 0 i) j)

theorem test_hyp_ManifestRead : manifestAt manS manB ∧ octets manB 16 8 = 1 ∧ octets manB 12 1 % 16 = 0 ∧ slotStateOf manS 0 = 1 ∧
    slotGenOf manS 0 < octets manB 10 2 := by
  unfold manifestAt; decide +kernel

theorem test_hyp_ManifestValid : ¬manifestInvalid manB := by
  have h1 : octets manB 16 8 = 1 := by decide +kernel
  have hz : ∀ i, i < 128 → 24 ≤ i → manB.getD i 0 = 0 := by decide +kernel
  have h2 : ¬headInvalid manB := by
    rintro (h | h | h | h | h | h | ⟨i, ha, hb, h⟩ | ⟨i, ha, hb, h⟩)
    iterate 6 exact absurd h (by decide +kernel)
    · exact h (hz i (by omega) ha)
    · exact h (hz i hb (by omega))
  have h3 : ¬entryInvalid manB 0 := by unfold entryInvalid; decide +kernel
  rintro (h | ⟨i, hi, h⟩ | ⟨i, j, hij, hj, _⟩)
  · exact h2 h
  · rw [h1] at hi; obtain rfl : i = 0 := by omega
    exact h3 h
  · omega

theorem test_hyp_ManifestPlaced : ¬misplaced manS manB 0 := by unfold misplaced placeBase; decide +kernel

theorem test_hyp_LoadAccepted (h : Config.ecdsaOk slotKey (Config.sha384 (manB.take 192)) (cutOf manB 192 96) = true) : specLoad manS manB 0 := by
  have hr := test_hyp_ManifestRead
  refine ⟨fun k h1 h6 _ => ?_, fun h0 => absurd rfl h0⟩
  have hk : k = 1 ∨ k = 2 ∨ k = 3 ∨ k = 4 ∨ k = 5 ∨ k = 6 := by omega
  rcases hk with rfl | rfl | rfl | rfl | rfl | rfl <;> simp only [hr.2.1, hr.2.2.1, hr.2.2.2.1] <;> norm_num
  · decide
  · exact test_hyp_ManifestValid
  · exact h
  · exact hr.2.2.2.2
  · exact test_hyp_ManifestPlaced

theorem test_hyp_PowerAndTelemetry : (State.reset.pow.throttle = none) ∧ State.reset.dcc.toNat % 100000 = 0 ∧
    ({ State.reset with regs := [(powerAt 0x40, 5)] }.reg (powerAt 0x40)).toNat ≠ 0 ∧ (State.reset.reg (powerAt 0x40)).toNat = 0 ∧
    ({ State.reset with regs := [(powerAt 0x50, 4), (powerAt 0x58, 4)] }.reg (powerAt 0x58) - 0 = 4) := by decide

/-- A watched task: its watch entry, and a bundle it has fetched. -/
def watchS (ctl : Word) : State :=
  { withTask spineS fun t => { t with fetched := some ⟨0x40, 0, 0, 0, 0⟩ } with
    regs := [(debugAt (32 * 15), placedGtid), (debugAt (32 * 15 + 8), 0x40), (debugAt (32 * 15 + 16), ctl), (debugAt 0x820, 4)] }

theorem test_hyp_HaltsTraceAndGrids : watchIs (watchS 2) placedGtid (fun c _ => c.getLsbD 1 = true) 15 ∧ (watchS 2).curGtid = placedGtid ∧
    (watchS 2).guardTrue g0 = true ∧ ((watchS 1).task placedGtid).brkPast = false ∧ ((watchS 1).task placedGtid).st = .running ∧
    (watchS 1).reg (debugAt 0x820) ≠ 0 ∧ (watchS 1).dcc.toNat % 4 = 0 ∧ ((watchS 1).task placedGtid).bound = true := by
  unfold watchIs; decide

theorem test_hyp_BreakpointWatched : watchIs (watchS 1) placedGtid (fun c b => c.getLsbD 0 = true ∧ b.toNat / 16 = 0x40 / 16) 15 ∧
    ∀ i, ¬watchIs spineS placedGtid (fun c _ => c.getLsbD 1 = true) i :=
  ⟨by unfold watchIs; decide, fun i h => absurd h.2.1 (by
    have := h.1
    have h' : ∀ i, i < 16 → spineS.reg (debugAt (32 * i + 8 * 0)) ≠ placedGtid := by decide
    exact h' i this)⟩

/-- A Press with a frame that is due: its ring has room, or not. -/
def pressS (head : Word) : State :=
  { State.reset with
    regs := [(debugAt 0x1000, 0x10000), (debugAt 0x1008, 4), (debugAt 0x1010, head)], dcc := 1048576, dbg := { State.reset.dbg with press := [(0, { count := 1 })] } }

theorem test_hyp_PressFrames : (pressAt (pressS 3) 0).count ≠ 0 ∧ 1048576 ≤ ((pressS 3).dcc - (pressAt (pressS 3) 0).first).toNat ∧
    (pressS 4).reg (debugAt 0x1010) - (pressS 4).reg (debugAt 0x1018) = (pressS 4).reg (debugAt 0x1008) ∧
    ¬((pressS 3).reg (debugAt 0x1010) - (pressS 3).reg (debugAt 0x1018) = (pressS 3).reg (debugAt 0x1008)) ∧
    (pressAt (pressS 3) 0).body.length ≤ 4064 ∧ (pressAt State.reset 0).count = 0 := by decide

/-- The debugger at a command for the placed task, halted or not. -/
def debugS (n sel : Word) (causes : List Cause) : State :=
  { withTask spineS fun t => { t with causes := causes } with
    regs := [(debugAt 0x800, n), (debugAt 0x808, placedGtid), (debugAt 0x810, sel)] }

theorem test_hyp_DebugCommands : (∀ n, n ∈ [1, 2, 3, 4, 5] → debugRuns (debugS (BitVec.ofNat 64 n) 0 []) n) ∧ ¬debugRuns State.reset 1 ∧
    haltedNow (debugS 4 0 [.halt]) placedGtid ∧ ¬haltedNow (debugS 4 0 []) placedGtid ∧ chosen (debugS 4 0x3F0000 [.halt]) 0 0 63 ∧
    ((debugS 4 0 []).task placedGtid).isRow = true ∧ ((debugS 4 0 []).task placedGtid).selOk 0 0 64 = false ∧
    chosen (debugS 4 0x1F0071 [.halt]) 1 7 31 ∧ (State.reset.task 5).st = .absent := by
  unfold debugRuns haltedNow chosen; decide

theorem test_hyp_GridsAreStored : State.reset.dcc.toNat % 2 ^ 20 = 0 ∧
    ({ State.reset with regs := [(debugAt 0x2148, 4), (debugAt 0x2150, 4)] }.reg (debugAt (0x2000 + 64 * 5 + 16)) = 4) ∧
    State.reset.reg (debugAt (0x2000 + 64 * 5 + 8)) = 0 := by decide

/-- A queue pair in use, the next PSN 7, with a region of memory that may be read and written. -/
def qpS (lcp : Bool) : State :=
  { State.reset with
    regs := [(ioReg 0 3 (0x6000 + 64 * 255 + 32), BitVec.ofNat 64 (7 + 2 ^ 28 + (if lcp then 2 ^ 27 else 0))),
             (ioReg 0 3 0xA000, 0x10000), (ioReg 0 3 0xA008, 0x1000), (ioReg 0 3 0xA010, 0x700000055)] }

theorem test_hyp_HostMessagesPerform : nextOnQp (qpS false) 255 7 ∧ ¬nextOnQp (qpS false) 255 6 ∧ ¬nextOnQp State.reset 0 0 ∧
    (qpWord (qpS true) 255 4).getLsbD 27 = true ∧ windowOf 0x10FF8 = .hbm ∧ noErrors (qpS false) ∧
    bitsOf (State.reset.reg (ioReg 1 3 0x5000)) 0 2 = 0 := by
  unfold nextOnQp noErrors; decide

theorem test_hyp_RegionsAdmit : admitted (qpS false) 0x55 0x10FF8 8 true ∧ admitted (qpS false) 0x55 0x10FF8 8 false ∧
    ¬admitted (qpS false) 0x55 0x10FF9 8 true :=
  ⟨⟨0, by decide⟩, ⟨0, by decide⟩, fun h => by
    rcases h with ⟨m, hm, h1, h2, _, h4, h5⟩
    have h' : ∀ m, m < 256 → (mrWord (qpS false) m 2).getLsbD 34 = true → m = 0 := by decide
    rw [h' m hm h1] at h5; exact absurd h5 (by decide)⟩

theorem test_hyp_DecodeReadsBackTheEncoding : (Instr.add ⟨g0, 1, 2, 3, 0⟩).wellFormed (.bc 32) = true ∧ (Instr.add ⟨g0, 1, 2, 3, 0⟩).implementedBy (.bc 32) = true ∧
    (Instr.add ⟨g0, 1, 2, 3, 0⟩).partialOverlap = false ∧ (encode (.add ⟨g0, 1, 2, 3, 0⟩)).isSome = true := by decide

theorem test_hyp_DecodeEncoded : ∀ e, encode (.add ⟨g0, 1, 2, 3, 0⟩) = some e → inRange (e.1.toNat / 2 ^ 57) .s = true := by
  intro e h; have : (encode (.add ⟨g0, 1, 2, 3, 0⟩)).all (fun e => inRange (e.1.toNat / 2 ^ 57) .s) = true := by decide
  rw [h] at this; exact this

theorem test_hyp_StepRunsTheDecodedInstruction : (State.reset.withFetchWord 64 0).pending ≠ [] ∧ State.reset.pending = [] ∧ State.reset.agenda = [] ∧
    { State.reset with agenda := [.launchAccept] }.agenda = [.launchAccept] ∧ decodeTableWord 64 0 = some .nop := by decide

theorem test_hyp_StepsKeepMemoryCanonical : canonicalMem State.reset ∧ canonicalMem { State.reset with mem := [(5, 1), (7, 2)], tags := [(8, true)] } ∧
    ¬canonicalMem { State.reset with mem := [(5, 0)] } := by
  unfold canonicalMem; decide

/-! ### Worked examples of the spec, and small steps -/

/-- What a step answers, where it answers a next state. -/
def nextOf (o : Host.Outcome State Fault Refusal) : Option State :=
  match o with
  | .next t => some t
  | _ => none

/-- 13_die_memory.md, R370, worked: the home slice and the set of PA 0x1234_5680. -/
theorem test_home_slice : homeSlice 0x12345680 = 15 ∧ lineSet 0x12345680 = 0x8AD := by decide

/-- 04_numbers.md, a worked quantisation to E4M3 (R177): band scale, block scale, the codes of the four values, NX and no OF. -/
theorem test_worked_quantisation :
    let x := [0x44160000, 0x40400000, 0xBFC00000, 0x3E800000].map (fDecode (floatFmt 2))
    bandScale 5 x = 0x3DAC ∧ blockScale 5 0x3DAC x = 0xE0 ∧ (x.map fun v => (quantElem 5 0 0x3DAC 0xE0 v).bits) = [0x7E, 0x41, 0xB9, 0x24] := by
  decide +kernel

def sumList : List Nat := [0x4B800000, 0x3F800000, 0x3F800000, 0x3F800000, 0x3F800000]

/-- 04_numbers.md, a worked reduction (R180, R181): the tree's sum, and the scan's. -/
theorem test_worked_reduction : (reduceList 2 (redOp 0 2 0) sumList).1 = 0x4B800002 ∧
    (scanList 2 (redOp 0 2 0) sumList).1 = List.replicate 5 0x4B800000 := by decide +kernel

/-- 16_collator.md, one token worked (R432 to R435): the records of token 41, by rank. -/
def workedRoute : Route :=
  { routeR with k := 2, a := 1, mode := 1, wb := true, mask := 0xC, t0 := 40, n := 3, rbase := List.replicate 16 0,
                bias := [0, 0x3F000000, 0, 0, 0, 0xBF000000, 0, 0] }
def workedToken : Token :=
  { t := 41, scores := [(0, 0xBF800000), (1, 0x3FC00000), (2, 0x3E800000), (3, 0xC0400000), (4, 0x3F800000), (5, 0x40200000), (6, 0x40000000), (7, 0x3F000000)] }

theorem test_worked_token : ((workedRoute.records workedToken 0).map fun x => (x.w0, x.w1)) =
    [(0x0000000100000029, 0x3F000000), (0x0001000500000029, 0x3F000000), (0x0902000600000029, 0x3F000000)] := by decide +kernel

/-- 05_vector.md, a worked example (R210, R211): sixteen FP16 values in v3 of a core. -/
def nzS : State := withShare (coreV 1 16 4) fun h => { h with vec := { h.vec with
  v := [(3, 0x3E00#8192 <<< 16 ||| 0x8000#8192 <<< 64 ||| 0xC000#8192 <<< 80 ||| 0x4200#8192 <<< 144 ||| 0x4200#8192 <<< 208 ||| 0x3400#8192 <<< 240)] } }

theorem test_worked_nzscan :
    ((nextOf (exec (.nzscan ⟨g0, 8, 3, 0, 4, 0, 0, 4, 7, 1, 0⟩) nzS)).map fun t => (Tbl.get 0 (t.share placedGtid 0).a 4, Tbl.get 0 (t.share placedGtid 0).vec.v 8)) =
      some (5, 0x000F000D000900050001) := by decide +kernel

theorem test_worked_vtopk :
    ((nextOf (exec (.vtopk ⟨g0, 10, 3, 0, 0, 0, 0, 4, 7, 0, 2⟩) nzS)).map fun t =>
      (Tbl.get 0 (t.share placedGtid 0).vec.v 10, Tbl.get 0 (t.share placedGtid 0).vec.v 11)) =
      some (0x3E0042004200, 0x0001000D0009) := by decide +kernel

/-- R113: a sum wraps; a division by zero gives its fixed result; the destination may be a source. -/
theorem test_add_wraps :
    ((nextOf (exec (.add ⟨g0, 1, 1, 2, 0⟩) (withTask spineS fun t => { t with r := [(1, 0xFFFFFFFFFFFFFFFF), (2, 2)] }))).map fun t =>
      Tbl.get 0 (t.task placedGtid).r 1) = some 1 := by decide

theorem test_div_by_zero :
    ((nextOf (exec (.divu ⟨g0, 3, 1, 2, 0⟩) (withTask spineS fun t => { t with r := [(1, 7)] }))).map fun t =>
      Tbl.get 0 (t.task placedGtid).r 3) = some 0xFFFFFFFFFFFFFFFF := by decide

theorem test_div_overflow :
    ((nextOf (exec (.div ⟨g0, 3, 1, 2, 0⟩) (withTask spineS fun t => { t with r := [(1, 0x8000000000000000), (2, 0xFFFFFFFFFFFFFFFF)] }))).map fun t =>
      Tbl.get 0 (t.task placedGtid).r 3) = some 0x8000000000000000 := by decide

/-- R61: a guard that is false. -/
theorem test_guard_false : nextOf (exec (.add ⟨⟨0, true⟩, 1, 1, 2, 0⟩) spineS) = some spineS := by decide

/-- R85: the fates of words that encode no instruction. -/
theorem test_fates :
    decode .x .spine 0xFFFFFFFFFFFFFFFF 0 = .error .illop ∧ decode .x .spine 0 0 = .ok .nop ∧
    decode .m .core (0x00 * 2 ^ 57 + 2 * 2 ^ 25) 0 = .error .illslot ∧ decode .v .core (0x7E * 2 ^ 57) 0 = .error .illslot ∧
    decode .e .core (0x60 * 2 ^ 57 + 0xFF) 0 ≠ .ok .nop ∧ decode .x .spine (0x01 * 2 ^ 57 + 0xFF * 2 ^ 25) 0 = .error .illop := by decide

/-- R379, R380: a store publishes its bytes, the least significant first, and the bytes beside it stay. -/
theorem test_memory_bytes : ((State.reset.memWrite 0x10007 2 0x1234).memByte 0x10007, (State.reset.memWrite 0x10007 2 0x1234).memByte 0x10008,
    (State.reset.memWrite 0x10007 2 0x1234).memByte 0x10009) = (0x34, 0x12, 0) := by decide

end Sys2Proof.Tests
end

/-! The guard of a syllable: what it reads (R26, R27, R61), and that a syllable whose guard is false has no effect. -/

namespace Sys2Proof.Machine

/-- R26, R27: the predicate file of the executing unit, p0 reading 1. -/
theorem State.rdPred_eq (s : State) (n : Nat) :
    s.rdPred n = (n = 0 || (if s.onCore then s.rdShare.p else s.rdTask.p).getLsbD n) := by
  have hone : (1 : BitVec 32).getLsbD n = decide (n = 0) := by simp [BitVec.getLsbD_one]
  rw [State.rdPred, State.predFile, BitVec.getLsbD_or, hone, Bool.or_comm]

theorem State.guardTrue_iff (s : State) (g : Guard) : s.guardTrue g = true ↔ s.rdPred g.gp.toNat ≠ g.gs := bne_iff_ne

theorem State.guardTrue_of_gp_zero (s : State) {g : Guard} (h : g.gp = 0) : s.guardTrue g = !g.gs := by
  have hp : s.rdPred g.gp.toNat = true := by simp [s.rdPred_eq, h]
  rw [State.guardTrue, hp, Bool.true_bne]

end Sys2Proof.Machine

namespace Sys2Proof

open Sys2Proof.Machine

/-- R61: a syllable with a guard answers the state its effect gives where its guard is true, and the state it found where
its guard is false. Each arm of `exec` is a guarded operation, so the shape is read off the arm; the effect itself (`t`)
plays no part. -/
theorem exec_eq_next_ite_guard {i : Instr} {g : Guard} (hi : i.guard? = some g) (s : State) :
    ∃ t, exec i s = .next (if s.guardTrue g then t else s) := by
  cases i
  -- NOP and the steps that are no syllable have no guard; for the others `g` is the guard field of the format.
  all_goals cases hi
  all_goals exact ⟨_, rfl⟩

theorem exec_of_guardTrue_eq_false {i : Instr} {g : Guard} {s : State} (hi : i.guard? = some g)
    (hg : s.guardTrue g = false) : exec i s = .next s := by
  obtain ⟨t, ht⟩ := exec_eq_next_ite_guard hi s
  rw [ht, hg, if_neg Bool.false_ne_true]

/-- Settles O3: every syllable's arm is a guarded operation, and the guard is read from the predicate file with p0 as 1. -/
theorem falseGuardHasNoEffect : Obligations.FalseGuardHasNoEffect := by
  refine ⟨fun i g s => exec_of_guardTrue_eq_false, fun g s => ⟨s.guardTrue_iff g, s.guardTrue_of_gp_zero, ?_⟩⟩
  have hzero : g.gp.toNat = 0 ↔ g.gp = 0 := BitVec.toNat_inj (y := 0)
  simp only [s.rdPred_eq, hzero]

end Sys2Proof

/-! The results of integer instructions, as the model computes them and as the rules give them (R112 to R115). -/

namespace Sys2Proof

open Sys2Proof.Machine

theorem sub_eq_ofInt_toInt (a b : Word) : a - b = BitVec.ofInt 64 (a.toInt - b.toInt) := by
  rw [Int.sub_eq_add_neg, BitVec.ofInt_add, BitVec.ofInt_neg, BitVec.ofInt_toInt, BitVec.ofInt_toInt, BitVec.sub_eq_add_neg]

theorem mul_eq_ofNat_toNat (a b : Word) : a * b = BitVec.ofNat 64 (a.toNat * b.toNat) := by
  rw [BitVec.ofNat_mul, BitVec.ofNat_toNat, BitVec.ofNat_toNat, BitVec.setWidth_eq, BitVec.setWidth_eq]

theorem divU_eq_ofNat_toNat (a b : Word) :
    divU a b = if b = 0 then BitVec.allOnes 64 else BitVec.ofNat 64 (a.toNat / b.toNat) := by
  rw [divU, BitVec.udiv_def]

theorem remU_eq_ofNat_toNat (a b : Word) :
    remU a b = if b = 0 then a else BitVec.ofNat 64 (a.toNat % b.toNat) := by
  rw [remU, BitVec.umod_def]

theorem shl_eq_ofNat_toNat (a : Word) (n : Nat) : a <<< n = BitVec.ofNat 64 (a.toNat * 2 ^ n) := by
  rw [← Nat.shiftLeft_eq]; rfl

theorem shr_eq_ofNat_toNat (a : Word) (n : Nat) : a >>> n = BitVec.ofNat 64 (a.toNat / 2 ^ n) := by
  rw [← Nat.shiftRight_eq_div_pow, ← BitVec.toNat_ushiftRight, BitVec.ofNat_toNat, BitVec.setWidth_eq]

theorem sra_eq_ofInt_toInt (a : Word) (n : Nat) : a.sshiftRight n = BitVec.ofInt 64 (a.toInt / 2 ^ n) := by
  rw [← BitVec.ofInt_toInt (x := a.sshiftRight n), BitVec.toInt_sshiftRight, Int.shiftRight_eq_div_pow, Nat.cast_pow,
    Nat.cast_ofNat]

theorem shl_and_shr_complement (a : Word) (n : Nat) : a <<< n &&& a >>> (64 - n) = 0 := by
  apply BitVec.eq_of_getLsbD_eq
  intro i hi
  by_cases hin : i < n
  · simp [hin]
  · have hout : a.getLsbD (64 - n + i) = false := BitVec.getLsbD_of_ge _ _ (by omega)
    simp [hout]

theorem shiftCount_lt (b : Word) : shiftCount b < 64 := Nat.mod_lt _ (by decide)

/-- The two parts of a rotation share no bit, so their union is their sum. -/
theorem rot_eq_ofNat_toNat (a : Word) {n : Nat} (hn : n < 64) :
    a.rotateLeft n = BitVec.ofNat 64 (a.toNat * 2 ^ n + a.toNat / 2 ^ (64 - n)) := by
  rw [BitVec.rotateLeft_def, Nat.mod_eq_of_lt hn, ← BitVec.add_eq_or_of_and_eq_zero _ _ (shl_and_shr_complement a n),
    BitVec.ofNat_add, ← shl_eq_ofNat_toNat, ← shr_eq_ofNat_toNat]

/-- Where a tie chooses between equals, `<` and `≤` choose alike. -/
theorem ite_lt_eq_ite_le {α : Type} [LinearOrder α] {read : Word → α} (hread : read.Injective) {a b x y : Word}
    (hxy : a = b → x = y) : (if read a < read b then x else y) = if read a ≤ read b then x else y := by
  rcases lt_trichotomy (read a) (read b) with h | h | h
  · rw [if_pos h, if_pos h.le]
  · rw [if_neg h.not_lt, if_pos h.le, hxy (hread h)]
  · rw [if_neg h.not_gt, if_neg h.not_ge]

theorem toInt_injective : (BitVec.toInt : Word → Int).Injective := fun _ _ => BitVec.eq_of_toInt_eq

theorem minS_eq_ite_toInt (a b : Word) : minS a b = if a.toInt ≤ b.toInt then a else b := by
  simp only [minS, BitVec.slt_iff_toInt_lt, ite_lt_eq_ite_le toInt_injective id]

theorem maxS_eq_ite_toInt (a b : Word) : maxS a b = if a.toInt ≤ b.toInt then b else a := by
  simp only [maxS, BitVec.slt_iff_toInt_lt, ite_lt_eq_ite_le toInt_injective Eq.symm]

theorem minU_eq_ite_toNat (a b : Word) : minU a b = if a.toNat ≤ b.toNat then a else b := by
  simp only [minU, BitVec.ult_iff_toNat_lt, ite_lt_eq_ite_le BitVec.toNat_injective id]

theorem maxU_eq_ite_toNat (a b : Word) : maxU a b = if a.toNat ≤ b.toNat then b else a := by
  simp only [maxU, BitVec.ult_iff_toNat_lt, ite_lt_eq_ite_le BitVec.toNat_injective Eq.symm]

/-- Below `2 ^ n` the highest one bit is at `log2`. -/
theorem leadingZeros_of_lt_two_pow {n a : Nat} (ha : a < 2 ^ n) (h0 : a ≠ 0) :
    leadingZeros n a = n - 1 - a.log2 := by
  induction n with
  | zero => omega
  | succ n ih =>
    cases hbit : a.testBit n with
    | true =>
      have hlog : a.log2 = n := (Nat.log2_eq_iff h0).2 ⟨Nat.ge_two_pow_of_testBit hbit, ha⟩
      simp [leadingZeros, hbit, hlog]
    | false =>
      have hlt : a < 2 ^ n := by
        by_contra hge
        rw [Nat.testBit_of_two_pow_le_and_two_pow_add_one_gt (not_lt.mp hge) ha] at hbit
        exact absurd hbit (by decide)
      have hlog : a.log2 < n := (Nat.log2_lt h0).2 hlt
      simp [leadingZeros, hbit, ih hlt]
      omega

theorem leadingZeros_zero (n : Nat) : leadingZeros n 0 = n := by
  induction n with
  | zero => rfl
  | succ n ih => simp [leadingZeros, ih, Nat.add_comm]

theorem ofNat_leadingZeros_eq_specClz (a : Word) : BitVec.ofNat 64 (leadingZeros 64 a.toNat) = specClz a := by
  rw [specClz]
  split_ifs with h
  · rw [h]; exact congrArg _ (leadingZeros_zero 64)
  · rw [leadingZeros_of_lt_two_pow a.isLt fun h0 => h (BitVec.eq_of_toNat_eq h0)]

theorem onesBelow_eq_countP (n a : Nat) : onesBelow n a = (List.range n).countP a.testBit := by
  induction n with
  | zero => rfl
  | succ n ih => simp [onesBelow, List.range_succ, List.countP_append, ih, Nat.add_comm, List.countP_cons]

theorem ofNat_onesBelow_eq_specPopc (a : Word) : BitVec.ofNat 64 (onesBelow 64 a.toNat) = specPopc a :=
  congrArg _ (onesBelow_eq_countP 64 a.toNat)

theorem extWidth_eq_specWidth (f : FmtA) : extWidth f.mod = specWidth f := by
  rw [extWidth, specWidth, Nat.shiftLeft_eq]

theorem sextFrom_eq_ofInt_bmod (f : FmtA) (a : Word) :
    Word.sextFrom (extWidth f.mod) a = BitVec.ofInt 64 (Int.bmod a.toNat (2 ^ specWidth f)) := by
  rw [extWidth_eq_specWidth, Word.sextFrom, BitVec.signExtend, BitVec.toInt_setWidth]

theorem zextFrom_eq_ofNat_mod (f : FmtA) (a : Word) :
    Word.zextFrom (extWidth f.mod) a = BitVec.ofNat 64 (a.toNat % 2 ^ specWidth f) := by
  rw [extWidth_eq_specWidth, Word.zextFrom, ← BitVec.toNat_setWidth, BitVec.ofNat_toNat]

/-- R114, MOVH: the immediate's 32 bits above the register's low 32. -/
theorem movh_eq_ofNat_toNat (imm : BitVec 32) (d : Word) :
    imm ++ d.setWidth 32 =
      BitVec.ofNat 64 ((BitVec.ofInt 64 imm.toInt).toNat % 2 ^ 32 * 2 ^ 32 + d.toNat % 2 ^ 32) := by
  have hlow : (BitVec.ofInt 64 imm.toInt).toNat % 2 ^ 32 = imm.toNat := by
    rw [BitVec.toNat_ofInt, BitVec.toInt_eq_toNat_cond]
    split_ifs <;> omega
  apply BitVec.eq_of_toNat_eq
  have hd : d.toNat % 2 ^ 32 < 2 ^ 32 := Nat.mod_lt _ (by decide)
  rw [hlow, BitVec.toNat_append, BitVec.toNat_setWidth, ← Nat.shiftLeft_add_eq_or_of_lt hd, Nat.shiftLeft_eq,
    BitVec.toNat_ofNat]
  omega

/-! ### Each arm writes one result to one register (R110, R112 to R115) -/

/-- An arm that writes `v`, where its guard lets it, to the integer register `d`, meets `writesInt`. -/
theorem writesInt_of_exec_eq {i : Instr} {g : Guard} {d : BitVec 6} {v : State → Word}
    (hi : ∀ s, exec i s = s.guarded g fun s => s.wrInt d (v s)) : writesInt i g d v := by
  intro s hg
  exact ⟨s.wrInt d (v s), (hi s).trans (s.guarded_true _ hg), wrInt_writes s d (v s)⟩

theorem writesInt.congr {i : Instr} {g : Guard} {d : BitVec 6} {v w : State → Word} (h : writesInt i g d v)
    (hvw : ∀ s, v s = w s) : writesInt i g d w := by
  obtain rfl : v = w := funext hvw
  exact h

/-- An entry of `registerForms` tells what its instruction does, with every operand (R112, R113). -/
def RegisterFormWrites (e : (FmtA → Instr) × (FmtA → (Nat → Bool) → Word → Word → Word)) : Prop :=
  ∀ f : FmtA, writesInt (e.1 f) f.g f.d fun s => e.2 f s.rdPred (s.rdInt f.sa) (s.operandB f)

/-- An entry of `immediateForms` tells what its instruction does, with every operand (R114). -/
def ImmediateFormWrites (e : (FmtI → Instr) × (Word → Word → Word → Word)) : Prop :=
  ∀ f : FmtI, writesInt (e.1 f) f.g f.d fun s => e.2 (s.rdInt f.sa) (BitVec.ofInt 64 f.imm.toInt) (s.rdInt f.d)

/-- An entry of `registerForms`: the arm computes `op` of the operands, and `op` is the rule's result `r`. -/
theorem RegisterFormWrites.of_eq {i : FmtA → Instr} {op r : FmtA → (Nat → Bool) → Word → Word → Word}
    (hop : ∀ f p a b, op f p a b = r f p a b)
    (hi : ∀ f s, exec (i f) s = s.guarded f.g fun s => s.wrInt f.d (op f s.rdPred (s.rdInt f.sa) (s.operandB f))) :
    RegisterFormWrites (i, r) := fun f =>
  (writesInt_of_exec_eq (hi f)).congr fun s => hop f s.rdPred (s.rdInt f.sa) (s.operandB f)

/-- An entry of `immediateForms`: the arm computes `op` of the immediate, of A and of what D held. -/
theorem ImmediateFormWrites.of_eq {i : FmtI → Instr} {op : BitVec 32 → Word → Word → Word} {r : Word → Word → Word → Word}
    (hop : ∀ imm a d, op imm a d = r a (BitVec.ofInt 64 imm.toInt) d)
    (hi : ∀ f s, exec (i f) s = s.guarded f.g fun s => s.wrInt f.d (op f.imm (s.rdInt f.sa) (s.rdInt f.d))) :
    ImmediateFormWrites (i, r) := fun f =>
  (writesInt_of_exec_eq (hi f)).congr fun s => hop f.imm (s.rdInt f.sa) (s.rdInt f.d)

/-- An instruction and its form on a matrix core (R110) have one result; their arms are read off `exec`. -/
theorem RegisterFormWrites.cons_pair {i m : FmtA → Instr} {op r : FmtA → (Nat → Bool) → Word → Word → Word}
    {l : List ((FmtA → Instr) × (FmtA → (Nat → Bool) → Word → Word → Word))}
    (hop : ∀ f p a b, op f p a b = r f p a b) (hl : ∀ e ∈ l, RegisterFormWrites e)
    (hi : ∀ f s, exec (i f) s = s.guarded f.g fun s => s.wrInt f.d (op f s.rdPred (s.rdInt f.sa) (s.operandB f)) := by
      exact fun _ _ => rfl)
    (hm : ∀ f s, exec (m f) s = s.guarded f.g fun s => s.wrInt f.d (op f s.rdPred (s.rdInt f.sa) (s.operandB f)) := by
      exact fun _ _ => rfl) :
    ∀ e ∈ (i, r) :: (m, r) :: l, RegisterFormWrites e := by
  rw [List.forall_mem_cons, List.forall_mem_cons]
  exact ⟨.of_eq hop hi, .of_eq hop hm, hl⟩

/-- The same for the forms with an immediate. -/
theorem ImmediateFormWrites.cons_pair {i m : FmtI → Instr} {op : BitVec 32 → Word → Word → Word}
    {r : Word → Word → Word → Word} {l : List ((FmtI → Instr) × (Word → Word → Word → Word))}
    (hop : ∀ imm a d, op imm a d = r a (BitVec.ofInt 64 imm.toInt) d) (hl : ∀ e ∈ l, ImmediateFormWrites e)
    (hi : ∀ f s, exec (i f) s = s.guarded f.g fun s => s.wrInt f.d (op f.imm (s.rdInt f.sa) (s.rdInt f.d)) := by
      exact fun _ _ => rfl)
    (hm : ∀ f s, exec (m f) s = s.guarded f.g fun s => s.wrInt f.d (op f.imm (s.rdInt f.sa) (s.rdInt f.d)) := by
      exact fun _ _ => rfl) :
    ∀ e ∈ (i, r) :: (m, r) :: l, ImmediateFormWrites e := by
  rw [List.forall_mem_cons, List.forall_mem_cons]
  exact ⟨.of_eq hop hi, .of_eq hop hm, hl⟩

/-- R112, R113, in the order of `registerForms`: the fact on each line turns the model's result into the rule's. -/
theorem registerFormWrites_of_mem : ∀ e ∈ registerForms, RegisterFormWrites e :=
  .cons_pair (fun _ _ a b => BitVec.add_def a b) <|                           -- ADD
  .cons_pair (fun _ _ a b => sub_eq_ofInt_toInt a b) <|                       -- SUB
  .cons_pair (fun _ _ a b => mul_eq_ofNat_toNat a b) <|                       -- MUL
  .cons_pair (fun _ _ _ _ => rfl) <|                                          -- MULH
  .cons_pair (fun _ _ _ _ => rfl) <|                                          -- MULHU
  .cons_pair (fun _ _ _ _ => rfl) <|                                          -- DIV
  .cons_pair (fun _ _ a b => divU_eq_ofNat_toNat a b) <|                      -- DIVU
  .cons_pair (fun _ _ _ _ => rfl) <|                                          -- REM
  .cons_pair (fun _ _ a b => remU_eq_ofNat_toNat a b) <|                      -- REMU
  .cons_pair (fun _ _ _ _ => rfl) <|                                          -- AND
  .cons_pair (fun _ _ _ _ => rfl) <|                                          -- OR
  .cons_pair (fun _ _ _ _ => rfl) <|                                          -- XOR
  .cons_pair (fun _ _ _ _ => rfl) <|                                          -- ANDN
  .cons_pair (fun _ _ a b => shl_eq_ofNat_toNat a (shiftCount b)) <|          -- SHL
  .cons_pair (fun _ _ a b => shr_eq_ofNat_toNat a (shiftCount b)) <|          -- SHR
  .cons_pair (fun _ _ a b => sra_eq_ofInt_toInt a (shiftCount b)) <|          -- SRA
  .cons_pair (fun _ _ a b => rot_eq_ofNat_toNat a (shiftCount_lt b)) <|       -- ROT
  .cons_pair (fun _ _ a b => minS_eq_ite_toInt a b) <|                        -- MIN
  .cons_pair (fun _ _ a b => maxS_eq_ite_toInt a b) <|                        -- MAX
  .cons_pair (fun _ _ a b => minU_eq_ite_toNat a b) <|                        -- MINU
  .cons_pair (fun _ _ a b => maxU_eq_ite_toNat a b) <|                        -- MAXU
  .cons_pair (fun _ _ a _ => ofNat_leadingZeros_eq_specClz a) <|              -- CLZ
  .cons_pair (fun _ _ a _ => ofNat_onesBelow_eq_specPopc a) <|                -- POPC
  .cons_pair (fun _ _ _ _ => rfl) <|                                          -- SEL
  .cons_pair (fun _ _ _ _ => rfl) <|                                          -- MOV
  .cons_pair (fun f _ a _ => sextFrom_eq_ofInt_bmod f a) <|                   -- SEXT
  .cons_pair (fun f _ a _ => zextFrom_eq_ofNat_mod f a) <|                    -- ZEXT
  List.forall_mem_nil _

/-- R114, in the order of `immediateForms`. -/
theorem immediateFormWrites_of_mem : ∀ e ∈ immediateForms, ImmediateFormWrites e :=
  .cons_pair (fun _ a _ => BitVec.add_def a _) <|                             -- ADD
  .cons_pair (fun _ a _ => mul_eq_ofNat_toNat a _) <|                         -- MUL
  .cons_pair (fun _ _ _ => rfl) <|                                            -- AND
  .cons_pair (fun _ _ _ => rfl) <|                                            -- OR
  .cons_pair (fun _ _ _ => rfl) <|                                            -- XOR
  .cons_pair (fun _ a _ => shl_eq_ofNat_toNat a (shiftCount _)) <|            -- SHL
  .cons_pair (fun _ a _ => shr_eq_ofNat_toNat a (shiftCount _)) <|            -- SHR
  .cons_pair (fun _ a _ => sra_eq_ofInt_toInt a (shiftCount _)) <|            -- SRA
  .cons_pair (fun _ a _ => rot_eq_ofNat_toNat a (shiftCount_lt _)) <|         -- ROT
  .cons_pair (fun _ a _ => minS_eq_ite_toInt a _) <|                          -- MIN
  .cons_pair (fun _ a _ => maxS_eq_ite_toInt a _) <|                          -- MAX
  .cons_pair (fun _ a _ => minU_eq_ite_toNat a _) <|                          -- MINU
  .cons_pair (fun _ a _ => maxU_eq_ite_toNat a _) <|                          -- MAXU
  .cons_pair (fun _ _ _ => rfl) <|                                            -- MOV
  .cons_pair (fun imm _ d => movh_eq_ofNat_toNat imm d) <|                    -- MOVH
  List.forall_mem_nil _

/-- Settles O1: the arms of an instruction and of its form on a matrix core compute one result, which is the rule's, and write
it with `wrInt`. -/
theorem integerInstructionResults : Obligations.IntegerInstructionResults :=
  ⟨registerFormWrites_of_mem, immediateFormWrites_of_mem, fun _ =>
    ⟨writesInt_of_exec_eq fun _ => rfl, writesInt_of_exec_eq fun _ => rfl⟩⟩

end Sys2Proof

/-! Reads of state, and the ring words between cores (R118, R131, R153, R282, R283, R295, R347). -/

namespace Sys2Proof

open Sys2Proof.Machine

/-- R110, R118: PGET, on every unit. -/
theorem predGet_writesInt {i : Instr} {f : FmtA} (hi : ∀ s, exec i s = s.predGet f) :
    writesInt i f.g f.d fun s => BitVec.ofNat 64 s.predFile.toNat :=
  (writesInt_of_exec_eq hi).congr fun s => (BitVec.ofNat_toNat 64 s.predFile).symm

/-- R67, R131: the effective address is the sum modulo 2^64. -/
theorem ea_eq_specEa (s : State) (f : FmtM) : s.ea f = specEa s f := by
  have hscaled : (if f.ix then s.rdInt f.index <<< f.scale.toNat else 0)
      = BitVec.ofInt 64 (if f.ix then (s.rdInt f.index).toNat * 2 ^ f.scale.toNat else 0 : Nat) := by
    split_ifs
    · rw [BitVec.ofInt_natCast, shl_eq_ofNat_toNat]
    · rfl
  rw [State.ea, hscaled, specEa]
  push_cast
  rw [BitVec.ofInt_add, BitVec.ofInt_add, BitVec.ofInt_natCast, BitVec.ofNat_toNat, BitVec.setWidth_eq]
  rfl

/-- R110, R131: LEA, on every unit. -/
theorem ea_writesInt {i : Instr} {f : FmtM} (hi : ∀ s, exec i s = s.guarded f.g fun s => s.wrInt f.d (s.ea f)) :
    writesInt i f.g f.d fun s => specEa s f :=
  (writesInt_of_exec_eq hi).congr fun s => ea_eq_specEa s f

/-- R295: the three queries of CPQ; each picks a value of the share and writes it. -/
theorem cpq_writesInt {f : FmtE} (hq : (f.mod.extractLsb' 3 2).toNat < 3) : writesInt (.cpq f) f.g f.opa fun s =>
    if (f.mod.extractLsb' 3 2).toNat = 0 then (s.rdShare.watermark (f.mod.toNat % 8)).setWidth 64
    else if (f.mod.extractLsb' 3 2).toNat = 1 then (Tbl.get 0 s.rdShare.cpNext (f.mod.toNat % 8)).setWidth 64
    else BitVec.ofNat 64 s.rdShare.copies.length := by
  refine writesInt_of_exec_eq fun s => ?_
  change execCpq f s = _
  have hcases : (f.mod.extractLsb' 3 2).toNat = 0 ∨ (f.mod.extractLsb' 3 2).toNat = 1 ∨ (f.mod.extractLsb' 3 2).toNat = 2 := by
    omega
  rcases hcases with h | h | h
  · simp only [execCpq, h]; rfl
  · simp only [execCpq, h]; rfl
  · simp only [execCpq, h]; rfl

/-! ### The ring -/

/-- The slot K of RPUT and RGET (R283). -/
theorem ringSlot_eq (f : FmtA) : (f.mod.extractLsb' 0 3).toNat = f.mod.toNat % 8 := by
  rw [BitVec.extractLsb'_toNat, Nat.shiftRight_zero]

/-- R347: the words a share has sent in a direction into a slot, latest first. -/
def sentInto (h : Share) (west : Bool) (k : Nat) : List (Nat × Word) := Tbl.get [] (if west then h.sentW else h.sentE) k

/-- R347: the share once it has sent `w` in a direction into slot `k`. -/
def recordSend (west : Bool) (k : Nat) (w : Word) (h : Share) : Share :=
  let sent := ((h.nextIdx, w) :: sentInto h west k).take sentDepth
  if west then { h with sentW := Tbl.set [] h.sentW k sent } else { h with sentE := Tbl.set [] h.sentE k sent }

theorem sentInto_recordSend_self (west : Bool) (k : Nat) (w : Word) (h : Share) :
    sentInto (recordSend west k w h) west k = (h.nextIdx, w) :: (sentInto h west k).take 63 := by
  cases west
  · simp [recordSend, sentInto, sentDepth]
  · simp [recordSend, sentInto, sentDepth]

theorem sentInto_recordSend_ne {west west' : Bool} {k k' : Nat} (w : Word) (h : Share) (hne : (west', k') ≠ (west, k)) :
    sentInto (recordSend west k w h) west' k' = sentInto h west' k' := by
  by_cases hw : west' = west
  · obtain rfl := hw
    have hk : k' ≠ k := fun hk => hne (by rw [hk])
    cases west' with
    | false => simp [sentInto, recordSend, Tbl.get_set_ne _ _ _ hk]
    | true => simp [sentInto, recordSend, Tbl.get_set_ne _ _ _ hk]
  · obtain rfl : west' = !west := Bool.eq_not.mpr hw
    cases west with
    | false => rfl
    | true => rfl

theorem recordSend_frame (west : Bool) (k : Nat) (w : Word) (h : Share) :
    { recordSend west k w h with sentE := h.sentE, sentW := h.sentW } = h := by
  cases west <;> rfl

theorem exec_rput_eq (f : FmtA) (s : State) : exec (.rput f) s =
    s.guarded f.g fun s => s.modCurShare (recordSend (f.mod.getLsbD 3) (f.mod.toNat % 8) (s.rdInt f.sa)) := by
  rw [← ringSlot_eq]
  change execRput f s = _
  cases hw : f.mod.getLsbD 3
  · simp only [execRput, hw]; rfl
  · simp only [execRput, hw]; rfl

/-- A change of the executing share alone. -/
theorem modCurShare_unitFrame (s : State) {up : Share → Share} {es : Share → Share → Share}
    (hes : es (curShare s) (up (curShare s)) = curShare s) :
    unitFrame (fun s t => { t with shares := s.shares }) (fun _ b => b) es s (s.modCurShare up) := by
  refine ⟨rfl, fun _ _ => rfl, fun g c hne => s.share_modShare_ne up hne, rfl, ?_⟩
  rw [s.modCurShare_share]
  exact hes

/-- R347: what a receiver sees is the first word of those old enough, or zero. -/
theorem seenBy_eq_head?_filter (m lag : Nat) (sent : List (Nat × Word)) :
    seenBy m lag sent = (((sent.filter fun e => e.1 + lag ≤ m).head?).map (·.2)).getD 0 := by
  rw [List.head?_filter, seenBy]
  cases sent.find? fun e => decide (e.1 + lag ≤ m) with
  | none => rfl
  | some e => rfl

/-- R283, R347: the neighbour whose slot RGET reads, and how many bundles the word lags behind. -/
theorem exec_rget_eq (f : FmtA) (s : State) : exec (.rget f) s = s.guarded f.g fun s =>
    s.wrInt f.d (seenBy s.rdShare.nextIdx (if f.mod.getLsbD 3 then 4 else if s.curCore = 0 then 16 else 0)
      (sentInto (s.share s.curGtid (if f.mod.getLsbD 3 then (s.curCore + 1) % 8 else (s.curCore + 7) % 8))
        (f.mod.getLsbD 3) (f.mod.toNat % 8))) := by
  rw [← ringSlot_eq]
  change execRget f s = _
  cases hw : f.mod.getLsbD 3
  · simp only [execRget, hw]; rfl
  · simp only [execRget, hw]; rfl

/-- R283, R347: RPUT puts its word in front of those it keeps of its slot; nothing else changes. -/
theorem rput_records (f : FmtA) {s : State} (hg : s.guardTrue f.g = true) : ∃ t, exec (.rput f) s = .next t ∧
    (sentInto (curShare t) (f.mod.getLsbD 3) (f.mod.toNat % 8)
      = ((curShare s).nextIdx, s.rdInt f.sa) :: (sentInto (curShare s) (f.mod.getLsbD 3) (f.mod.toNat % 8)).take 63) ∧
    (∀ w' k', (w', k') ≠ (f.mod.getLsbD 3, f.mod.toNat % 8) → sentInto (curShare t) w' k' = sentInto (curShare s) w' k') ∧
    unitFrame (fun s t => { t with shares := s.shares }) (fun _ b => b)
       (fun a b => { b with sentE := a.sentE, sentW := a.sentW }) s t := by
  have hshare (up : Share → Share) : curShare (s.modCurShare up) = up (curShare s) := s.modCurShare_share up
  refine ⟨_, (exec_rput_eq f s).trans (s.guarded_true _ hg), ?_, ?_, modCurShare_unitFrame s (recordSend_frame _ _ _ _)⟩
  · rw [hshare, sentInto_recordSend_self]
  · intro w' k' hne
    rw [hshare, sentInto_recordSend_ne _ _ hne]

/-- Settles O5: the reads write the value they name with `wrInt`; RPUT is a `recordSend` of the executing share, and RGET sees
the first word of its neighbour's that is old enough. -/
theorem stateReadsAndRingWords : Obligations.StateReadsAndRingWords := by
  refine ⟨⟨fun f => ⟨?_, ?_, ?_, ?_, ?_⟩, fun f => ⟨?_, ?_⟩, fun f hq => cpq_writesInt hq⟩, fun f s hg => ?_, fun f => ?_⟩
  · exact predGet_writesInt fun _ => rfl
  · exact predGet_writesInt fun _ => rfl
  · exact writesInt_of_exec_eq fun _ => rfl
  · exact writesInt_of_exec_eq fun _ => rfl
  · exact writesInt_of_exec_eq fun _ => rfl
  · exact ea_writesInt fun _ => rfl
  · exact ea_writesInt fun _ => rfl
  · obtain ⟨t, ht, hsent, hother, hframe⟩ := rput_records f hg
    exact ⟨t, ht, ⟨congrArg List.head? hsent, congrArg List.tail hsent, hother⟩, hframe⟩
  · exact (writesInt_of_exec_eq (exec_rget_eq f)).congr fun s => seenBy_eq_head?_filter _ _ _

end Sys2Proof
